-- ==== Sys2Proof/Word.lean ====
section
/-! DEFINITION. The word types of the package: every register is 64 bits (R560), memory is bytes. -/
namespace Sys2Proof

/-- One byte. -/
abbrev Byte := BitVec 8

/-- One 64-bit word: a control register, a scalar register. -/
abbrev Word := BitVec 64

end Sys2Proof
end

