-- ==== Sys2Proof/Syntax.lean ====
section
/-! DEFINITION. The commands of the block. -/
namespace Sys2Proof

/-- A memory-cell event in a core's SRAM met by the reading op (R67–R69): none, a corrected single-bit error, an
uncorrectable error in the fill line at an address, an uncorrectable error in another store (0x1 vector … 0x6 scale
table). -/
inductive SramErr where
  | none
  | corrected
  | line (addr : BitVec 48)
  | store (code : BitVec 4)
  deriving DecidableEq, Repr

/-- A disturbance by a faulty cell (R148, R149): the pass of the op, the chunk of the pass, the activation row (64: the
checksum row), the column (64: the checksum column), and the FP32 value that it adds. -/
structure MxUpset where
  pass : BitVec 4
  chunk : BitVec 3
  row : BitVec 7
  col : BitVec 7
  delta : BitVec 32
  deriving DecidableEq, Repr

/-- Errors that have come into memory: in the codeword of the granule at `addr` of a stack, the symbols (0–63 its bytes,
64–67 its check bytes) with the values they are XORed with (R348, R354); in the 64-bit word at `addr` of a cellar or of the
staging SRAM, the bits (64–71 the SECDED bits) that flipped (R373, R412). -/
structure CwErr where
  addr : BitVec 48
  syms : List (BitVec 7 × BitVec 8)
  deriving DecidableEq, Repr

/-- What a board programmer leaves in the flash while RESET_N is low (R509, R520): size in MiB; whether it answers SFDP and
offers 8D-8D-8D; of the manufacture region the Verpin root key's modulus, the identity key's modulus, its private key as wrapped, and
the two certificates; the bytes written, by offset. -/
structure FlashProg where
  mib : Nat
  ok : Bool
  rootN : Nat
  idN : Nat
  idWrap : List (BitVec 8)
  idCert : List (BitVec 8)
  caCert : List (BitVec 8)
  parts : List (Nat × List (BitVec 8))
  deriving DecidableEq, Repr

/-- What manufacture fused (R49, R509, R513): TOP_ID.GRADE, the vats, the guest die, the minimum security version, the serial, the
SHA-256 of the Verpin root key, the device-unique key, the physical compute cores fused off (128 × vat + core). -/
structure FuseProg where
  grade : Nat
  vatMask : Nat
  guest : Bool
  minSvn : Nat
  serial : Nat
  rootHash : Nat
  devKey : Nat
  fusedOff : List Nat
  deriving DecidableEq, Repr

/-- A string of bytes. -/
abbrev Bytes := List (BitVec 8)

/-- The kinds of membership order (R448). -/
inductive OrderKind where
  | expel
  | sitout
  | rejoin
  | stop
  deriving DecidableEq, Repr

/-- The commands of the block, one constructor per row of the opcode table, with the row's summary. A trailing operand with a
default is left out where it adds nothing: no error, nothing more in the same cc, no request to replay. -/
inductive Instr where
  /-- PWRGD_FALL (R544): PWRGD falls while RESET_N is high and acts as an assertion of RESET_N within 1 µs; within a
    further 1 ms the package draws at most idle power. -/
  | pwrgdFall
  /-- RESET_N_ASSERT (R36): RESET_N falls and resets every die domain together, abandoning any vat reset in progress. -/
  | resetAssert
  /-- RESET_N_RELEASE (R535): RESET_N is released: the boot ROM starts, reads the fuses, draws BOOT_ID and chooses a
    firmware image. -/
  | resetRelease (bootId : BitVec 24) (prog : Option FlashProg) (fuse : Option FuseProg := none)
  /-- FIRMWARE_START (R527): Firmware starts on the chosen image, handles the staged objects and applies the
    configuration record. -/
  | firmwareStart (lib0 : BitVec 32) (lib1 : BitVec 32)
  /-- DIES_TRAINED (R46): The die PLLs lock and the edges train and negotiate the intersection of the capability words. -/
  | diesTrained (caps : BitVec 64) (low : List (BitVec 4 × BitVec 8))
  /-- BOOT_TEST_DONE (R80): The boot-time test of the cores and SRAM ends, and each vat's logical-to-physical core map
    is built. -/
  | bootTestDone (failed : List (BitVec 9))
  /-- MEMORY_CLEAR_DONE (R353): The stacks are trained, and user memory, the cellars and the staging SRAM are cleared
    with correct rinds. -/
  | memoryClearDone
  /-- LINK_TRAINING_START (R535): At exactly 30 s after RESET_N release, every Aedun port starts training. -/
  | linkTrainingStart
  /-- PORT_TRAIN_DONE (R388): A port ends training with its partner and enters UP at its width, or becomes MISCABLED. -/
  | portTrainDone (port : BitVec 5) (pid : BitVec 12) (pport : BitVec 5) (popt : Bool) (rates : BitVec 4) (rx : BitVec 5) (tx :
      BitVec 5) (ver : BitVec 8 := 0)
  /-- PORT_NO_PARTNER (R389): A port that detects no partner, or an optical port with no guest report, within 2 s enters
    NO_PARTNER. -/
  | portNoPartner (port : BitVec 5)
  /-- BOOT_READY (R537): Once every present vat is READY, the scan library is copied and the clapper is locked, the
    package reports ready for job and confirms the directory. -/
  | bootReady
  /-- CLOCK_LATE (R538): A package that is not LOCKED at 90 s logs code 0x480A and stays in CLOCK. -/
  | clockLate
  /-- THERMTRIP (R551): A junction that reaches 110 °C asserts THERMTRIP_N and stops every core, port and stack
    controller. -/
  | thermtrip (die : BitVec 3) (temp : BitVec 8)
  /-- BRAKE_N_FALL (R547): A falling edge on BRAKE_N applies the brake term of the throttle within 1 µs. -/
  | brakeFall (pin : BitVec 2 := 0)
  /-- BRAKE_N_RISE (R547): BRAKE_N returns high, and the brake term goes to 0. -/
  | brakeRise (pin : BitVec 2 := 0)
  /-- TIME_IN_EDGE (R439): A rising edge of TIME_IN on the root steers the clapper onto whole seconds. -/
  | timeInEdge
  /-- GAFFER_SAMPLE (R547): Every 10 µs the gaffer samples power, updates the averages and the projection, and sets the
    throttle level L. -/
  | gafferSample (watts : BitVec 16)
  /-- TEMP_SAMPLE (R549): Every 100 µs the die and stack temperature readings are updated. -/
  | tempSample (vat0 : Bytes) (vat1 : Bytes) (vat2 : Bytes) (vat3 : Bytes) (hub : Bytes) (stack : Bytes)
  /-- JTAG_INSTRUCTION (R555): While RESET_N is low, the TAP executes BYPASS, IDCODE, SAMPLE/PRELOAD, EXTEST or CLAMP. -/
  | jtagInstruction (code : BitVec 3)
  /-- D2D_FLIT_RECEIVE (R21): A die-to-die flit arrives; it is delivered in order, or discarded and replayed when its
    CRC fails. -/
  | d2dFlitReceive (edge : BitVec 4) (module : BitVec 5) (eend : BitVec 1) (seq : Nat) (cred : BitVec 4) (payload :
      Bytes) (flips : List (BitVec 11) := [])
  /-- D2D_FLIT_ACK (R21): A flit acknowledgement reaches the sender, which frees the flit from its replay buffer. -/
  | d2dFlitAck (edge : BitVec 4) (module : BitVec 5) (eend : BitVec 1) (seq : Nat)
  /-- D2D_REPLAY_LIMIT (R23): A flit fails REPLAY_LIMIT consecutive replays, and its module retrains while the other
    modules carry its flits. -/
  | d2dReplayLimit (edge : BitVec 4) (module : BitVec 5) (eend : BitVec 1)
  /-- D2D_RETRAIN_DONE (R23): A module retraining ends; a module that failed to retrain goes to OFF. -/
  | d2dRetrainDone (edge : BitVec 4) (module : BitVec 5) (ok : Bool)
  /-- D2D_LANE_THRESH (R24): A lane's error count crosses LANE_THRESH, and the lane is mapped onto a repair lane. -/
  | d2dLaneThresh (edge : BitVec 4) (module : BitVec 5) (eend : BitVec 1) (lane : BitVec 7)
  /-- VAT_PLL_UNLOCK (R31): A GX2 PLL loses lock, and its vat is reset with cause PLL. -/
  | vatPllUnlock (vat : BitVec 2)
  /-- NR1_PLL_UNLOCK (R31): An NR1 PLL loses lock, and the package asserts FAULT_N and stops. -/
  | nr1PllUnlock
  /-- HUB_SRAM_UE (R479): An uncorrectable error in the hub SRAM that holds the routing, groups or continuity map
    asserts FAULT_N. -/
  | hubSramUe
  /-- CREDIT_RETURN (R32): The fabric accepts a request into its storage and returns the credit to the engine. -/
  | creditReturn (core : BitVec 9) (engine : BitVec 3)
  /-- FABRIC_REQUEST_ARRIVE (R34): A credited request reaches its destination die and is delivered, or dropped when the
    destination vat is under reset. -/
  | fabricRequestArrive (core : BitVec 9) (engine : BitVec 3 := 3) (die : BitVec 3 := 0)
  /-- VAT_RESET_REQUEST (R38): A vat reset is requested by a TOP_VAT_RESET write or by a hardware cause, and the vat
    enters QUIESCE. -/
  | vatResetRequest (vats : BitVec 4) (cause : BitVec 4) (scan : Bool)
  /-- VAT_QUIESCE_DRAINED (R38): The edges to a quiescing vat drain, and the vat enters RESET with its stacks in
    self-refresh. -/
  | vatQuiesceDrained (vat : BitVec 2)
  /-- VAT_RESET_HOLD_END (R38): After at least 100 µs in RESET, the vat enters SCAN or BOOT. -/
  | vatResetHoldEnd (vat : BitVec 2)
  /-- VAT_SCAN_DONE (R483): The in-field scan of a vat ends, its result is written, and the vat goes to BOOT or stays
    HELD. -/
  | vatScanDone (vat : BitVec 2) (fails : List (BitVec 7)) (unit : BitVec 4) (us : BitVec 32)
  /-- VAT_BOOT_DONE (R37): A vat's PLLs relock, its edges retrain and its cellar is cleared, and the vat returns to
    READY or stays HELD. -/
  | vatBootDone (vat : BitVec 2) (relock : Bool) (low : List (BitVec 4 × BitVec 8))
  /-- BUNDLE_DISPATCH (R55): The front end dispatches one bundle whole into the engine queues, with its gaps and scalar
    operands. -/
  | bundleDispatch (core : BitVec 9) (err : SramErr)
  /-- ICACHE_LINE_ARRIVE (R77): An instruction-cache line arrives from memory, and the stalled front end resumes fetch. -/
  | icacheLineArrive (core : BitVec 9) (ahead : Bool)
  /-- BRANCH_RESOLVE (R173): The scalar engine resolves a dispatched branch, and fetch continues on the path taken. -/
  | branchResolve (core : BitVec 9)
  /-- FILL_REFETCH_DONE (R76): An absent fill line is refetched from memory, and the stalled engine resumes. -/
  | fillRefetchDone (core : BitVec 9) (line : BitVec 39)
  /-- CORE_FAULT_THRESH (R83): ARRAY_FAULTS + UE_COUNT reaches THRESH, and the core sets SWAP_WANTED. -/
  | coreFaultThresh (core : BitVec 9)
  /-- CORE_CE_THRESH (R83): A core's corrected-error count reaches CE_THRESH. -/
  | coreCeThresh (core : BitVec 9)
  /-- CORE_SWAP_REQUEST (R84): A CORE_SWAP write with GO = 1 submits a swap request, which is accepted as pending or
    refused. -/
  | coreSwapRequest (spare : BitVec 7) (logical : BitVec 9)
  /-- CORE_SWAP_START (R85): A pending swap reaches its point, copies the core state to the spare and holds the signals
    for the logical core. -/
  | coreSwapStart (err : SramErr := .none)
  /-- CORE_SWAP_DONE (R88): The spare starts running, the held signals are delivered and the core map changes. -/
  | coreSwapDone
  /-- NOP (R163): A present slot with opcode 0x00 places a NOP entry that issues as nothing. -/
  | nop (core : BitVec 9) (slot : BitVec 3) (bits : BitVec 96)
  /-- SC_ADD (R166): sd = sa + sb. -/
  | scAdd (core : BitVec 9) (bits : BitVec 64)
  /-- SC_SUB (R166): sd = sa − sb. -/
  | scSub (core : BitVec 9) (bits : BitVec 64)
  /-- SC_AND (R166): Bitwise AND of sa and sb into sd. -/
  | scAnd (core : BitVec 9) (bits : BitVec 64)
  /-- SC_OR (R166): Bitwise OR of sa and sb into sd. -/
  | scOr (core : BitVec 9) (bits : BitVec 64)
  /-- SC_XOR (R166): Bitwise XOR of sa and sb into sd. -/
  | scXor (core : BitVec 9) (bits : BitVec 64)
  /-- SC_SHL (R166): Shift sa left by sb[5:0]. -/
  | scShl (core : BitVec 9) (bits : BitVec 64)
  /-- SC_SHR (R166): Logical shift of sa right by sb[5:0]. -/
  | scShr (core : BitVec 9) (bits : BitVec 64)
  /-- SC_SRA (R166): Arithmetic shift of sa right by sb[5:0]. -/
  | scSra (core : BitVec 9) (bits : BitVec 64)
  /-- SC_MUL (R166): Low 64 bits of sa × sb. -/
  | scMul (core : BitVec 9) (bits : BitVec 64)
  /-- SC_MULHU (R166): High 64 bits of the unsigned product of sa and sb. -/
  | scMulhu (core : BitVec 9) (bits : BitVec 64)
  /-- SC_SLT (R166): sd = 1 if sa < sb signed, else 0. -/
  | scSlt (core : BitVec 9) (bits : BitVec 64)
  /-- SC_SLTU (R166): sd = 1 if sa < sb unsigned, else 0. -/
  | scSltu (core : BitVec 9) (bits : BitVec 64)
  /-- SC_ADDI (R166): sd = sa + sign-extended IMM. -/
  | scAddi (core : BitVec 9) (bits : BitVec 64)
  /-- SC_ANDI (R166): sd = sa AND sign-extended IMM. -/
  | scAndi (core : BitVec 9) (bits : BitVec 64)
  /-- SC_ORI (R166): sd = sa OR sign-extended IMM. -/
  | scOri (core : BitVec 9) (bits : BitVec 64)
  /-- SC_XORI (R166): sd = sa XOR sign-extended IMM. -/
  | scXori (core : BitVec 9) (bits : BitVec 64)
  /-- SC_SHLI (R166): Shift sa left by IMM[5:0]. -/
  | scShli (core : BitVec 9) (bits : BitVec 64)
  /-- SC_SHRI (R166): Logical shift of sa right by IMM[5:0]. -/
  | scShri (core : BitVec 9) (bits : BitVec 64)
  /-- SC_SRAI (R166): Arithmetic shift of sa right by IMM[5:0]. -/
  | scSrai (core : BitVec 9) (bits : BitVec 64)
  /-- SC_LIH (R166): sd = (IMM << 32) OR sa[31:0]. -/
  | scLih (core : BitVec 9) (bits : BitVec 64)
  /-- SC_BR (R172): Unconditional branch to the bundle's own index + OFF. -/
  | scBr (core : BitVec 9) (bits : BitVec 64)
  /-- SC_BRC (R172): Branch to own index + OFF when COND holds for sa and sb, with the target checked at dispatch. -/
  | scBrc (core : BitVec 9) (bits : BitVec 64)
  /-- SC_BRI (R172): Branch to the bundle index held in sa. -/
  | scBri (core : BitVec 9) (bits : BitVec 64)
  /-- SC_LOPEN (R177): Opens a layer bracket and clears the sticky flags and bracket counts. -/
  | scLopen (core : BitVec 9) (bits : BitVec 64)
  /-- SC_LCLOSE (R178): Starts closing the open bracket and holds dispatch until every op of the bracket has completed. -/
  | scLclose (core : BitVec 9) (bits : BitVec 64)
  /-- LCLOSE_REPORT (R295): Once the bracket's writes and counts have landed, the core samples its flags and sends its
    report to the group's collector. -/
  | lcloseReport (core : BitVec 9) (err : SramErr := .none)
  /-- LCLOSE_OUTCOME (R178): The director's outcome arrives, and the store engine commits or discards the take. -/
  | lcloseOutcome (core : BitVec 9)
  /-- TAKE_COMMIT_DONE (R223): The take's rind writes complete; the outcome word is written to sd and the bracket
    closes. -/
  | takeCommitDone (core : BitVec 9)
  /-- SC_STEP (R182): A step gate that holds dispatch until every queue is empty and every write is complete. -/
  | scStep (core : BitVec 9) (bits : BitVec 64)
  /-- STEP_BOUNDARY (R182): The core's queues drain, STEP_NO rises, and the step-boundary actions run before dispatch
    resumes. -/
  | stepBoundary (core : BitVec 9) (err : SramErr := .none)
  /-- SC_END (R184): Stops fetch, ending the program once every queue is empty. -/
  | scEnd (core : BitVec 9) (bits : BitVec 64)
  /-- PROGRAM_END (R184): The queues drain after SC.END, and the core enters HALT with cause 0x1, abandoning any open
    bracket. -/
  | programEnd (core : BitVec 9)
  /-- SC_COPEN (R415): A director core opens a collective call from a collective descriptor and holds dispatch until the
    hub registers the call. -/
  | scCopen (core : BitVec 9) (bits : BitVec 64)
  /-- SC_CCLOSE (R417): Closes the open collective call after the core drains. -/
  | scCclose (core : BitVec 9) (bits : BitVec 64)
  /-- SC_RDSR (R170): Reads a special register into sd. -/
  | scRdsr (core : BitVec 9) (bits : BitVec 64)
  /-- SC_WRSR (R171): Writes the LOSS special register from sa[31:0]. -/
  | scWrsr (core : BitVec 9) (bits : BitVec 64)
  /-- VE_ADD (R243): FP32 lane-wise va + vb. -/
  | veAdd (core : BitVec 9) (bits : BitVec 96) (err : SramErr) (wait : Nat)
  /-- VE_SUB (R243): FP32 lane-wise va − vb. -/
  | veSub (core : BitVec 9) (bits : BitVec 96) (err : SramErr) (wait : Nat)
  /-- VE_MUL (R243): FP32 lane-wise va × vb. -/
  | veMul (core : BitVec 9) (bits : BitVec 96) (err : SramErr) (wait : Nat)
  /-- VE_FMA (R243): FP32 lane-wise va × vb + vc with one rounding. -/
  | veFma (core : BitVec 9) (bits : BitVec 96) (err : SramErr) (wait : Nat)
  /-- VE_MAX (R240): Lane-wise IEEE 754-2019 maximum. -/
  | veMax (core : BitVec 9) (bits : BitVec 96) (err : SramErr) (wait : Nat)
  /-- VE_MIN (R240): Lane-wise IEEE 754-2019 minimum. -/
  | veMin (core : BitVec 9) (bits : BitVec 96) (err : SramErr) (wait : Nat)
  /-- VE_RCP (R244): Correctly rounded reciprocal per lane. -/
  | veRcp (core : BitVec 9) (bits : BitVec 96) (err : SramErr) (wait : Nat)
  /-- VE_RSQRT (R244): Correctly rounded reciprocal square root per lane. -/
  | veRsqrt (core : BitVec 9) (bits : BitVec 96) (err : SramErr) (wait : Nat)
  /-- VE_EXP2 (R244): Correctly rounded 2^va per lane. -/
  | veExp2 (core : BitVec 9) (bits : BitVec 96) (err : SramErr) (wait : Nat)
  /-- VE_LOG2 (R244): Correctly rounded log2 va per lane. -/
  | veLog2 (core : BitVec 9) (bits : BitVec 96) (err : SramErr) (wait : Nat)
  /-- VE_IADD (R245): INT32 lane-wise add, wrapping. -/
  | veIadd (core : BitVec 9) (bits : BitVec 96) (err : SramErr) (wait : Nat)
  /-- VE_ISUB (R245): INT32 lane-wise subtract, wrapping. -/
  | veIsub (core : BitVec 9) (bits : BitVec 96) (err : SramErr) (wait : Nat)
  /-- VE_IMUL (R245): Low 32 bits of the lane-wise product. -/
  | veImul (core : BitVec 9) (bits : BitVec 96) (err : SramErr) (wait : Nat)
  /-- VE_AND (R245): Lane-wise bitwise AND. -/
  | veAnd (core : BitVec 9) (bits : BitVec 96) (err : SramErr) (wait : Nat)
  /-- VE_OR (R245): Lane-wise bitwise OR. -/
  | veOr (core : BitVec 9) (bits : BitVec 96) (err : SramErr) (wait : Nat)
  /-- VE_XOR (R245): Lane-wise bitwise XOR. -/
  | veXor (core : BitVec 9) (bits : BitVec 96) (err : SramErr) (wait : Nat)
  /-- VE_SEL (R236): Selects va or vb per lane by predicate p(PG). -/
  | veSel (core : BitVec 9) (bits : BitVec 96) (err : SramErr) (wait : Nat)
  /-- VE_FCMP (R241): FP32 comparison into predicate p(PD). -/
  | veFcmp (core : BitVec 9) (bits : BitVec 96) (err : SramErr) (wait : Nat)
  /-- VE_ICMP (R241): INT32 comparison into predicate p(PD). -/
  | veIcmp (core : BitVec 9) (bits : BitVec 96) (err : SramErr) (wait : Nat)
  /-- VE_PLOG (R241): Predicate logic function into p(PD). -/
  | vePlog (core : BitVec 9) (bits : BitVec 96) (err : SramErr) (wait : Nat)
  /-- VE_IOTA (R240): vd lane l = sa + l. -/
  | veIota (core : BitVec 9) (bits : BitVec 96) (err : SramErr) (wait : Nat)
  /-- VE_BCAST (R240): Broadcasts sa into every lane of vd. -/
  | veBcast (core : BitVec 9) (bits : BitVec 96) (err : SramErr) (wait : Nat)
  /-- VE_XS (R250): Moves lane BL of va into s(SA), or the canonical NaN when va is tainted. -/
  | veXs (core : BitVec 9) (bits : BitVec 96) (err : SramErr) (wait : Nat)
  /-- VE_CVT (R248): Converts 64 elements between formats, with block scaling and recording into the scale table. -/
  | veCvt (core : BitVec 9) (bits : BitVec 96) (err : SramErr) (wait : Nat)
  /-- VE_RSUM (R246): Fixed-tree sum of the lanes of va. -/
  | veRsum (core : BitVec 9) (bits : BitVec 96) (err : SramErr) (wait : Nat)
  /-- VE_RMAX (R246): Fixed-tree maximum of the lanes of va. -/
  | veRmax (core : BitVec 9) (bits : BitVec 96) (err : SramErr) (wait : Nat)
  /-- VE_RMIN (R246): Fixed-tree minimum of the lanes of va. -/
  | veRmin (core : BitVec 9) (bits : BitVec 96) (err : SramErr) (wait : Nat)
  /-- VE_RSSQ (R246): Fixed-tree sum of squares of the lanes of va. -/
  | veRssq (core : BitVec 9) (bits : BitVec 96) (err : SramErr) (wait : Nat)
  /-- VE_CMASK (R256): Builds a causal or windowed mask into p(PD). -/
  | veCmask (core : BitVec 9) (bits : BitVec 96) (err : SramErr) (wait : Nat)
  /-- VE_OSM (R257): One online-softmax step for one query row. -/
  | veOsm (core : BitVec 9) (bits : BitVec 96) (err : SramErr) (wait : Nat)
  /-- VE_TOPK (R258): Merges 64 candidates into a running top-K list. -/
  | veTopk (core : BitVec 9) (bits : BitVec 96) (err : SramErr) (wait : Nat)
  /-- VE_KLD (R259): Accumulates a KL-divergence tree sum into lane 0 of vd. -/
  | veKld (core : BitVec 9) (bits : BitVec 96) (err : SramErr) (wait : Nat)
  /-- VE_LDS (R249): Loads 256 bytes of scratch into vd. -/
  | veLds (core : BitVec 9) (bits : BitVec 96) (err : SramErr) (wait : Nat)
  /-- VE_STS (R249): Stores va into 256 bytes of scratch. -/
  | veSts (core : BitVec 9) (bits : BitVec 96) (err : SramErr) (wait : Nat)
  /-- VE_GATH (R249): Gathers 4 bytes of scratch per lane. -/
  | veGath (core : BitVec 9) (bits : BitVec 96) (err : SramErr) (wait : Nat)
  /-- MX_LDW (R127): Loads a weight tile into an array's shadow buffer. -/
  | mxLdw (core : BitVec 9) (bits : BitVec 96) (err : SramErr) (wait : Nat)
  /-- MX_MMA (R126): Streams activation rows through the named arrays and accumulates into their banks, in the explicit
    form. -/
  | mxMma (core : BitVec 9) (bits : BitVec 96) (err : SramErr) (wait : Nat)
  /-- MX_MMA_FOLD (R153): A director-core fold op runs logical tile sizes on two arrays by column groups and K tiles. -/
  | mxMmaFold (core : BitVec 9) (bits : BitVec 96) (err : SramErr) (wait : Nat)
  /-- MX_CMUL (R142): Complex product over two or three arrays in the direct or Gauss form. -/
  | mxCmul (core : BitVec 9) (bits : BitVec 96) (err : SramErr) (wait : Nat)
  /-- MX_OUT (R109): Converts an accumulator bank through scale, clip, residual, range check and target conversion. -/
  | mxOut (core : BitVec 9) (bits : BitVec 96) (err : SramErr) (wait : Nat)
  /-- MX_TONE (R159): Sets the room tone policy of every array of the core. -/
  | mxTone (core : BitVec 9) (bits : BitVec 96) (err : SramErr) (wait : Nat)
  /-- MX_CHECK (R150): An op's checksum result becomes known; the op commits, or is recomputed after a first mismatch. -/
  | mxCheck (core : BitVec 9) (first : List MxUpset) (again : List MxUpset := [])
  /-- ROOM_TONE_WINDOW_END (R157): A gap reaches WINDOW cc, and the array tapers its room tone and ends its active
    region. -/
  | roomToneWindowEnd (core : BitVec 9) (arr : BitVec 2) (cc : BitVec 16)
  /-- LD_T (R207): Loads a descriptor footprint into scratch or the fill partition. -/
  | ldT (core : BitVec 9) (bits : BitVec 64) (err : SramErr)
  /-- LD_PF (R208): Prefetches a footprint into the fill partition. -/
  | ldPf (core : BitVec 9) (bits : BitVec 64) (err : SramErr)
  /-- LD_INV (R209): Invalidates fill lines of the footprint, or all of them. -/
  | ldInv (core : BitVec 9) (bits : BitVec 64) (err : SramErr)
  /-- LD_BLOCK_ARRIVE (R218): A block read for a load arrives, its rind is checked, and the data is written into lines,
    tainted if bad. -/
  | ldBlockArrive (core : BitVec 9) (no : Nat) (addr : BitVec 48)
  /-- ST_T (R214): Stores scratch or vector register data through a descriptor, with rinds or take entries. -/
  | stT (core : BitVec 9) (bits : BitVec 64) (err : SramErr)
  /-- STORE_DONE (R214): Every byte and rind of a store has been performed at memory or the cellar, and the op
    completes. -/
  | storeDone (core : BitVec 9) (no : Nat) (addr : BitVec 48)
  /-- ST_X (R231): An explicit transfer of a footprint to a machine-wide address. -/
  | stX (core : BitVec 9) (bits : BitVec 64) (err : SramErr)
  /-- XF_BLOCK_ARRIVE (R232): The destination hub checks an arriving transfer block, writes it or refuses it, and
    acknowledges it. -/
  | xfBlockArrive (src : BitVec 12) (core : BitVec 9) (tc : BitVec 2) (no : Nat) (fw : Bool) (addr : BitVec 48)
      (rind : BitVec 32) (data : Bytes)
  /-- XF_ACK (R232): A block acknowledgement or refusal reaches the sender, which counts it. -/
  | xfAck (core : BitVec 9) (no : Nat) (addr : BitVec 48) (reason : BitVec 4)
  /-- ST_CX (R420): A collective send of whole blocks to the ring successor's staging SRAM. -/
  | stCx (core : BitVec 9) (bits : BitVec 64) (err : SramErr)
  /-- CX_BLOCK_ARRIVE (R422): The receiving hub compares a collective block's digest and sequence, then writes, drops or
    refuses the block. -/
  | cxBlockArrive (src : BitVec 12) (core : BitVec 9) (no : Nat) (group : BitVec 6) (seq : BitVec 32) (digest :
      BitVec 64) (count : BitVec 11) (addr : BitVec 48) (rind : BitVec 32) (data : Bytes) (err : SramErr := .none)
  /-- CX_ACK (R421): An ST.CX block acknowledgement or refusal reaches the sender. -/
  | cxAck (core : BitVec 9) (no : Nat) (addr : BitVec 48)
  /-- ST_AADD (R323): A memory-side atomic add of the source elements into the destination. -/
  | stAadd (core : BitVec 9) (bits : BitVec 64) (err : SramErr)
  /-- ST_AMAX (R323): A memory-side atomic maximum. -/
  | stAmax (core : BitVec 9) (bits : BitVec 64) (err : SramErr)
  /-- ST_AMIN (R323): A memory-side atomic minimum. -/
  | stAmin (core : BitVec 9) (bits : BitVec 64) (err : SramErr)
  /-- PRESS_ATOMIC_PERFORM (R324): A press unit performs an atomic block read-modify-write and writes the data with its
    rind. -/
  | pressAtomicPerform (core : BitVec 9) (no : Nat) (block : BitVec 48)
  /-- ST_PRESS (R327): Queues the optimizer update that a record describes. -/
  | stPress (core : BitVec 9) (bits : BitVec 64) (err : SramErr)
  /-- SY_SIG (R265): Places a signal gate that adds N to a semaphore of a target core. -/
  | sySig (core : BitVec 9) (bits : BitVec 64)
  /-- SY_WAIT (R262): Holds the served engine until the semaphore is at least N, then subtracts N. -/
  | syWait (core : BitVec 9) (bits : BitVec 64) (err : SramErr := .none)
  /-- SY_DEC (R276): Places a decrement gate on a semaphore of the own core. -/
  | syDec (core : BitVec 9) (bits : BitVec 64)
  /-- SY_WTIME (R277): Holds the served engine until the clapper reaches T. -/
  | syWtime (core : BitVec 9) (bits : BitVec 64)
  /-- SY_FENCE (R278): Holds the served engine until its earlier ops are complete. -/
  | syFence (core : BitVec 9) (bits : BitVec 64)
  /-- SIGNAL_LEAVE (R269): Once every earlier op of the served engine has completed, a signal leaves for its target. -/
  | signalLeave (core : BitVec 9) (gate : Nat) (err : SramErr := .none)
  /-- SIGNAL_APPLY (R274): A signal arrives at the target semaphore, is added, and may satisfy a pending wait. -/
  | signalApply (core : BitVec 9) (id : Nat) (more : List Nat := []) (decs : List Nat := []) (err : SramErr := .none)
  /-- REMOTE_SIGNAL_ARRIVE (R271): A remote signal reaches the destination hub, which forwards it behind its data or
    drops it. -/
  | remoteSignalArrive (pkg : BitVec 12) (core : BitVec 9) (tc : BitVec 2) (target : BitVec 9) (sem : BitVec 6) (n
      : BitVec 16) (slate : BitVec 16)
  /-- DEC_APPLY (R276): A decrement reaches its point of application and subtracts N, or is skipped on underflow. -/
  | decApply (core : BitVec 9) (gate : Nat) (err : SramErr := .none)
  /-- WTIME_EXPIRE (R277): The clapper reaches T, and the time-wait gate passes. -/
  | wtimeExpire (core : BitVec 9) (gate : Nat)
  /-- FENCE_RELEASE (R278): Every op ahead of a fence completes, and the fence releases its engine. -/
  | fenceRelease (core : BitVec 9) (gate : Nat)
  /-- WDOG_FIRE (R281): A waiter's age reaches WDOG_US, the core halts and a deadlock report is logged. -/
  | wdogFire (core : BitVec 9) (engine : BitVec 3)
  /-- CORE_SCT_DATA_WRITE (R292): Writes a scale-table entry word of an IDLE, HALT or rejoin-held core, releasing a held
    core. -/
  | coreSctDataWrite (core : BitVec 9) (tid : BitVec 8) (word : BitVec 4) (value : BitVec 64)
  /-- REPORT_ARRIVE (R296): A member's close report reaches the collector, which opens, completes or holds a round. -/
  | reportArrive (core : BitVec 9)
  /-- LOSS_SAMPLE (R313): The loss watch takes a step's sample, flags it or updates its state, and places the verdict at
    the press units. -/
  | lossSample
  /-- NUM_LOSS_STATE_WRITE (R316): Writes the loss-watch mean and variance while the source core is not running,
    clearing SAMPLES. -/
  | numLossStateWrite (value : BitVec 64)
  /-- NUM_LOSS_SAMPLES_WRITE (R316): Sets the loss watch's unflagged sample count while the source core is not running. -/
  | numLossSamplesWrite (samples : BitVec 8)
  /-- PRESS_OP_START (R329): The vat starts the next ST.PRESS: it reads and checks the record, refusing it or discarding
    its update on a flagged step. -/
  | pressOpStart (vat : BitVec 2)
  /-- PRESS_SLICE (R331): A press unit reads a slice, applies the optimizer and whey arithmetic, and writes it with
    rinds. -/
  | pressSlice (vat : BitVec 2) (slice : Nat)
  /-- PRESS_OP_DONE (R340): Every slice is done: the dailies record is written and the digest entry stored. -/
  | pressOpDone (vat : BitVec 2)
  /-- DIGEST_GO (R343): A PRESS_DIG_CTL write of GO = 1 starts the digest combination for PRESS_DIG_STEP. -/
  | digestGo
  /-- DIGEST_DONE (R343): The combination ends, the digests are set and DONE is set. -/
  | digestDone
  /-- MEM_REQUEST_ACCEPT (R368): A request enters a pseudo-channel queue, or is held when its bank holds 16 slots. -/
  | memRequestAccept (id : Nat) (kind : BitVec 4) (write : Bool) (addr : BitVec 48) (len : BitVec 13) (rind :
      Bool) (slate : BitVec 16) (data : Bytes)
  /-- MEM_READ_SERVICE (R355): A stack controller reads and decodes codewords, corrects and writes back, or marks the
    delivery bad. -/
  | memReadService (stack : BitVec 4) (pch : BitVec 6) (ready : BitVec 64) (errs : List CwErr)
  /-- MEM_WRITE_SERVICE (R356): A stack controller writes granules and check granules, merging partial groups. -/
  | memWriteService (stack : BitVec 4) (pch : BitVec 6) (ready : BitVec 64) (errs : List CwErr)
  /-- INNER_COUNT_POLL (R354): Every 10 ms the controller reads the stack's inner-code correction count. -/
  | innerCountPoll (stack : BitVec 4) (pch : BitVec 6) (n : BitVec 16)
  /-- SCRUB_READ (R357): The patrol scrub reads a codeword and corrects it. -/
  | scrubRead (addr : BitVec 48) (errs : List CwErr)
  /-- PIN_MARKED (R358): A pin's correction count reaches PIN_THRESH, and the pin is marked as an erasure. -/
  | pinMarked (stack : BitVec 4) (pch : BitVec 6) (pin : BitVec 5)
  /-- ROW_RETIRED (R359): A row's correction count reaches ROW_THRESH, and the row is copied into a remap row. -/
  | rowRetired (stack : BitVec 4) (pch : BitVec 6) (bank : BitVec 6) (row : BitVec 13)
  /-- ROW_COPY_DONE (R359): A row copy completes, and accesses are redirected. -/
  | rowCopyDone (stack : BitVec 4) (pch : BitVec 6) (bank : BitVec 6) (row : BitVec 13)
  /-- CELLAR_ACCESS (R372): A cellar slice reads or writes a block, correcting single-bit errors. -/
  | cellarAccess (vat : BitVec 2) (block : BitVec 16) (errs : List CwErr) (write : Bool) (data : Bytes)
  /-- MC_MAINT_HOLD (R375): A write to MC_MAINT.HOLD sets or releases the maintenance hold of a stack. -/
  | mcMaintHold (stack : BitVec 4) (hold : Bool)
  /-- SPPR (R376): Soft post-package repair of a row. -/
  | sppr (stack : BitVec 4) (pch : BitVec 6) (bank : BitVec 6) (row : BitVec 13) (lane : BitVec 5)
  /-- HPPR (R376): Hard post-package repair of a row. -/
  | hppr (stack : BitVec 4) (pch : BitVec 6) (bank : BitVec 6) (row : BitVec 13) (lane : BitVec 5)
  /-- LANE_SOFT (R376): Soft repair of a data pin onto a repair lane. -/
  | laneSoft (stack : BitVec 4) (pch : BitVec 6) (bank : BitVec 6) (row : BitVec 13) (lane : BitVec 5)
  /-- LANE_HARD (R376): Hard fused repair of a data pin. -/
  | laneHard (stack : BitVec 4) (pch : BitVec 6) (bank : BitVec 6) (row : BitVec 13) (lane : BitVec 5)
  /-- UNDO_SOFT (R376): Removes a soft row or lane repair. -/
  | undoSoft (stack : BitVec 4) (pch : BitVec 6) (bank : BitVec 6) (row : BitVec 13) (lane : BitVec 5)
  /-- REPAIR_RESULT (R376): A repair operation ends, and DONE and RESULT are set. -/
  | repairResult (stack : BitVec 4) (result : BitVec 2)
  /-- PORT_FLIT_RECEIVE (R382): An Aedun codeword arrives; it is corrected and delivered, or discarded and replayed. -/
  | portFlitReceive (port : BitVec 5) (header : BitVec 32) (payload : Bytes) (crc : BitVec 32) (syms : List (BitVec 9))
      (again : Option (BitVec 12) := none)
  /-- PORT_FLIT_ACK (R382): A port acknowledgement frees the sender's kept flits. -/
  | portFlitAck (port : BitVec 5) (seq : BitVec 12) (replay : Bool := false) (credits : List (BitVec 5 × Nat) := [])
  /-- PORT_REPLAY_LIMIT (R383): A flit fails REPLAY_LIMIT replays, and the port retrains. -/
  | portReplayLimit (port : BitVec 5) (partner : Bool := false)
  /-- PORT_RETRAIN_DONE (R383): A port retrain ends, and lanes that failed to train become failed. -/
  | portRetrainDone (port : BitVec 5) (rx : BitVec 5) (tx : BitVec 5)
  /-- LANE_WINDOW_END (R384): Every 1 ms a lane's corrected symbols are judged and BAD_WIN is raised. -/
  | laneWindowEnd (port : BitVec 5)
  /-- LANE_FAIL (R384): BAD_WIN reaches LANE_THRESH and the lane fails, telling the partner. -/
  | laneFail (port : BitVec 5) (lane : BitVec 3)
  /-- LANE_SIGNAL_LOSS (R384): A receiver loses signal or clock lock, and its lane fails at once. -/
  | laneSignalLoss (port : BitVec 5) (lane : BitVec 3)
  /-- LINK_CONTROL_BLOCK (R386): Both ends agree a boundary and splice, narrow or turn off the port. -/
  | linkControlBlock (port : BitVec 5) (tx : Bool) (lane : BitVec 3)
  /-- PACKET_ROUTE (R393): A packet at a hub is delivered or forwarded by its wheel or global routing table. -/
  | packetRoute (src : BitVec 12) (dst : BitVec 12) (tc : BitVec 2) (hops : BitVec 4) (core : BitVec 9) (eng : BitVec 3)
      (blk : Option (BitVec 9 × Nat × BitVec 48)) (data : Bytes := [])
  /-- REFUSAL_RECEIVE (R387): A TC0 refusal of a discarded packet reaches its sender and is counted. -/
  | refusalReceive (core : BitVec 9) (no : Nat) (addr : BitVec 48)
  /-- PORT_RT_DATA_WRITE (R394): Writes a routing-table entry while no core runs, storing it invalid if it is malformed. -/
  | portRtDataWrite (global : Bool) (entry : BitVec 8) (value : BitVec 64)
  /-- GUEST_PORT_STATE (R405): The hub adopts a new optical port state reported in the guest mailbox. -/
  | guestPortState (port : BitVec 5)
  /-- CALL_REGISTER (R416): The hub registers a collective call, latches the mask, computes the digest, sends the
    arrival and checks the descriptor. -/
  | callRegister (core : BitVec 9)
  /-- COLL_ARRIVAL_RECEIVE (R431): The recorder receives a member's arrival, compares the digest and records its time. -/
  | collArrivalReceive (src : BitVec 12) (group : BitVec 6) (seq : BitVec 32) (digest : BitVec 64) (time : BitVec
      64)
  /-- COLL_ABORT_RECEIVE (R429): A member receives an abort and marks its call aborted, invalidating staging and
    satisfying its waits. -/
  | collAbortReceive (group : BitVec 6) (seq : BitVec 32) (cause : BitVec 2)
  /-- CCLOSE_DRAINED (R417): After the core drains, the close checks ARRIVED, marks an aborted destination invalid and
    writes the outcome. -/
  | ccloseDrained (core : BitVec 9)
  /-- CLAP_PERIOD (R435): Every PERIOD_US a child sends a sync request to its parent. -/
  | clapPeriod
  /-- CLAP_REQUEST_RECEIVE (R435): A parent stamps and replies to a child's sync request, taking it as a heartbeat. -/
  | clapRequestReceive (src : BitVec 12) (t1 : BitVec 64) (step : BitVec 64) (beat : BitVec 32)
  /-- CLAP_REPLY_RECEIVE (R436): A child computes the offset and delay, then locks or slews its clapper. -/
  | clapReplyReceive (src : BitVec 12) (t1 : BitVec 64) (t2 : BitVec 64) (t3 : BitVec 64)
  /-- CLAP_HOLDOVER (R438): A child with MISS unanswered requests enters HOLDOVER. -/
  | clapHoldover
  /-- PKG_LOST (R441): A parent missing a child's requests declares it lost, and an immediate order follows. -/
  | pkgLost (pkg : BitVec 12)
  /-- LEAD_TAKEOVER (R442): A standby detects its lead lost, takes over the role and raises the epoch. -/
  | leadTakeover (top : Bool)
  /-- TAKEOVER_RECEIVE (R443): A package receives a takeover message and follows the highest epoch. -/
  | takeoverReceive (src : BitVec 12) (epoch : BitVec 16) (top : Bool)
  /-- LEADERLESS (R443): Crew that receive no takeover within 2 × MISS periods log it and stay in holdover. -/
  | leaderless
  /-- FW_HEARTBEAT (R490): Every 1 ms running firmware raises HEARTBEAT. -/
  | fwHeartbeat
  /-- FW_STALLED (R490): A child's heartbeat stays unchanged for FW_MISS_MS, and the child is declared lost. -/
  | fwStalled (pkg : BitVec 12)
  /-- CONT_CHECK_START (R446): Once every running core is past a check step, firmware starts the digest combination. -/
  | contCheckStart
  /-- CONT_REPORT_RECEIVE (R446): A lead receives a check report, and the wheel lead forwards it to the top lead. -/
  | contReportReceive (step : BitVec 64) (pkg : BitVec 12) (incomplete : Bool) (low : BitVec 64) (ce : BitVec 64)
      (ci : BitVec 64) (v0 : BitVec 64) (v1 : BitVec 64) (v2 : BitVec 64) (v3 : BitVec 64)
  /-- CONT_DECIDE (R447): With all reports in, the top lead compares digests and orders expels or a stop. -/
  | contDecide
  /-- CONT_DEADLINE (R447): DEADLINE_MS after the first report, missing reports count as differing and the check is
    decided. -/
  | contDeadline
  /-- ORDER_RECEIVE (R448): A package receives a membership order and schedules it, or applies an immediate or late
    order at once. -/
  | orderReceive (src : BitVec 12) (epoch : BitVec 16) (kind : OrderKind) (replica : BitVec 8) (immediate : Bool)
      (step : BitVec 64) (pairs : List (BitVec 12 × BitVec 12)) (blocks : List (BitVec 12 × BitVec 48))
  /-- SITOUT_REQUEST (R452): The top lead receives a lead's request for a sit-out and orders the replica out. -/
  | sitoutRequest (pkg : BitVec 12) (vats : BitVec 4 := 0) (scan : Bool := false)
  /-- REJOIN_STATE_RECEIVE (R453): The rejoining hub writes the donor's SEQ_NEXT and loss-watch state. -/
  | rejoinStateReceive (src : BitVec 12) (step : BitVec 64) (loss : BitVec 64) (samples : BitVec 8) (seqs : List
      (BitVec 32))
  /-- REJOIN_COPY_DONE (R453): The rejoin copy completes, and the rejoining hub starts every core. -/
  | rejoinCopyDone (ok : Bool) (blocks : List (BitVec 48 × BitVec 32 × Bytes))
  /-- WDOG_HALT_REPORT (R477): The top lead receives a watchdog halt report and opens or extends its collection window. -/
  | wdogHaltReport (pkg : BitVec 12) (core : BitVec 9)
  /-- WDOG_HOLD_EXPIRE (R477): The collection window ends, and the top lead resets the halted vats or stops the job. -/
  | wdogHoldExpire
  /-- POISON_REPORT_RECEIVE (R476): The top lead receives a consumed-poison report and orders a stop. -/
  | poisonReportReceive (pkg : BitVec 12)
  /-- SUP_TIMER_EXPIRE (R487): The supervisor timer expires and restarts the management processor. -/
  | supTimerExpire
  /-- MP_MEMORY_UE (R487): An uncorrectable error in the processor's memories restarts the processor. -/
  | mpMemoryUe (single : Bool := false)
  /-- MP_RESTART_DONE (R488): The restart ends with firmware reloaded, and the held duties and queued commands resume. -/
  | mpRestartDone
  /-- ETH_LINK_UP (R493): Autonegotiation completes, and a port's link comes up in a mode. -/
  | ethLinkUp (port : BitVec 1) (modes : BitVec 3)
  /-- ETH_LINK_DOWN (R493): A port loses its link and returns to autonegotiation. -/
  | ethLinkDown (port : BitVec 1)
  /-- ETH_FRAME_RECEIVE (R494): A frame is accepted, answered (ARP, ND, echo) or passed to the security engine, or
    dropped. -/
  | ethFrameReceive (port : BitVec 1) (uncorr : BitVec 8) (frame : Bytes)
  /-- VCT_COMMAND_ARRIVE (R498): The security engine checks an arriving command and accepts, queues or drops it. -/
  | vctCommandArrive (port : BitVec 1) (v6 : Bool) (ip : BitVec 128) (udp : BitVec 16) (datagram : Bytes)
      (mac : BitVec 48 := 0)
  /-- ATTEST (R514): Signs and returns the attestation report with the host's nonce. -/
  | attest (salt : BitVec 256)
  /-- KEY_INSTALL (R512): Verifies the owner signature, decrypts the new command key, wraps it and stores it in flash. -/
  | keyInstall (flashFails : Bool)
  /-- FLASH_WRITE (R508): Writes a staging region of the flash. -/
  | flashWrite (flashFails : Bool)
  /-- FORWARDED_RECORD_RECEIVE (R502): A wheel lead receives forwarded records and puts them into its own notices or
    drops them. -/
  | forwardedRecordReceive (src : BitVec 12) (fifo : BitVec 2) (lost : BitVec 32) (words : List (BitVec 64))
  /-- GUEST_ACCESS (R516): The firewall allows a guest access to the mailbox window or refuses it. -/
  | guestAccess (write : Bool) (addr : BitVec 48) (n : BitVec 13) (data : Bytes)
  /-- GUEST_FRAME (R516): The firewall passes a guest link-layer frame for an optical port or refuses it. -/
  | guestFrame (port : BitVec 5)
  /-- LOG_FIFO_DATA_READ (R568): A read of LOG_FIFO_DATA returns and removes the oldest word, or the empty word. -/
  | logFifoDataRead (fifo : BitVec 2) (late : Nat := 0)
  /-- GAFF_GPIO_WRITE (R556): Sets the MGPIO2 roles, resolving a conflict in favour of TIME_IN. -/
  | gaffGpioWrite (value : BitVec 64)
  /-- REGISTER_WRITE (R560): A write to a register with no row of its own applies its fields under their access types
    and write conditions. -/
  | registerWrite (offset : BitVec 24) (value : BitVec 64) (host : Bool := false)
  /-- RC_FIELD_READ (R11): A firmware read of a register with RC fields returns them and clears them, re-arming logging
    where a rule ties a record to a count of zero. -/
  | rcFieldRead (offset : BitVec 24)
  /-- LOSS_REPORT_RECEIVE (R441): The top lead receives a wheel lead's TC0 report of a lost crew package and issues the
    immediate order. -/
  | lossReportReceive (pkg : BitVec 12)
  /-- VAT_RESET_REPORT (R451): The top lead learns that a vat of a replica package was reset with cause 0x1, 0x3, 0x4 or
    0x5, and issues an immediate order, or a stop when no donor exists. -/
  | vatResetReport (pkg : BitVec 12) (cause : BitVec 4)
  /-- VATS_READY_REPORT (R452): The top lead learns that every vat of a sitting-out replica is READY, or that its scans
    passed, and orders the rejoin. -/
  | vatsReadyReport (pkg : BitVec 12) (ok : Bool) (blocks : List (BitVec 48))
  /-- SWAP_WANTED_REPORT (R83): A lead receives a core's SWAP_WANTED report and asks the top lead for a sit-out in order
    to swap the core. -/
  | swapWantedReport (pkg : BitVec 12) (spare : Bool)
  /-- DISCOVER (R503): Replies with the serial, TOP_ID, BOOT_ID, package ID, state and certificate hash. -/
  | discover
  /-- GET_CERT (R503): Replies with the identity and Verpin certificates. -/
  | getCert
  /-- REG_ACCESS (R504): Executes up to 256 register reads and writes in order. -/
  | regAccess
  /-- MEM_READ (R505): Reads memory as requester HOST, checking rinds when asked. -/
  | memRead
  /-- MEM_WRITE (R505): Writes memory as requester HOST, with rinds when asked, refusing caves. -/
  | memWrite
  /-- LOAD (R188): Checks and loads program headers all or nothing. -/
  | load
  /-- START (R506): Moves the named loaded IDLE cores to RUN. -/
  | start
  /-- HALT (R506): Halts the named running cores with HALT_CAUSE 0x3. -/
  | halt
  /-- SUBSCRIBE (R502): Sets the telemetry destination and the log FIFOs to drain. -/
  | subscribe
  /-- SVN_COMMIT (R513): Raises the fused minimum firmware version to the running version. -/
  | svnCommit
  /-- NOTICE_SEND (R502): Firmware drains subscribed FIFOs into notices to the host, or into TC3 records to the lead. -/
  | noticeSend
  /-- POWER_UP (R543): V1P8 and then VIN come into limits and PWRGD rises, leaving the package powered with RESET_N held
    low and its TAP usable. -/
  | powerUp
  /-- POWER_DOWN (R551): VIN falls below 1 V and is removed, so the package stops and THERMTRIP_N is released. -/
  | powerDown
  deriving DecidableEq, Repr

end Sys2Proof
end

