-- ==== Sys2Proof/Decode.lean ====
section
/-! DEFINITION. The commands that table words spell: the opcode table gives its rows no bits. -/
namespace Sys2Proof

/-- The command that a word spells by the table's bits: none. -/
def decodeTableWord (_nbits _w : Nat) : Option Instr := none

end Sys2Proof
end

