-- ==== Sys2Proof/Machine/Bits.lean ====
section
/-! DEFINITION. Bit fields, sign extension, byte order and saturation, over plain natural numbers. -/
namespace Sys2Proof.Machine

/-- Bits `hi` down to `lo` of `x`. -/
def fld (x hi lo : Nat) : Nat := (x >>> lo) % 2 ^ (hi + 1 - lo)

/-- Bit `i` of `x`. -/
def bitOf (x i : Nat) : Bool := (x >>> i) % 2 == 1

/-- `x` with bits `hi` down to `lo` replaced by `v`. -/
def putFld (x hi lo v : Nat) : Nat :=
  x - (fld x hi lo) * 2 ^ lo + (v % 2 ^ (hi + 1 - lo)) * 2 ^ lo

/-- 1 or 0. -/
def b2n (b : Bool) : Nat := if b then 1 else 0

/-- Two's complement value of the low `w` bits of `x`. -/
def toSigned (w x : Nat) : Int :=
  let y := x % 2 ^ w
  if 2 * y < 2 ^ w then (y : Int) else (y : Int) - (2 : Int) ^ w

/-- The low `w` bits of a two's complement integer. -/
def ofSigned (w : Nat) (x : Int) : Nat := (x % ((2 : Int) ^ w)).toNat

/-- Sign extension of the low `w` bits of `x` to 64 bits. -/
def sext64 (w x : Nat) : Nat := ofSigned 64 (toSigned w x)

/-- Counters saturate at their maximum (R14). -/
def satAdd (w a b : Nat) : Nat := min (a + b) (2 ^ w - 1)

/-- Little-endian bytes of `v`, `n` of them. -/
def leBytes : Nat → Nat → List Byte
  | 0, _ => []
  | n + 1, v => BitVec.ofNat 8 v :: leBytes n (v / 256)

/-- The number that little-endian bytes spell. -/
def ofLe : List Byte → Nat
  | [] => 0
  | b :: bs => b.toNat + 256 * ofLe bs

/-- Big-endian bytes of `v`, `n` of them. -/
def beBytes (n v : Nat) : List Byte := (leBytes n v).reverse

/-- The number that big-endian bytes spell. -/
def ofBe (bs : List Byte) : Nat := ofLe bs.reverse

/-- `n` bytes from position `o`, zero beyond the end. -/
def bytesAt (bs : List Byte) (o n : Nat) : List Byte :=
  let t := (bs.drop o).take n
  t ++ List.replicate (n - t.length) 0

/-- Little-endian number of `n` bytes from position `o`. -/
def leAt (bs : List Byte) (o n : Nat) : Nat := ofLe (bytesAt bs o n)

/-- Do all bytes from `o`, `n` of them, hold zero? -/
def zeroAt (bs : List Byte) (o n : Nat) : Bool := (bytesAt bs o n).all (· == 0)

/-- Does every byte of the two ranges stand apart? -/
def disjointRange (a n b m : Nat) : Bool := a + n ≤ b || b + m ≤ a || n == 0 || m == 0

/-- Is `a` a multiple of `n`? -/
def alignedTo (n a : Nat) : Bool := a % n == 0

/-- Least multiple of `n` not above `a`. -/
def alignDown (n a : Nat) : Nat := a - a % n

/-- Division rounded up. -/
def ceilDiv (a n : Nat) : Nat := (a + n - 1) / n

/-- The multiples of `n` that the range of `len` bytes at `a` touches, ascending. -/
def unitsOf (n a len : Nat) : List Nat :=
  if len == 0 then [] else
    let f := a / n
    (List.range ((a + len - 1) / n - f + 1)).map fun i => (f + i) * n

/-- `l` with no repeats, first places kept. -/
def dedup {α : Type} [BEq α] (l : List α) : List α :=
  (l.foldl (fun acc a => if acc.contains a then acc else a :: acc) []).reverse

/-- Number of one bits among the low `n` bits. -/
def popCount (n x : Nat) : Nat := ((List.range n).filter (bitOf x ·)).length

/-- The largest of a list, 0 for none. -/
def maxOf (l : List Nat) : Nat := l.foldl max 0

end Sys2Proof.Machine
end

