-- ==== Sys2Proof/Machine/Crypto.lean ====
section
/-! DEFINITION. The algorithms of the security engine that R497 and R509–R512 name: SHA-256, HMAC-SHA-256, RSASSA-PSS and
RSAES-OAEP with SHA-256 and MGF1 (RFC 8017), AES-256 and its key wrap (RFC 3394). -/
namespace Sys2Proof.Machine

/-! ### SHA-256 -/

def rotr32 (x n : Nat) : Nat := (x >>> n) ||| ((x <<< (32 - n)) % 2 ^ 32)

/-- Round constants: the leading fraction bits of the cube roots of the first 64 primes. -/
def shaKs : List (List Nat) :=
  [[0x428a2f98, 0x71374491, 0xb5c0fbcf, 0xe9b5dba5, 0x3956c25b, 0x59f111f1, 0x923f82a4, 0xab1c5ed5],
   [0xd807aa98, 0x12835b01, 0x243185be, 0x550c7dc3, 0x72be5d74, 0x80deb1fe, 0x9bdc06a7, 0xc19bf174],
   [0xe49b69c1, 0xefbe4786, 0x0fc19dc6, 0x240ca1cc, 0x2de92c6f, 0x4a7484aa, 0x5cb0a9dc, 0x76f988da],
   [0x983e5152, 0xa831c66d, 0xb00327c8, 0xbf597fc7, 0xc6e00bf3, 0xd5a79147, 0x06ca6351, 0x14292967],
   [0x27b70a85, 0x2e1b2138, 0x4d2c6dfc, 0x53380d13, 0x650a7354, 0x766a0abb, 0x81c2c92e, 0x92722c85],
   [0xa2bfe8a1, 0xa81a664b, 0xc24b8b70, 0xc76c51a3, 0xd192e819, 0xd6990624, 0xf40e3585, 0x106aa070],
   [0x19a4c116, 0x1e376c08, 0x2748774c, 0x34b0bcb5, 0x391c0cb3, 0x4ed8aa4a, 0x5b9cca4f, 0x682e6ff3],
   [0x748f82ee, 0x78a5636f, 0x84c87814, 0x8cc70208, 0x90befffa, 0xa4506ceb, 0xbef9a3f7, 0xc67178f2]]

def shaInit : List Nat :=
  [0x6a09e667, 0xbb67ae85, 0x3c6ef372, 0xa54ff53a, 0x510e527f, 0x9b05688c, 0x1f83d9ab, 0x5be0cd19]

/-- The message schedule, newest word first: `n` more words. -/
def shaSched : Nat → List Nat → List Nat
  | 0, w => w
  | n + 1, w =>
    let a := w.getD 14 0
    let b := w.getD 1 0
    let s0 := rotr32 a 7 ^^^ rotr32 a 18 ^^^ (a >>> 3)
    let s1 := rotr32 b 17 ^^^ rotr32 b 19 ^^^ (b >>> 10)
    shaSched n ((w.getD 15 0 + s0 + w.getD 6 0 + s1) % 2 ^ 32 :: w)

/-- One round. -/
def shaRound (v : List Nat) (kw : Nat) : List Nat :=
  match v with
  | [a, b, c, d, e, f, g, h] =>
    let t1 := h + (rotr32 e 6 ^^^ rotr32 e 11 ^^^ rotr32 e 25) + ((e &&& f) ^^^ ((0xFFFFFFFF - e) &&& g)) + kw
    let t2 := (rotr32 a 2 ^^^ rotr32 a 13 ^^^ rotr32 a 22) + ((a &&& b) ^^^ (a &&& c) ^^^ (b &&& c))
    [(t1 + t2) % 2 ^ 32, a, b, c, (d + t1) % 2 ^ 32, e, f, g]
  | v => v

/-- One block of 64 bytes. -/
def shaBlock (h : List Nat) (bs : List Byte) : List Nat :=
  let w := (List.range 16).map fun i => ofBe ((bs.drop (4 * i)).take 4)
  let ws := (shaSched 48 w.reverse).reverse
  let v := (List.zipWith (· + ·) shaKs.flatten ws).foldl shaRound h
  List.zipWith (fun a b => (a + b) % 2 ^ 32) h v

/-- `n` blocks. -/
def shaBlocks : Nat → List Nat → List Byte → List Nat
  | 0, h, _ => h
  | n + 1, h, bs => shaBlocks n (shaBlock h (bs.take 64)) (bs.drop 64)

/-- SHA-256 of bytes. -/
def sha256 (bs : List Byte) : List Byte :=
  let n := bs.length
  let pad := (55 + 64 - n % 64) % 64
  let m := bs ++ (0x80 : Byte) :: List.replicate pad 0 ++ beBytes 8 (8 * n)
  ((shaBlocks (m.length / 64) shaInit m).map (beBytes 4)).flatten

def xorBytes (a b : List Byte) : List Byte := List.zipWith (· ^^^ ·) a b

/-- HMAC-SHA-256 with a key of 32 bytes. -/
def hmac256 (key m : List Byte) : List Byte :=
  let k := key ++ List.replicate (64 - key.length) 0
  sha256 (k.map (· ^^^ 0x5C) ++ sha256 (k.map (· ^^^ 0x36) ++ m))

/-! ### RSA -/

/-- a^e mod n, over `fuel` exponent bits. -/
def powMod (n : Nat) : Nat → Nat → Nat → Nat
  | 0, _, _ => 1 % n
  | f + 1, a, e =>
    let r := powMod n f (a * a % n) (e / 2)
    if e % 2 == 1 then r * a % n else r

/-- MGF1 with SHA-256. -/
def mgf1 (seed : List Byte) (n : Nat) : List Byte :=
  (((List.range (ceilDiv n 32)).map fun i => sha256 (seed ++ beBytes 4 i)).flatten).take n

/-- The encoded message of RSASSA-PSS for a 3,072-bit key. -/
def pssEncode (m salt : List Byte) : List Byte :=
  let h := sha256 (List.replicate 8 0 ++ sha256 m ++ salt)
  let db := List.replicate 318 0 ++ (0x01 : Byte) :: salt
  let x := xorBytes db (mgf1 h 351)
  (match x with
    | b :: t => (b &&& 0x7F) :: t
    | [] => []) ++ h ++ [0xBC]

/-- RSASSA-PSS verification (R510) under modulus `n` with exponent 65,537. -/
def pssVerify (n : Nat) (m sig : List Byte) : Bool :=
  if n == 0 || sig.length != 384 || n ≤ ofBe sig then false
  else
    let em := beBytes 384 (powMod n 17 (ofBe sig) 65537)
    let h := (em.drop 351).take 32
    let db := xorBytes (em.take 351) (mgf1 h 351)
    let db := match db with
      | b :: t => (b &&& 0x7F) :: t
      | [] => []
    let salt := db.drop 319
    em.getD 383 0 == 0xBC && (em.headD 0) &&& 0x80 == 0 && (db.take 318).all (· == 0) && db.getD 318 0 == 0x01 &&
      h == sha256 (List.replicate 8 0 ++ sha256 m ++ salt)

/-- RSASSA-PSS signature with private exponent `d`. -/
def pssSign (n d : Nat) (m salt : List Byte) : List Byte := beBytes 384 (powMod n 3072 (ofBe (pssEncode m salt)) d)

/-- RSAES-OAEP decryption with an empty label; none when the padding is wrong. -/
def oaepDecrypt (n d : Nat) (c : List Byte) : Option (List Byte) :=
  if n == 0 || c.length != 384 || n ≤ ofBe c then none
  else
    let em := beBytes 384 (powMod n 3072 (ofBe c) d)
    let seed := xorBytes ((em.drop 1).take 32) (mgf1 (em.drop 33) 32)
    let db := xorBytes (em.drop 33) (mgf1 seed 351)
    let t := (db.drop 32).dropWhile (· == 0)
    if em.headD 1 == 0 && db.take 32 == sha256 [] && t.headD 0 == 0x01 then some (t.drop 1) else none

/-! ### AES-256 -/

def xtime (x : Nat) : Nat := if 128 ≤ x then (2 * x) ^^^ 0x11B else 2 * x

/-- Product in GF(2^8), over 8 bits of `b`. -/
def gmul : Nat → Nat → Nat → Nat
  | 0, _, _ => 0
  | f + 1, a, b => (if b % 2 == 1 then a else 0) ^^^ gmul f (xtime a) (b / 2)

def gm (a b : Nat) : Nat := gmul 8 a b

/-- x^254, the inverse in GF(2^8). -/
def ginv (x : Nat) : Nat :=
  let x2 := gm x x
  let x4 := gm x2 x2
  let x8 := gm x4 x4
  let x16 := gm x8 x8
  let x32 := gm x16 x16
  let x64 := gm x32 x32
  let x128 := gm x64 x64
  gm x128 (gm x64 (gm x32 (gm x16 (gm x8 (gm x4 x2)))))

def rotl8 (x n : Nat) : Nat := ((x <<< n) ||| (x >>> (8 - n))) % 256

def sbox (x : Nat) : Nat :=
  let y := ginv x
  y ^^^ rotl8 y 1 ^^^ rotl8 y 2 ^^^ rotl8 y 3 ^^^ rotl8 y 4 ^^^ 0x63

def invSbox (x : Nat) : Nat := ginv (rotl8 x 1 ^^^ rotl8 x 3 ^^^ rotl8 x 6 ^^^ 0x05)

/-- Key-schedule words, newest first; each word is four bytes. -/
def aesExpand : Nat → Nat → List (List Nat) → List (List Nat)
  | 0, _, w => w
  | n + 1, i, w =>
    let t := w.headD []
    let t := if i % 8 == 0 then
        match (t.drop 1 ++ t.take 1).map sbox with
        | a :: r => (a ^^^ 2 ^ (i / 8 - 1)) :: r
        | [] => []
      else if i % 8 == 4 then t.map sbox else t
    aesExpand n (i + 1) (List.zipWith (· ^^^ ·) (w.getD 7 []) t :: w)

/-- The fifteen round keys of 16 bytes. -/
def aesKeys (key : List Nat) : List (List Nat) :=
  let w := (aesExpand 52 8 ((List.range 8).map fun i => (key.drop (4 * i)).take 4).reverse).reverse.flatten
  (List.range 15).map fun i => (w.drop (16 * i)).take 16

def shiftRows (inv : Bool) (s : List Nat) : List Nat :=
  (List.range 16).map fun i =>
    let r := i % 4
    let c := i / 4
    s.getD (4 * ((if inv then c + 4 - r else c + r) % 4) + r) 0

def mixCols (m : List Nat) (s : List Nat) : List Nat :=
  (List.range 16).map fun i =>
    (List.range 4).foldl (fun x j => x ^^^ gm (m.getD ((j + 4 - i % 4) % 4) 0) (s.getD (i / 4 * 4 + j) 0)) 0

def xorN (a b : List Nat) : List Nat := List.zipWith (· ^^^ ·) a b

/-- AES-256 encryption of a block of 16 bytes. -/
def aesEnc (key s : List Nat) : List Nat :=
  match aesKeys key with
  | k0 :: ks =>
    let s := (ks.take 13).foldl (fun s k => xorN (mixCols [2, 3, 1, 1] (shiftRows false (s.map sbox))) k) (xorN s k0)
    xorN (shiftRows false (s.map sbox)) (ks.getD 13 [])
  | [] => s

/-- AES-256 decryption of a block. -/
def aesDec (key s : List Nat) : List Nat :=
  match (aesKeys key).reverse with
  | k0 :: ks =>
    let s := (ks.take 13).foldl (fun s k => mixCols [14, 11, 13, 9] (xorN ((shiftRows true s).map invSbox) k)) (xorN s k0)
    xorN ((shiftRows true s).map invSbox) (ks.getD 13 [])
  | [] => s

/-- Bytes of a number, most significant first. -/
def beNats (n v : Nat) : List Nat := (beBytes n v).map (·.toNat)

def ofBeNats (l : List Nat) : Nat := l.foldl (fun a b => a * 256 + b) 0

/-- Key wrap of a 256-bit key under a 256-bit key (RFC 3394): 40 bytes as one number. -/
def keyWrap (kek key : Nat) : Nat :=
  let step (s : Nat × List Nat) (t : Nat) : Nat × List Nat :=
    let i := t % 4
    let b := ofBeNats (aesEnc (beNats 32 kek) (beNats 8 s.1 ++ beNats 8 (s.2.getD i 0)))
    ((b / 2 ^ 64) ^^^ (t + 1), s.2.set i (b % 2 ^ 64))
  let r := (List.range 24).foldl step (0xA6A6A6A6A6A6A6A6, [fld key 255 192, fld key 191 128, fld key 127 64, fld key 63 0])
  r.2.foldl (fun a b => a * 2 ^ 64 + b) r.1

/-- Key unwrap (RFC 3394); none when the integrity check fails. -/
def keyUnwrap (kek w : Nat) : Option Nat :=
  let step (s : Nat × List Nat) (t : Nat) : Nat × List Nat :=
    let i := t % 4
    let b := ofBeNats (aesDec (beNats 32 kek) (beNats 8 (s.1 ^^^ (t + 1)) ++ beNats 8 (s.2.getD i 0)))
    (b / 2 ^ 64, s.2.set i (b % 2 ^ 64))
  let r := (List.range 24).reverse.foldl step (fld w 319 256, [fld w 255 192, fld w 191 128, fld w 127 64, fld w 63 0])
  if r.1 == 0xA6A6A6A6A6A6A6A6 then some (r.2.foldl (fun a b => a * 2 ^ 64 + b) 0) else none

/-- The key wrap of RFC 3394 undone over `n` semiblocks: the integrity check value and the semiblocks. -/
def unwrapWords (kek n : Nat) (a : Nat) (rs : List Nat) : Nat × List Nat :=
  (List.range (6 * n)).reverse.foldl (fun s t =>
    let b := ofBeNats (aesDec (beNats 32 kek) (beNats 8 (s.1 ^^^ (t + 1)) ++ beNats 8 (s.2.getD (t % n) 0)))
    (b / 2 ^ 64, s.2.set (t % n) (b % 2 ^ 64))) (a, rs)

/-- Key unwrap with padding (RFC 5649): the octets under the wrap; none when a check fails. -/
def unwrapPad (kek : Nat) (c : List Byte) : Option (List Byte) :=
  let n := c.length / 8 - 1
  let w (i : Nat) : Nat := ofBe ((c.drop (8 * i)).take 8)
  if c.length % 8 != 0 || c.length < 16 then none
  else
    let r := if n == 1 then
        let b := ofBeNats (aesDec (beNats 32 kek) (c.map (·.toNat)))
        (b / 2 ^ 64, [b % 2 ^ 64])
      else unwrapWords kek n (w 0) ((List.range n).map fun i => w (i + 1))
    let len := r.1 % 2 ^ 32
    let bs := (r.2.map (beBytes 8)).flatten
    if r.1 / 2 ^ 32 == 0xA65959A6 && 8 * (n - 1) < len && len ≤ 8 * n && (bs.drop len).all (· == 0) then some (bs.take len)
    else none

end Sys2Proof.Machine
end

