-- ==== Sys2Proof/Config.lean ====
section
/-! DEFINITION. What the spec leaves to the implementation: free values, with no body, so that nothing can be proved of
them. -/
namespace Sys2Proof.Config

/-- Hash of a flow identity (source, destination, class) that chooses among equal-cost routes (R395); its function is
not stated. -/
opaque flowHash : Nat → Nat

/-- The protocol version of the port's identity block (R388); the spec gives no number. -/
opaque linkVersion : Nat

/-- The set, of 256, of a line of the tile cache's fill partition (R70); the index function is not stated. -/
opaque fillSet : Nat → Nat

/-- The set, of 64, of a line of the instruction cache (R77); the index function is not stated. -/
opaque icacheSet : Nat → Nat

/-- Free repair rows that a stack reports for a bank (R376): argument stack × 2^13 + pseudo-channel × 2^7 + bank × 2 + 1
for hard rows. -/
opaque stackFree : Nat → Nat

/-- What the outer code makes of an error pattern beyond what R354 says it corrects: arguments the symbols in error with their
XOR values and the symbols taken as erasures; `none` when it detects the error, else the symbols it changes, by which the word
becomes another codeword. The spec names no generator polynomial. -/
opaque rsOther : List (Nat × Nat) → List Nat → Option (List (Nat × Nat))

/-- The four check bytes of a codeword from the 64 bytes of its granule (R348, R354). -/
opaque rsCheck : List (BitVec 8) → BitVec 32

/-- A value that the spec leaves unstated, one per use: the argument is the State's count of free values taken. -/
opaque freeValue : Nat → Nat

end Sys2Proof.Config
end

