-- ==== Sys2Proof/Machine/Num.lean ====
section
/-! DEFINITION. The number formats of the package and their arithmetic, on exact values: a source is decoded exactly
and a result is rounded once (R92–R118, R243–R244, R310). -/
namespace Sys2Proof.Machine

/-- A decoded number: a signed magnitude `m × 2^e` (a zero keeps its sign), an infinity, or a NaN. -/
inductive FV where
  | fin (neg : Bool) (m : Nat) (e : Int)
  | inf (neg : Bool)
  | nan
  deriving DecidableEq, Repr

/-- Parameters of a floating-point format (R93): exponent bits, mantissa bits, bias, and whether an exponent of all
ones stands for Inf and NaN. -/
structure FP where
  eb : Nat
  mb : Nat
  bias : Nat
  ieee : Bool
  deriving DecidableEq, Repr

/-- FMT codes (R92). -/
abbrev Fmt := Nat

def fmtFP32 : Fmt := 0
def fmtFP19 : Fmt := 1
def fmtBF16 : Fmt := 2
def fmtFP16 : Fmt := 3
def fmtE5M2 : Fmt := 4
def fmtE4M3 : Fmt := 5
def fmtE3M2 : Fmt := 6
def fmtE2M3 : Fmt := 7
def fmtE2M1 : Fmt := 8
def fmtINT8 : Fmt := 9
def fmtINT16 : Fmt := 10
def fmtINT32 : Fmt := 11
def fmtINT64 : Fmt := 12

/-- Is the format an integer format (0x9–0xC)? -/
def fmtIsInt (f : Fmt) : Bool := 9 ≤ f && f ≤ 12

/-- The parameters of a floating-point format (R93); FP32's for any other code. The internal code 14 stands for FP64,
which no FMT field names (R338). -/
def fpOf (f : Fmt) : FP :=
  match f with
  | 1 => ⟨8, 10, 127, true⟩
  | 2 => ⟨8, 7, 127, true⟩
  | 3 => ⟨5, 10, 15, true⟩
  | 4 => ⟨5, 2, 15, true⟩
  | 5 => ⟨4, 3, 7, false⟩
  | 6 => ⟨3, 2, 3, false⟩
  | 7 => ⟨2, 3, 1, false⟩
  | 8 => ⟨2, 1, 1, false⟩
  | 14 => ⟨11, 52, 1023, true⟩
  | _ => ⟨8, 23, 127, true⟩

/-- Bits of one element as stored (R92, R95): FP19 stands in a 32-bit container. -/
def fmtBits (f : Fmt) : Nat :=
  match f with
  | 0 => 32 | 1 => 32 | 2 => 16 | 3 => 16 | 4 => 8 | 5 => 8 | 6 => 6 | 7 => 6 | 8 => 4
  | 9 => 8 | 10 => 16 | 11 => 32 | 12 => 64 | _ => 32

/-- Bytes of a packed row of `n` elements (R96). -/
def rowBytes (f : Fmt) (n : Nat) : Nat :=
  match f with
  | 8 => ceilDiv n 2
  | 6 => 3 * ceilDiv n 4
  | 7 => 3 * ceilDiv n 4
  | _ => n * (fmtBits f / 8)

/-- Bits of element `i` of a packed row held as one little-endian number (R96). -/
def elemAt (f : Fmt) (row i : Nat) : Nat := (row >>> (i * fmtBits f)) % 2 ^ fmtBits f

/-- A packed row from its elements' bits, first element lowest. -/
def packRow (f : Fmt) : List Nat → Nat
  | [] => 0
  | x :: xs => x % 2 ^ fmtBits f + (packRow f xs) * 2 ^ fmtBits f

/-- Legality of FMT, BLK (R99, R100): 0 legal, 0x0201 reserved, 0x0202 illegal BLK. -/
def fmtCheck (f : Fmt) (blk : Bool) : Nat :=
  if 13 ≤ f then 0x0201
  else if f == 4 || f == 5 || f == 9 then 0
  else if 6 ≤ f && f ≤ 8 then (if blk then 0 else 0x0202)
  else (if blk then 0x0202 else 0)

/-- Length of a block (R98). -/
def blkLen (bsz : Bool) : Nat := if bsz then 16 else 32

/-- Rounding a magnitude to the multiple of `2^q` nearest, ties to even: the multiple. -/
def rneAt (m : Nat) (e q : Int) : Nat :=
  if q ≤ e then m <<< (e - q).toNat
  else
    let sh := (q - e).toNat
    let k := m >>> sh
    let r := m - k <<< sh
    let half := 2 ^ (sh - 1)
    if half < r || (r == half && k % 2 == 1) then k + 1 else k

/-- Truncation of a magnitude toward zero to a multiple of `2^q`: the multiple. -/
def truncAt (m : Nat) (e q : Int) : Nat :=
  if q ≤ e then m <<< (e - q).toNat else m >>> (q - e).toNat

/-- floor(log2) of a non-zero magnitude. -/
def flog2 (m : Nat) (e : Int) : Int := (Nat.log2 m : Int) + e

/-- The quantum of a magnitude in a format: the exponent of its last place, with the format's lower limit only. -/
def quantum (p : FP) (m : Nat) (e : Int) : Int :=
  max (flog2 m e - p.mb) (1 - p.bias - p.mb)

/-- Largest finite magnitude of a format, as mantissa and exponent (R93). -/
def maxFin (f : Fmt) : Nat × Int :=
  let p := fpOf f
  if f == 5 then (14, 5)
  else if p.ieee then (2 ^ (p.mb + 1) - 1, (2 ^ p.eb : Int) - 2 - p.bias - p.mb)
  else (2 ^ (p.mb + 1) - 1, (2 ^ p.eb : Int) - 1 - p.bias - p.mb)

/-- Is `m × 2^e` above `m' × 2^e'`? -/
def magGt (m : Nat) (e : Int) (m' : Nat) (e' : Int) : Bool :=
  let lo := min e e'
  m' <<< (e' - lo).toNat < m <<< (e - lo).toNat

/-- Encoding of a magnitude that is a multiple `k` of the quantum `2^q` and within the format. -/
def encMag (p : FP) (k : Nat) (q : Int) : Nat :=
  if k == 0 then 0
  else
    let (k, q) := if k == 2 ^ (p.mb + 1) then (k / 2, q + 1) else (k, q)
    if k < 2 ^ p.mb then k
    else (q + p.mb + p.bias).toNat * 2 ^ p.mb + (k - 2 ^ p.mb)

/-- Sign bit of a format as stored without the FP19 container. -/
def signBit (f : Fmt) : Nat := let p := fpOf f; 2 ^ (p.eb + p.mb)

/-- The stored bits of a format from its own bits: FP19 stands in bits [31:13] (R95). -/
def container (f : Fmt) (x : Nat) : Nat := if f == 1 then x <<< 13 else x

/-- The canonical NaN of a format (R104); 0 for a format that has none. The internal code 14 has FP64's quiet NaN. -/
def canonNaN (f : Fmt) : Nat :=
  match f with
  | 0 => 0x7FC00000 | 1 => 0x7FC00000 | 2 => 0x7FC0 | 3 => 0x7E00 | 4 => 0x7F | 5 => 0x7F
  | 14 => 0x7FF8000000000000 | _ => 0

/-- Infinity of a format that has it. -/
def infBits (f : Fmt) (neg : Bool) : Nat :=
  let p := fpOf f
  container f ((if neg then signBit f else 0) + (2 ^ p.eb - 1) * 2 ^ p.mb)

/-- The value of stored bits in a format (R94, R95, R97), without block scaling. -/
def decF (f : Fmt) (x : Nat) : FV :=
  if fmtIsInt f then
    let w := fmtBits f
    let s := toSigned w x
    .fin (s < 0) s.natAbs 0
  else
    let p := fpOf f
    let y := if f == 1 then (x >>> 13) % 2 ^ 19 else x
    let neg := bitOf y (p.eb + p.mb)
    let ex := (y >>> p.mb) % 2 ^ p.eb
    let m := y % 2 ^ p.mb
    if p.ieee && ex == 2 ^ p.eb - 1 then (if m == 0 then .inf neg else .nan)
    else if f == 5 && ex == 15 && m == 7 then .nan
    else if ex == 0 then .fin neg m (1 - p.bias - p.mb)
    else .fin neg (m + 2 ^ p.mb) ((ex : Int) - p.bias - p.mb)

/-- A decoded FP32 value. -/
def dec32 (x : Nat) : FV := decF 0 (x % 2 ^ 32)

/-- What a conversion of one element did: its bits, and whether it saturated (R111), wrote a non-finite result or one
forced by a non-finite source (R112, R113), or wrote zero for a non-zero source (R118). -/
structure Enc where
  bits : Nat
  ovf : Bool
  nf : Bool
  unf : Bool
  deriving DecidableEq, Repr

/-- Conversion of an exact value into a floating-point format, rounded once to nearest, ties to even (R111–R113,
R118); `nf` reports a non-finite source. -/
def encFP (f : Fmt) (v : FV) : Enc :=
  let p := fpOf f
  match v with
  | .nan => ⟨canonNaN f, false, true, false⟩
  | .inf neg => ⟨if p.ieee then infBits f neg else canonNaN f, false, true, false⟩
  | .fin neg m e =>
    let s := if neg then signBit f else 0
    if m == 0 then ⟨container f s, false, false, false⟩
    else
      let q := quantum p m e
      let k := rneAt m e q
      let (mm, me) := maxFin f
      if magGt k q mm me then ⟨container f (s + encMag p mm me), true, false, false⟩
      else ⟨container f (s + encMag p k q), false, false, k == 0⟩

/-- Conversion of an exact value into an integer format (R111, R113, R114). -/
def encInt (f : Fmt) (v : FV) : Enc :=
  let w := fmtBits f
  let hi : Nat := 2 ^ (w - 1) - 1
  match v with
  | .nan => ⟨0, false, true, false⟩
  | .inf neg => ⟨if neg then 2 ^ (w - 1) else hi, false, true, false⟩
  | .fin neg m e =>
    let k := rneAt m e 0
    if neg then (if hi + 1 < k then ⟨2 ^ (w - 1), true, false, false⟩ else ⟨ofSigned w (-(k : Int)), false, false, false⟩)
    else if hi < k then ⟨hi, true, false, false⟩ else ⟨k, false, false, false⟩

/-- Conversion of an exact value into any format without block scaling. -/
def encF (f : Fmt) (v : FV) : Enc := if fmtIsInt f then encInt f v else encFP f v

/-- Negation. -/
def FV.neg : FV → FV
  | .fin s m e => .fin (!s) m e
  | .inf s => .inf (!s)
  | .nan => .nan

/-- Absolute value. -/
def FV.abs : FV → FV
  | .fin _ m e => .fin false m e
  | .inf _ => .inf false
  | .nan => .nan

/-- Is the value finite? -/
def FV.isFin : FV → Bool
  | .fin .. => true
  | _ => false

/-- Is the value a NaN? -/
def FV.isNaN : FV → Bool
  | .nan => true
  | _ => false

/-- Is the value a zero of either sign? -/
def FV.isZero : FV → Bool
  | .fin _ m _ => m == 0
  | _ => false

/-- The exact value of an integer. -/
def FV.ofInt (i : Int) : FV := .fin (i < 0) i.natAbs 0

/-- A finite value times a power of two. -/
def FV.scale (v : FV) (k : Int) : FV :=
  match v with
  | .fin s m e => .fin s m (e + k)
  | x => x

/-- Exact sum of signed magnitudes; equal magnitudes of opposite sign give +0, two negative zeros −0 (R103). -/
def FV.add (a b : FV) : FV :=
  match a, b with
  | .nan, _ => .nan
  | _, .nan => .nan
  | .inf s, .inf t => if s == t then .inf s else .nan
  | .inf s, _ => .inf s
  | _, .inf t => .inf t
  | .fin s m e, .fin t n d =>
    if m == 0 && n == 0 then .fin (s && t) 0 0
    else
      let lo := min e d
      let x : Int := (m <<< (e - lo).toNat : Nat)
      let y : Int := (n <<< (d - lo).toNat : Nat)
      let z := (if s then -x else x) + (if t then -y else y)
      .fin (z < 0) z.natAbs lo

/-- Exact difference. -/
def FV.sub (a b : FV) : FV := a.add b.neg

/-- Exact product (R137: 0 × Inf is NaN). -/
def FV.mul (a b : FV) : FV :=
  match a, b with
  | .nan, _ => .nan
  | _, .nan => .nan
  | .inf s, .inf t => .inf (s != t)
  | .inf s, .fin t n _ => if n == 0 then .nan else .inf (s != t)
  | .fin s m _, .inf t => if m == 0 then .nan else .inf (s != t)
  | .fin s m e, .fin t n d => .fin (s != t) (m * n) (e + d)

/-- Ordered comparison `a < b`; false with a NaN. -/
def FV.lt (a b : FV) : Bool :=
  match a, b with
  | .nan, _ => false
  | _, .nan => false
  | .inf s, .inf t => s && !t
  | .inf s, _ => s
  | _, .inf t => !t
  | .fin s m e, .fin t n d =>
    let lo := min e d
    let x : Int := (m <<< (e - lo).toNat : Nat)
    let y : Int := (n <<< (d - lo).toNat : Nat)
    decide ((if s then -x else x) < (if t then -y else y))

/-- Equality of value; false with a NaN; zeros are equal. -/
def FV.eqv (a b : FV) : Bool :=
  !a.isNaN && !b.isNaN && !(a.lt b) && !(b.lt a)

/-- Is the sign negative? -/
def FV.sign : FV → Bool
  | .fin s _ _ => s
  | .inf s => s
  | .nan => false

/-- The 2019 maximum (R103): NaN with a NaN operand, −0 below +0. -/
def FV.max (a b : FV) : FV :=
  if a.isNaN || b.isNaN then .nan
  else if a.lt b then b
  else if b.lt a then a
  else if a.sign then b else a

/-- The 2019 minimum (R103). -/
def FV.min (a b : FV) : FV :=
  if a.isNaN || b.isNaN then .nan
  else if a.lt b then a
  else if b.lt a then b
  else if a.sign then a else b

/-- Rounding to FP64 as a value (R338). -/
def rnd64 (v : FV) : FV := decF 14 (encFP 14 v).bits

/-- Rounding to FP32 as a value, saturating (R111). -/
def rnd32 (v : FV) : FV := dec32 (encFP 0 v).bits

/-- A magnitude known between two neighbours: one extra low bit says that the true value lies above. -/
def stickyFin (neg : Bool) (k : Nat) (exact : Bool) (e : Int) : FV :=
  .fin neg (2 * k + (if exact then 0 else 1)) (e - 1)

/-- Integer square root by bits: the largest `r` of at most `n` bits with `r × r ≤ x`. -/
def isqrtBits : Nat → Nat → Nat → Nat
  | 0, _, r => r
  | n + 1, x, r =>
    let c := r + 2 ^ n
    isqrtBits n x (if c * c ≤ x then c else r)

/-- Integer square root. -/
def isqrt (x : Nat) : Nat := isqrtBits (Nat.log2 x / 2 + 1) x 0

/-- 1 ÷ v, exact but for a sticky bit (R244). -/
def recipV (v : FV) : FV :=
  match v with
  | .nan => .nan
  | .inf s => .fin s 0 0
  | .fin s m e =>
    if m == 0 then .inf s
    else
      let k := Nat.log2 m + 64
      let q := 2 ^ k / m
      stickyFin s q (q * m == 2 ^ k) (-(k : Int) - e)

/-- 1 ÷ √v (R244). -/
def rsqrtV (v : FV) : FV :=
  match v with
  | .nan => .nan
  | .inf s => if s then .nan else .fin false 0 0
  | .fin s m e =>
    if m == 0 then .inf s
    else if s then .nan
    else
      let (m, e) := if e % 2 == 0 then (m, e) else (2 * m, e - 1)
      let k := Nat.log2 m + 64
      let r := isqrt (2 ^ (2 * k) / m)
      stickyFin false r (r * r * m == 2 ^ (2 * k)) (-(k : Int) - e / 2)

/-- √v of a non-negative value. -/
def sqrtV (v : FV) : FV :=
  match v with
  | .fin s m e =>
    if m == 0 then .fin s 0 0
    else if s then .nan
    else
      let (m, e) := if e % 2 == 0 then (m, e) else (2 * m, e - 1)
      let x := m <<< 128
      let r := isqrt x
      stickyFin false r (r * r == x) (e / 2 - 64)
  | .inf s => if s then .nan else .inf false
  | .nan => .nan

/-- a ÷ b, exact but for a sticky bit; IEEE special cases. -/
def divV (a b : FV) : FV :=
  match a, b with
  | .nan, _ => .nan
  | _, .nan => .nan
  | .inf _, .inf _ => .nan
  | .inf s, .fin t _ _ => .inf (s != t)
  | .fin s _ _, .inf t => .fin (s != t) 0 0
  | .fin s m e, .fin t n d =>
    if n == 0 then (if m == 0 then .nan else .inf (s != t))
    else if m == 0 then .fin (s != t) 0 0
    else
      let k := Nat.log2 n + 64
      let q := (m <<< k) / n
      stickyFin (s != t) q (q * n == m <<< k) (e - d - k)

/-- Fraction bits of the fixed-point evaluations of EXP2 and LOG2. -/
def fxBits : Nat := 256

/-- floor(ln 2 × 2^256). -/
def ln2Fx : Nat := 0xb17217f7d1cf79abc9e3b39803f2f6af40f343267298b62d8a0d175b8baafa2b

/-- The exponential series from term `t` (fixed point) of index `i`, `n` terms more. -/
def expSeries (y : Nat) : Nat → Nat → Nat → Nat → Nat
  | 0, _, _, acc => acc
  | n + 1, i, t, acc =>
    let t' := t * y / 2 ^ fxBits / (i + 1)
    expSeries y n (i + 1) t' (acc + t')

/-- 2^f of a fraction in fixed point, `2^256 ≤ result < 2^257`. -/
def exp2Frac (f : Nat) : Nat :=
  let y := f * ln2Fx / 2 ^ fxBits
  expSeries y 70 0 (2 ^ fxBits) (2 ^ fxBits)

/-- The inverse hyperbolic tangent series of `z` (fixed point), odd power `p` at index `i`. -/
def atanhSeries (z2 : Nat) : Nat → Nat → Nat → Nat → Nat
  | 0, _, _, acc => acc
  | n + 1, i, p, acc => atanhSeries z2 n (i + 2) (p * z2 / 2 ^ fxBits) (acc + p / i)

/-- log2 of a mantissa `1 ≤ x < 2` (fixed point), in fixed point. -/
def log2Mant (x : Nat) : Nat :=
  let one := 2 ^ fxBits
  let z := (x - one) * one / (x + one)
  let z2 := z * z / one
  2 * atanhSeries z2 84 1 z 0 * one / ln2Fx

/-- 2^v, with a sticky bit for an inexact value (R244). -/
def exp2V (v : FV) : FV :=
  match v with
  | .nan => .nan
  | .inf s => if s then .fin false 0 0 else .inf false
  | .fin s m e =>
    if m == 0 then .fin false 1 0
    else if 8 ≤ flog2 m e then (if s then .fin false 1 (-400) else .fin false 1 400)
    else
      let mag := if 0 ≤ e + fxBits then m <<< (e + fxBits).toNat else m >>> (-(e + fxBits)).toNat
      let x : Int := if s then -(mag : Int) else mag
      let n := x / (2 ^ fxBits : Int)
      let f := (x % (2 ^ fxBits : Int)).toNat
      if f == 0 then .fin false 1 n
      else stickyFin false (exp2Frac f) false (n - fxBits)

/-- log2 v, with a sticky bit for an inexact value (R244). -/
def log2V (v : FV) : FV :=
  match v with
  | .nan => .nan
  | .inf s => if s then .nan else .inf false
  | .fin s m e =>
    if m == 0 then .inf true
    else if s then .nan
    else
      let l := Nat.log2 m
      let n : Int := (l : Int) + e
      if m == 2 ^ l then FV.ofInt n
      else
        let f := log2Mant (m <<< (fxBits - l))
        let x : Int := n * (2 ^ fxBits : Int) + f
        stickyFin (x < 0) (if x < 0 then x.natAbs - 1 else x.natAbs) false (-(fxBits : Int))

/-- The element value of a block-scaled format: INT8 elements count in 2^−6 (R102). -/
def decElem (f : Fmt) (blk : Bool) (x : Nat) : FV :=
  if f == 9 && blk then (decF 9 x).scale (-6) else decF f x

/-- A block-scaled element with its scale byte (R101, R102). -/
def decScaled (f : Fmt) (blk : Bool) (sc x : Nat) : FV :=
  if blk then
    if sc == 0xFF then .nan
    else (decElem f true x).scale ((sc : Int) - 127)
  else decF f x

/-- Conversion into the element format of a block target: INT8 elements count in 2^−6 (R102). -/
def encElem (f : Fmt) (v : FV) : Enc :=
  if f == 9 then encInt 9 (v.scale 6) else encFP f v

/-- emax of R115 step 3. -/
def blkEmax (f : Fmt) : Int :=
  match f with
  | 8 => 2 | 7 => 2 | 6 => 4 | 5 => 8 | 4 => 15 | _ => 0

/-- Largest of the finite magnitudes of a list, as a value; zero for none. -/
def maxMag (vs : List FV) : FV :=
  vs.foldl (fun acc v => if v.isFin && acc.lt v.abs then v.abs else acc) (.fin false 0 0)

/-- X after step 5 of R115 for a non-zero largest magnitude. -/
def blockX (f : Fmt) (m : Nat) (e : Int) : Int :=
  let x := flog2 m e - blkEmax f
  let x := if (encElem f (.fin false m (e - x))).ovf then x + 1 else x
  max (-127) (min 127 x)

/-- Does the block target `f` have an encoding for this non-finite value (R112)? -/
def blkHas (f : Fmt) (v : FV) : Bool :=
  match v with
  | .fin .. => true
  | .inf _ => f == 4
  | .nan => f == 4 || f == 5

/-- The conversion of one block: scale code, elements, excess over the ceiling's exponent (R115–R117, R290). -/
structure BlkEnc where
  code : Nat
  elems : List Enc
  excess : Nat
  deriving DecidableEq, Repr

/-- Conversion of one block of exact values under a ceiling exponent X_T, if any (R113, R115–R117). -/
def encBlock (f : Fmt) (ceil : Option Int) (vs : List FV) : BlkEnc :=
  if vs.any fun v => !blkHas f v then
    ⟨0xFF, vs.map fun _ => ⟨0, false, true, false⟩, 0⟩
  else
    match maxMag vs with
    | .fin _ m e =>
      if m == 0 then ⟨0x00, vs.map fun v => encElem f v, 0⟩
      else
        let x := blockX f m e
        let (y, exc) := match ceil with
          | some c => if c < x then (c, (x - c).toNat) else (x, 0)
          | none => (x, 0)
        ⟨(y + 127).toNat, vs.map fun v => encElem f (v.scale (-y)), exc⟩
    | _ => ⟨0x00, vs.map fun v => encElem f v, 0⟩

/-- Ladder rank of an overflow in a format (R300). -/
def ladderRank (f : Fmt) : Nat :=
  match f with
  | 6 => 0 | 7 => 0 | 8 => 0 | 5 => 1 | 4 => 1 | 2 => 2 | 3 => 2 | _ => 3

/-- Split of a list into pieces of `n`. -/
def chunksOf {α : Type} (n : Nat) : Nat → List α → List (List α)
  | 0, _ => []
  | k + 1, l => if l.isEmpty then [] else l.take n :: chunksOf n k (l.drop n)

/-- The pairwise tree of R246 over a list of a power of two values. -/
def treeReduce (op : FV → FV → FV) : Nat → List FV → FV
  | 0, l => l.headD .nan
  | n + 1, l =>
    treeReduce op n ((chunksOf 2 l.length l).map fun
      | [a, b] => op a b
      | a :: _ => a
      | [] => .nan)

end Sys2Proof.Machine
end

