-- ==== Sys2Proof/Machine/Crc.lean ====
section
/-! DEFINITION. The check functions of the package: CRC-32C (R215) and the two CRC-64 functions of the digest (R341). -/
namespace Sys2Proof.Machine

/-- `n` shifts of a reflected CRC register with a reflected polynomial. -/
def crcShiftR (poly : Nat) : Nat → Nat → Nat
  | 0, c => c
  | n + 1, c => crcShiftR poly n (if c % 2 == 1 then (c / 2) ^^^ poly else c / 2)

/-- `n` shifts of an unreflected 64-bit CRC register. -/
def crcShiftL (poly : Nat) : Nat → Nat → Nat
  | 0, c => c
  | n + 1, c =>
    let d := (2 * c) % 2 ^ 64
    crcShiftL poly n (if 2 ^ 63 ≤ c then d ^^^ poly else d)

/-- The register of a reflected CRC after the bytes. -/
def crcFeedR (poly : Nat) : List Byte → Nat → Nat
  | [], c => c
  | b :: bs, c => crcFeedR poly bs (crcShiftR poly 8 (c ^^^ b.toNat))

/-- The register of the unreflected CRC-64 after the bytes. -/
def crcFeedL (poly : Nat) : List Byte → Nat → Nat
  | [], c => c
  | b :: bs, c => crcFeedL poly bs (crcShiftL poly 8 (c ^^^ (b.toNat <<< 56)))

/-- CRC-32 of a die-to-die flit (R19): the spec names no polynomial; that of IEEE 802.3, reflected (PRESUMED, log entry
106). -/
def crc32 (bs : List Byte) : Nat := crcFeedR 0xEDB88320 bs 0xFFFFFFFF ^^^ 0xFFFFFFFF

/-- CRC-32C (R215): polynomial 0x1EDC_6F41 reflected. -/
def crc32c (bs : List Byte) : Nat := crcFeedR 0x82F63B78 bs 0xFFFFFFFF ^^^ 0xFFFFFFFF

/-- CE, ECMA-182 (R341). -/
def crcCE (bs : List Byte) : Nat := crcFeedL 0x42F0E1EBA9EA3693 bs 0

/-- CI, ISO 3309 (R341). -/
def crcCI (bs : List Byte) : Nat :=
  crcFeedR 0xD800000000000000 bs 0xFFFFFFFFFFFFFFFF ^^^ 0xFFFFFFFFFFFFFFFF

/-- CE over 64-bit values, each fed as 8 little-endian bytes (R341). -/
def ceWords (ws : List Nat) : Nat := crcCE (ws.map (leBytes 8)).flatten

/-- CI over 64-bit values. -/
def ciWords (ws : List Nat) : Nat := crcCI (ws.map (leBytes 8)).flatten

/-- The rind of a block of zeros: CRC-32C of 4,096 zero bytes. -/
def zeroRind : Nat := 0x98F94189

/-- The rind of a block of bytes (R215); a block of zeros is answered by its constant. -/
def rindOf (bs : List Byte) : Nat := if bs.length == 4096 && bs.all (· == 0) then zeroRind else crc32c bs

/-- The invalid mark of a block: the complement of its correct rind (R215). -/
def invalidMark (rind : Nat) : Nat := 0xFFFFFFFF - rind

end Sys2Proof.Machine
end

