-- ==== Sys2Proof/Machine/Tab.lean ====
section
/-! DEFINITION. Sparse tables: a list of keys and values in strictly rising key order that holds no entry equal to the
table's default, so that equal tables are equal lists. -/
namespace Sys2Proof.Machine

/-- A sparse table from natural numbers. -/
abbrev Tab (α : Type) := List (Nat × α)

/-- The value at key `k`, `d` when no entry stands there. -/
def tget {α : Type} (d : α) : Tab α → Nat → α
  | [], _ => d
  | (j, a) :: t, k => if j == k then a else if k < j then d else tget d t k

/-- The table with key `k` removed; what follows the entry in a table in canonical form has greater keys. -/
def tdel {α : Type} : Tab α → Nat → Tab α
  | [], _ => []
  | (j, a) :: t, k => if j == k then t.dropWhile (fun c => c.1 ≤ k) else if k < j then (j, a) :: t else (j, a) :: tdel t k

/-- The table with a non-default value at key `k`. -/
def tins {α : Type} : Tab α → Nat → α → Tab α
  | [], k, v => [(k, v)]
  | (j, a) :: t, k, v =>
    if j == k then (k, v) :: t else if k < j then (k, v) :: (j, a) :: t else (j, a) :: tins t k v

/-- The table with value `v` at key `k`: an entry equal to the default is removed. -/
def tset {α : Type} [DecidableEq α] (d : α) (t : Tab α) (k : Nat) (v : α) : Tab α :=
  if v = d then tdel t k else tins t k v

/-- The entry at key `k`, if any. -/
def tfind {α : Type} : Tab α → Nat → Option α
  | [], _ => none
  | (j, a) :: t, k => if j == k then some a else if k < j then none else tfind t k

/-- Does an entry stand at key `k`? -/
def thas {α : Type} (t : Tab α) (k : Nat) : Bool := (tfind t k).isSome

/-- The keys of a table rise strictly from `lo` on. -/
def Tab.risesFrom {α : Type} : Nat → Tab α → Bool
  | _, [] => true
  | lo, (j, _) :: t => decide (lo ≤ j) && Tab.risesFrom (j + 1) t

/-- The canonical form: keys rise strictly and no entry holds its key's default. -/
def Tab.canonical {α : Type} [DecidableEq α] (d : Nat → α) (t : Tab α) : Bool :=
  Tab.risesFrom 0 t && t.all fun c => decide (c.2 ≠ d c.1)

end Sys2Proof.Machine
end

