-- ==== Sys2Proof/Machine/CoreTypes.lean ====
section
/-! DEFINITION. The state of one physical core as plain data: engines, queues, register files, stores and the ops in
flight (02, 04–09). Fields that are registers of the CSR space stand in the register storage, not here. -/
namespace Sys2Proof.Machine

/-- The engines of a core (R54). -/
inductive Eng where
  | fe | ve | mx | ld | st | sy
  deriving DecidableEq, Repr

/-- The code of an engine in SEM_OWNER and SERVE fields (R187); 0 for the synchronization engine, which owns nothing. -/
def Eng.code : Eng → Nat
  | .fe => 1 | .ve => 2 | .mx => 3 | .ld => 4 | .st => 5 | .sy => 0

/-- The unit kind of an engine in event records (R194). -/
def Eng.kind : Eng → Nat
  | .fe => 1 | .ve => 2 | .mx => 3 | .ld => 4 | .st => 5 | .sy => 6

/-- The slot number of an engine in DETAIL fields (R196). -/
def Eng.slot : Eng → Nat
  | .fe => 0 | .ve => 1 | .mx => 2 | .ld => 3 | .st => 4 | .sy => 5

/-- The engine that a SERVE code names (R264). -/
def Eng.ofServe (n : Nat) : Option Eng :=
  match n with
  | 1 => some .fe | 2 => some .ve | 3 => some .mx | 4 => some .ld | 5 => some .st | _ => none

/-- State of a physical core (CORE_STATE.STATE). -/
inductive CoreSt where
  | off | spare | idle | run | halt | swap | retired
  deriving DecidableEq, Repr

def CoreSt.code : CoreSt → Nat
  | .off => 0 | .spare => 1 | .idle => 2 | .run => 3 | .halt => 4 | .swap => 5 | .retired => 6

/-- What an entry of an engine queue is: an op, a NOP, or the gate with the given number (R163, R191, R266). -/
inductive EKind where
  | op | nop | gate (id : Nat)
  deriving DecidableEq, Repr

/-- One queue entry: slot bits, slate, bundle index, gap (R59), the scalar file as it stood at dispatch (R57), and the
number of the bracket open at dispatch (R122). -/
structure Entry where
  kind : EKind
  bits : Nat
  slate : Nat
  idx : Nat
  gap : Nat
  sc : Tab Word
  brk : Option Nat
  deriving DecidableEq, Repr

/-- One entry of the SY queue: its gate, served engine and op; `reached` holds the issue count of the served engine's
core when the engine passed (signal, decrement) or reached (wait) the gate. -/
structure SyEnt where
  id : Nat
  serve : Eng
  bits : Nat
  slate : Nat
  idx : Nat
  gap : Nat
  sc : Tab Word
  brk : Option Nat
  nop : Bool
  reached : Option Nat
  deriving DecidableEq, Repr

/-- KIND of a waiter (R282). -/
inductive WKind where
  | wait | wtime | fence | lclose
  deriving DecidableEq, Repr

def WKind.code : WKind → Nat
  | .wait => 0 | .wtime => 1 | .fence => 2 | .lclose => 3

/-- One held waiter of a core (R279): engine, kind, semaphore and count or time, ACK, gate, issue count at the gate,
slate, and the clapper time at which its age started. -/
structure Waiter where
  eng : Eng
  kind : WKind
  sem : Nat
  arg : Nat
  ack : Bool
  gate : Nat
  mark : Nat
  slate : Nat
  since : Nat
  deriving DecidableEq, Repr

/-- What holds the front end besides a gate (R58, R178, R182, R184, R415, R417). -/
inductive Hold where
  | free
  | branch (target : Nat)
  | lclose (sd : Nat) (slate : Nat)
  | outcome (sd : Nat) (slate : Nat)
  | take (sd : Nat) (word : Nat) (slate : Nat)
  | step (slate : Nat)
  | boundary
  | ending (slate : Nat)
  | copen (group : Nat) (desc : Nat)
  | cclose (sd : Nat) (group : Nat)
  | rejoin (written : Nat)
  deriving DecidableEq, Repr

/-- The program header in force (R186). -/
structure Hdr where
  loaded : Bool
  kind : Nat
  scratchWays : Nat
  bundles : Nat
  text : Nat
  entry : Nat
  wdogUs : Nat
  claims : Nat
  owners : Nat
  deriving DecidableEq, Repr

/-- The front end: pointer, bundle sequence, the scalar op of the bundle last dispatched, what holds it, the gate of an
SY op that it serves and has not passed (R267), the instruction line it waits for, the LOSS register, the step whose loss sample was taken, and the records of skipped
ops since the last boundary (R59, R65, R170, R195, R312). -/
structure Fe where
  ptr : Nat
  seq : Nat
  sc : Option Entry
  hold : Hold
  gate : Option Nat
  miss : Option Nat
  loss : Nat
  lossStep : Option Nat
  recs : Nat
  brkNo : Nat
  deriving DecidableEq, Repr

/-- A weight buffer of an array (R127): format, contents by row as packed element bits, scale rows, FP32 intake mode,
taint; `any` marks the zero weights of program load, which match every format. -/
structure WBuf where
  any : Bool
  fmt : Nat
  blk : Bool
  bsz : Bool
  trunc : Bool
  rows : Tab (BitVec 2048)
  scales : Tab (BitVec 2048)
  taint : Bool
  tag : Nat
  deriving DecidableEq, Repr

/-- Zero weights. -/
def WBuf.zero : WBuf := ⟨true, 0, false, false, false, [], [], false, 0⟩

/-- The zero weights that a shadow buffer holds at program load (R127): a buffer of its own. -/
def WBuf.zeroSha : WBuf := ⟨true, 0, false, false, false, [], [], false, 1⟩

/-- Counts of one op (R118, R121, R300): overflows and their highest rank, non-finite results, underflows, range
violations. -/
structure Cnt where
  ovf : Nat
  rank : Nat
  nf : Nat
  unf : Nat
  rng : Nat
  deriving DecidableEq, Repr

def Cnt.zero : Cnt := ⟨0, 0, 0, 0, 0⟩

/-- A range of bytes to move: source address, length, destination. -/
structure Seg where
  src : Nat
  len : Nat
  dst : Nat
  deriving DecidableEq, Repr

/-- What becomes of the rind of a written block. -/
inductive RindAct where
  | keep | correct | invalid
  deriving DecidableEq, Repr

/-- One write of a store: address, bytes, what becomes of the rind of its block, whether it enters the take buffer
(R221), and whether a source byte was tainted (R220). -/
structure WrReq where
  addr : Nat
  data : List Byte
  rind : RindAct
  take : Bool
  taint : Bool
  deriving DecidableEq, Repr

/-- One block under way to another package, or a copy to the own one: destination address, carried rind, bytes (R231,
R420). -/
structure XBlk where
  addr : Nat
  rind : Nat
  data : List Byte
  deriving DecidableEq, Repr

/-- The elements of an atomic op that begin in one block: block address, element addresses with the source bits, taint of their
source bytes, and of those of an element that reaches into the next block (R323, R324). -/
structure ABlk where
  blk : Nat
  elems : List (Nat × Nat)
  taint : Bool
  spill : Bool
  deriving DecidableEq, Repr

/-- An atomic op: opcode, format, RIND, blocks not yet performed, whether its corrupt rind was logged. -/
structure ARun where
  opc : Nat
  fmt : Nat
  rind : Bool
  blocks : List ABlk
  logged : Bool
  deriving DecidableEq, Repr

/-- One pass of a matrix op as an array's input buffer and weight buffer keep it until the commit (R145, R148): the array,
the place of the pass in the order of accumulation, the weights, the activation rows with their scales, and the banks
(8 × array + bank) that it adds into, `true` where it enters negated (R142). -/
structure MxPass where
  arr : Nat
  seq : Nat
  w : WBuf
  acts : List (Nat × Nat)
  outs : List (Nat × Bool)
  deriving DecidableEq, Repr

/-- A matrix op whose check is open (R144–R152): bank rows to commit, banks written (8 × array + bank), whether ACC = 0,
taint of its sources, fold form, arrays driven, the weight buffers it streams through (array, load), whether its check has
a tolerance (R149), the counts that land at the commit, its format, its passes, the accumulator rows it adds to, and the
cc of the issue clock at which it commits when its checks pass (R146). -/
structure MxRun where
  rows : Tab (BitVec 2048)
  banks : List Nat
  fresh : Bool
  taint : Bool
  fold : Bool
  arrs : List Nat
  tags : List (Nat × Nat)
  tol : Bool
  cnt : Cnt
  fmt : Nat
  blk : Bool
  bsz : Bool
  trunc : Bool
  passes : List MxPass
  old : Tab (BitVec 2048)
  due : Nat
  deriving DecidableEq, Repr

/-- A load whose blocks or lines are outstanding (R207, R210): units still to be read (address; whole block with its
rind, or one line), the lines of its footprint with their reuse hints, the runs to write into scratch, fill
destination, prefetch, whether its corrupt rind was logged, the scratch runs it writes, and the scratch lines of those
that were tainted since its issue (R219), and the masks of padding bytes (R96). -/
structure LdRun where
  units : List (Nat × Bool)
  lines : List (Nat × Nat)
  segs : List Seg
  fill : Bool
  pf : Bool
  logged : Bool
  dsts : List (Nat × Nat)
  tainted : List Nat
  pads : List (Nat × Nat)
  deriving DecidableEq, Repr

/-- An op in flight: issued and not complete. -/
inductive FKind where
  /-- A matrix op whose check is open. -/
  | mx (x : MxRun)
  /-- A load. -/
  | load (x : LdRun)
  /-- A store: writes still to perform. -/
  | store (wr : List WrReq)
  /-- An explicit transfer: destination package, traffic class, blocks not yet acknowledged or refused. -/
  | xfer (pkg : Nat) (tc : Nat) (blocks : List XBlk)
  /-- A collective send: successor, group, sequence number, digest, number of blocks, blocks not yet acknowledged or
  refused. -/
  | cx (pkg : Nat) (group : Nat) (seq : Nat) (digest : Nat) (count : Nat) (blocks : List XBlk)
  /-- Atomic requests not yet performed. -/
  | atomic (x : ARun)
  /-- A press update handed to the vat's queue. -/
  | press (vat : Nat) (op : Nat)
  deriving DecidableEq, Repr

/-- An op in flight: its issue number, engine, slate, bundle index, bracket. -/
structure Flight where
  no : Nat
  eng : Eng
  opc : Nat
  slate : Nat
  idx : Nat
  brk : Option Nat
  kind : FKind
  deriving DecidableEq, Repr

/-- What a result on its way writes (R238, R242, R146): lanes of a vector register or bits of a predicate register, with
their taint, which a write under a mask that keeps old lanes joins to the old one (R251), or runs of scratch bytes. -/
inductive LateAct where
  | vreg (n : Nat) (lanes : BitVec 64) (val : BitVec 2048) (taint : Bool) (keep : Bool)
  | preg (n : Nat) (lanes : BitVec 64) (val : BitVec 64) (taint : Bool) (keep : Bool)
  | scr (runs : List (Nat × Nat)) (bytes : List Byte) (taint : Bool)
  deriving DecidableEq, Repr

/-- A result on its way: the engine, and the cc of the engine's issue clock at which it is written. -/
structure Late where
  eng : Eng
  due : Nat
  act : LateAct
  deriving DecidableEq, Repr

/-- Counts and the recording into a scale-table entry (tensor id, magnitude bits, excess) that land with a result on its way
(R120, R288): the engine, the cc of its issue clock, the bracket of the op. -/
structure LateCnt where
  eng : Eng
  due : Nat
  brk : Option Nat
  cnt : Cnt
  rcd : Option (Nat × Nat × Nat)
  deriving DecidableEq, Repr

/-- A matrix op whose checks are done and whose commit is on its way (R146): the op, the banks it taints, its bracket. -/
structure LateMx where
  run : MxRun
  failed : List Nat
  brk : Option Nat
  deriving DecidableEq, Repr

/-- A fill line (R73, R74): data, reuse count, STREAM, age stamp, taint. -/
structure FillLine where
  data : BitVec 4096
  cnt : Nat
  stream : Bool
  age : Nat
  taint : Bool
  deriving DecidableEq, Repr

/-- An instruction-cache line (R77): data and last-use stamp. -/
structure IcLine where
  data : BitVec 4096
  use : Nat
  deriving DecidableEq, Repr

/-- A scale-table entry (R285): history slots hold FP32 bits. -/
structure ScEnt where
  hist : Tab (BitVec 32)
  cur : Nat
  curExc : Nat
  corr : Nat
  hptr : Nat
  head : Nat
  ceilEn : Bool
  touched : Bool
  rhi : Nat
  rlo : Nat
  deriving DecidableEq, Repr

/-- The entry of a table that a vat reset emptied (R37). -/
def ScEnt.empty : ScEnt := ⟨[], 0, 0, 0, 0, 0, false, false, 0, 0⟩

/-- A take-buffer entry (R221): the block's correct rind and whether tainted data was written (R220). -/
structure TakeEnt where
  rind : Nat
  taint : Bool
  deriving DecidableEq, Repr

/-- A signal on its way to a semaphore (R269–R275): `tc` 1 or 2 while it waits at the hub of the own package behind
transfer blocks (R271), `mark` the issue count of the store engine at its gate, `hub` whether its way to its target starts at the
hub. -/
structure Sig where
  id : Nat
  srcPkg : Nat
  src : Nat
  eng : Eng
  tgt : Nat
  sem : Nat
  n : Nat
  slate : Nat
  tc : Nat
  mark : Nat
  hub : Bool
  deriving DecidableEq, Repr

/-- A request that an engine has handed to the fabric and that has not reached its destination die (R28, R29, R34): engine,
flight number, address, traffic class. -/
structure FabReq where
  eng : Eng
  no : Nat
  addr : Nat
  tc : Nat
  deriving DecidableEq, Repr

/-- One physical core. `ldWait` is the fill line whose refetch the load engine waits for (R68), `spent` the count of an
engine's fabric credits not yet returned (R32), and `fab` lists the requests on their way to another die or to memory, oldest
first. `ccAt` is the issue cc of an engine's last entry (R60), `ccFree` the cc from which an engine's occupancy lets it issue
again (R242), `late` the results on their way, `lateCnt` the counts that land with them, `lateMx` the matrix ops about to
commit. `mxFree` is the cc from which a resource of the matrix engine is free (R144): 0–3 the streams, 4–7 the row paths, 8–11
the MX.OUT reads of the arrays, 12 the end and 13 the start of the throttle gap (R546); `mxStop` stops its issue after a first
mismatch (R150). `admitted` lists the arrays admitted to a new active region that their op has not begun (R548), `toneAt` the
cc up to which room tone is counted and `tapers` the tapers counted beyond it (R156, R157). `unsent` lists the requests of ops in
flight that no credit has sent yet, oldest first (R32). -/
structure Core where
  st : CoreSt
  halt : Nat
  hdr : Hdr
  fe : Fe
  s : Tab Word
  p : Tab Word
  v : Tab (BitVec 2048)
  qVe : List Entry
  qMx : List Entry
  qLd : List Entry
  qSt : List Entry
  qSy : List SyEnt
  lastIdx : Tab Nat
  lastSeq : Tab Nat
  ccAt : Tab Nat
  ccFree : Tab Nat
  late : List Late
  lateCnt : List LateCnt
  lateMx : List LateMx
  mxFree : Tab Nat
  mxStop : Bool
  admitted : List Nat
  toneAt : Nat
  tapers : List (Nat × Nat)
  issueNo : Nat
  gateNo : Nat
  flight : List Flight
  waits : List Waiter
  act : Tab WBuf
  sha : Tab WBuf
  acc : Tab (BitVec 2048)
  scr : Tab Byte
  scrT : Tab Bool
  fill : Tab FillLine
  refetch : List Nat
  ldWait : Option Nat
  rindBlk : Tab Bool
  ic : Tab IcLine
  tick : Nat
  sem : Tab (BitVec 16)
  sct : Tab ScEnt
  take : Tab TakeEnt
  held : List Sig
  spent : Tab Nat
  unsent : List FabReq
  fab : List FabReq
  deriving DecidableEq, Repr

/-- No header in force. -/
def Hdr.none : Hdr := ⟨false, 0, 0, 0, 0, 0, 100000, 0, 0⟩

/-- The front end at reset. -/
def Fe.init : Fe := ⟨0, 0, none, .free, none, none, 0, none, 0, 0⟩

/-- A core with every store at its reset value, in state `st`. -/
def Core.init (st : CoreSt) : Core :=
  { st := st, halt := 0, hdr := Hdr.none, fe := Fe.init, s := [], p := [], v := [], qVe := [], qMx := [], qLd := [],
    qSt := [], qSy := [], lastIdx := [], lastSeq := [], ccAt := [], ccFree := [], late := [], lateCnt := [], lateMx := [], mxFree := [], mxStop := false,
    admitted := [], toneAt := 0, tapers := [], issueNo := 0, gateNo := 1, flight := [], waits := [], act := [],
    sha := [], acc := [], scr := [], scrT := [], fill := [], refetch := [], ldWait := none, rindBlk := [], ic := [], tick := 0, sem := [], sct := [], take := [],
    held := [], spent := [], unsent := [], fab := [] }

end Sys2Proof.Machine
end

