-- ==== Sys2Proof/Machine/MemTypes.lean ====
section
/-! DEFINITION. The state of the memory side as plain data: vats, stack controllers, press units, layer-group
collectors (01, 09, 10, 11). -/
namespace Sys2Proof.Machine

/-- State of a vat (TOP_VAT_STATE.STATE). -/
inductive VatSt where
  | absent | boot | ready | quiesce | reset | scan | held
  deriving DecidableEq, Repr

def VatSt.code : VatSt → Nat
  | .absent => 0 | .boot => 1 | .ready => 2 | .quiesce => 3 | .reset => 4 | .scan => 5 | .held => 6

/-- An ST.PRESS op handed to a vat (R327): number, issuing core (logical ID and physical key), flight number, slate,
STEP_NO at dispatch, record address. -/
structure PressOp where
  no : Nat
  core : Nat
  phys : Nat
  flight : Nat
  slate : Nat
  step : Nat
  recA : Nat
  deriving DecidableEq, Repr

/-- An optimizer record as read (R328); floats as FP32 bits. -/
structure OptRec where
  opt : Nat
  whey : Bool
  nesterov : Bool
  digest : Bool
  gbf16 : Bool
  layer : Nat
  slices : Nat
  hi : Nat
  lo : Nat
  wheyA : Nat
  grad : Nat
  mom1 : Nat
  mom2 : Nat
  lr : Nat
  wd : Nat
  b1 : Nat
  b2 : Nat
  eps : Nat
  gscale : Nat
  bc1 : Nat
  bc2 : Nat
  deriving DecidableEq, Repr

/-- Sums of squares of one press unit, FP64 bits (R338). -/
structure Sums where
  w : Nat
  g : Nat
  u : Nat
  deriving DecidableEq, Repr

/-- One block's check values in an op digest (R342). -/
structure BlkDig where
  addr : Nat
  ce : Nat
  ci : Nat
  deriving DecidableEq, Repr

/-- The update a vat runs (R329–R342). -/
structure PressRun where
  op : PressOp
  r : OptRec
  discard : Bool
  done : List Nat
  sums : Tab Sums
  sat : Nat
  nfG : Nat
  nfW : Nat
  rindHeld : Bool
  nfLogged : Bool
  digs : List BlkDig
  deriving DecidableEq, Repr

/-- One entry of a vat's digest table (R342), in issue order. -/
structure DigEnt where
  step : Nat
  hi : Nat
  core : Nat
  ce : Nat
  ci : Nat
  deriving DecidableEq, Repr

/-- One vat. `frame` and `admits` are the last 64 cc frame of its die in which arrays were admitted, and how many (R548). -/
structure Vat where
  st : VatSt
  cause : Nat
  scan : Bool
  since : Nat
  ues : List Nat
  pressQ : List PressOp
  press : Option PressRun
  digs : List DigEnt
  verdict : Option (Nat × Bool)
  frame : Nat
  admits : Nat
  deriving DecidableEq, Repr

/-- A vat at reset. -/
def Vat.init : Vat := ⟨.absent, 0, false, 0, [], [], none, [], none, 0, 0⟩

/-- A digest combination that runs (R343): its step, the vat digests and the package digest. -/
structure DigRun where
  step : Nat
  vats : List (Nat × Nat × Nat)
  ce : Nat
  ci : Nat
  deriving DecidableEq, Repr

/-- A memory request in a pseudo-channel queue (R363, R364): `id` names the engine that sent it (R368), `op` the physical core
and the flight number of a load's, store's or atomic op's request, and `hit` says that a held one was counted in CAP_HITS. -/
structure MemReq where
  id : Nat
  kind : Nat
  write : Bool
  addr : Nat
  len : Nat
  rind : Bool
  slate : Nat
  since : Nat
  data : List Byte
  op : Option (Nat × Nat)
  hit : Bool
  deriving DecidableEq, Repr

/-- A tracked row (R359): bank, row, corrections, and the order of its latest correction. -/
structure RowTrk where
  bank : Nat
  row : Nat
  cnt : Nat
  last : Nat
  deriving DecidableEq, Repr

/-- One pseudo-channel: request queue, requests that the fabric holds (R368), write drain, token buckets with the time of their last refill (token parts of
1/1000), round-robin partition, tracked rows, rows under copy and retired rows (bank, row, number of the remap row), pin counts,
soft and hard row repairs, free repair lanes, soft and hard lane repairs, pins already
logged, and whether the full remap area was logged. -/
structure Pch where
  q : List MemReq
  held : List MemReq
  drain : Bool
  tokens : Tab Nat
  refill : Nat
  rr : Nat
  rows : List RowTrk
  rowTick : Nat
  copying : List (Nat × Nat × Nat)
  retired : List (Nat × Nat × Nat)
  pins : Tab Nat
  softRows : List (Nat × Nat)
  hardRows : List (Nat × Nat)
  laneFree : Nat
  softLanes : List Nat
  hardLanes : List Nat
  pinLog : List Nat
  fullLog : Bool
  deriving DecidableEq, Repr

/-- A pseudo-channel at reset. -/
def Pch.init : Pch := ⟨[], [], false, [], 0, 0, [], 0, [], [], [], [], [], 2, [], [], [], false⟩

/-- A repair operation running in a stack (R376). -/
structure Repair where
  op : Nat
  pch : Nat
  bank : Nat
  row : Nat
  lane : Nat
  deriving DecidableEq, Repr

/-- A close report (R295). -/
structure Report where
  core : Nat
  layer : Nat
  slate : Nat
  step : Nat
  ovf : Bool
  nf : Bool
  skip : Bool
  rank : Nat
  cOvf : Nat
  cNf : Nat
  cUnf : Nat
  cRng : Nat
  touched : List (Nat × Nat × Nat)
  group : Nat
  deriving DecidableEq, Repr

/-- The collector state of one layer group (R296, R301): the open round's layer and reports, held reports, and the
pending retake's layer, rank and rung. -/
structure LGroup where
  layer : Option Nat
  reports : List Report
  held : List Report
  pend : Bool
  pLayer : Nat
  pRank : Nat
  pRung : Nat
  deriving DecidableEq, Repr

def LGroup.init : LGroup := ⟨none, [], [], false, 0, 0, 0⟩

/-- A swap accepted and waiting for its point, or running (R85, R88): logical core, spare, whether the copy runs,
and the state that the spare takes. -/
structure SwapReq where
  logical : Nat
  spare : Nat
  running : Bool
  st : CoreSt
  deriving DecidableEq, Repr

/-- An outcome on its way to a member (R178, R298). -/
structure OutMsg where
  core : Nat
  layer : Nat
  word : Nat
  deriving DecidableEq, Repr

end Sys2Proof.Machine
end

