-- ==== Sys2Proof/Machine/HubTypes.lean ====
section
/-! DEFINITION. The state of the hub as plain data: pins and fuses, clapper, ports, collectives, roles, security, host
interface (12–19). -/
namespace Sys2Proof.Machine

/-- Pins and supplies: `supply` VIN and V1P8 in limits, inputs PWRGD, RESET_N, BRAKE_N and the outside levels of MGPIO2
and MGPIO3, outputs FAULT_N and THERMTRIP_N as asserted or not, the instruction of the TAP, 0 while it is held in Test-Logic-Reset, and what its data register captured
(R543–R555). -/
structure Pins where
  supply : Bool
  pwrgd : Bool
  resetN : Bool
  faultN : Bool
  thermtrip : Bool
  brakeLow : Bool
  m2 : Bool
  m3 : Bool
  jtag : Nat
  tdr : Nat
  deriving DecidableEq, Repr

/-- Fused values (R49, R509, R513) and the compute cores fused off, by physical key. -/
structure Fuse where
  grade : Nat
  vatMask : Nat
  guest : Bool
  minSvn : Nat
  serial : Nat
  rootHash : Nat
  devKey : Nat
  fusedOff : List Nat
  deriving DecidableEq, Repr

/-- The kinds of message a package sends: packets, acknowledgements, control and lead traffic, host replies. -/
inductive MsgKind where
  | signal | xfBlock | xfAck | xfRefuse | cxBlock | cxAck | cxRefuse | arrival | abort | refusal | identity | linkControl
  | clapRequest | clapReply | lossReport | takeover | contReport | order | sitout | rejoinState | rejoinBlock
  | rejoinTable
  | haltReport | poisonReport | vatReset | vatsReady | swapWanted | jobStop | vctReply | notice | forwardRecord
  | frame | advertise | doorbell | flitNak | flit | flitAck | flitSend | guestData | packet
  deriving DecidableEq, Repr

/-- A message the package sent: kind, destination, words. -/
structure Msg where
  kind : MsgKind
  dst : Nat
  words : List Nat
  deriving DecidableEq, Repr

/-- An open collective call (R413, R416, R428): its director, sequence number, latched mask, digest, descriptor fields
and the abort, if any: cause and whether this member raised it. -/
structure Call where
  core : Nat
  seq : Nat
  mask : Nat
  digest : Nat
  expect : Nat
  dst : Nat
  dstLen : Nat
  stg : Nat
  stgLen : Nat
  aborted : Bool
  cause : Nat
  raiser : Bool
  deriving DecidableEq, Repr

/-- What the recorder keeps of the group's last call (R431): sequence number, mask, whether its record was
written, and whether an abort of it was raised or received (R429). -/
structure LateRec where
  seq : Nat
  mask : Nat
  written : Bool
  raised : Bool
  deriving DecidableEq, Repr

/-- An arrival message that names the group's next call (R431): sender, digest, time. -/
structure Arrival where
  src : Nat
  digest : Nat
  time : Nat
  deriving DecidableEq, Repr

/-- The blocks of one ST.CX that arrived (R423): sending package and core, op number, how many, and whether one was not
written. -/
structure CxRun where
  src : Nat
  core : Nat
  no : Nat
  got : Nat
  broken : Bool
  deriving DecidableEq, Repr

/-- A collective group beyond its registers: the open call, the digest of the first early block with its sender and the
deliveries already counted toward the next call (R422), the abort that already names SEQ_NEXT as 2 × cause + raiser
(R429), the ST.CX now arriving, the recorder's record, and the arrivals for the next call. -/
structure CollGrp where
  call : Option Call
  early : Option (Nat × Nat)
  earlyN : Nat
  mark : Option Nat
  cx : Option CxRun
  late : Option LateRec
  soon : List Arrival
  deriving DecidableEq, Repr

def CollGrp.init : CollGrp := ⟨none, none, 0, none, none, none, []⟩

/-! ### Links (12) -/

/-- A flit that waits for a port or is kept until it is acknowledged (R382, R387, R395, R397): sequence number, traffic class,
virtual channel, the credits it returns, source and destination package, source core and engine (8 × core + engine), the
number of its packet, the block of a collective or transfer packet as core, flight number and destination address, and the
payload. -/
structure Flit where
  seq : Nat
  tc : Nat
  vc : Nat
  cred : Nat
  src : Nat
  dst : Nat
  eng : Nat
  pkt : Nat
  blk : Option (Nat × Nat × Nat)
  payload : List Byte
  deriving DecidableEq, Repr

/-- A port beyond its registers: sequence number awaited, one past the newest seen, whether its replay was asked for, and the
number next to send (R382); flits that wait to be sent and flits kept until acknowledged; how many replays of the awaited flit
failed (R383); corrected symbols of each lane
in its 1 ms window and the number of the window (R384); failed lanes that wait for their switch, as direction, lane and
window, and the lanes out of use in each direction (R385, R386); the round robin's class and what is left of its turn (R400);
for 8 × class + virtual channel, credits spent and credits to give back (R399); the TC0 bucket in 1/50 bytes with the time of
its last refill; the state the guest die reported (0 none), the width adopted from it, and whether training waits for a report
only (R405, R406); the rate codes and the protocol version of the partner's identity block (R388). -/
structure Port where
  rxSeq : Nat
  rxTop : Nat
  asked : Bool
  txSeq : Nat
  out : List Flit
  kept : List Flit
  fails : Nat
  win : Tab Nat
  winNo : Nat
  late : List (Nat × Nat × Nat)
  rxOut : Nat
  txOut : Nat
  turn : Nat
  left : Nat
  spent : Tab Nat
  owed : Tab Nat
  tokens : Nat
  refill : Nat
  guest : Nat
  cap : Nat
  ready : Bool
  partner : Option (Nat × Nat)
  deriving DecidableEq, Repr

/-- A port at reset; its TC0 bucket is full. -/
def Port.init : Port := ⟨0, 0, false, 0, [], [], 0, [], 0, [], 0, 0, 0, 0, [], [], 819200, 0, 0, 0, false, none⟩

/-- The ports, the drops counted towards the one record per 1,000 (R396, R397), and the number of the next packet. -/
structure Net where
  ports : Tab Port
  noEntry : Nat
  hopDrops : Nat
  pktNo : Nat
  deriving DecidableEq, Repr

def Net.init : Net := ⟨[], 0, 0, 0⟩

/-! ### Die-to-die edges (01) -/

/-- A flit as received that failed its CRC (R22): the number of the replay awaited, the module on whose lanes it came and the
number it had there, its bytes. -/
structure BadFlit where
  no : Nat
  mod : Nat
  sent : Nat
  flit : List Byte
  deriving DecidableEq, Repr

/-- One receiving end of a die-to-die module and the sender's replay buffer toward it (R19, R21–R23, R29): the number of the
flit awaited; the flits kept until acknowledged and those received ahead of their turn, by number, as credits and payload;
the next number given out; the flits that failed their CRC and were not yet replayed well; the
credits that headers returned, by traffic class; the payloads delivered, in order. -/
structure D2dEnd where
  rx : Nat
  kept : Tab (Nat × List Byte)
  next : Nat
  bads : List BadFlit
  ahead : Tab (Nat × List Byte)
  cred : Tab Nat
  got : List (List Byte)
  deriving DecidableEq, Repr

def D2dEnd.init : D2dEnd := ⟨0, [], 0, [], [], [], []⟩

/-- A module of an edge (R19–R26): MOD_STATE code, the width code it takes when a retrain ends, the half in use when HALF
(1 for lanes 32–63), its two receiving ends. -/
structure D2dMod where
  st : Nat
  want : Nat
  half : Nat
  e0 : D2dEnd
  e1 : D2dEnd
  deriving DecidableEq, Repr

/-- A module at reset: TRAINING. -/
def D2dMod.init : D2dMod := ⟨3, 0, 0, D2dEnd.init, D2dEnd.init⟩

/-! ### Membership (14) -/

/-- The membership orders of R448. -/
inductive OrdKind where
  | expel | sitout | rejoin | stop
  deriving DecidableEq, Repr

/-- A membership order as received: kind, replica, effective step E or J, immediate or not (R451), what it names (an
expel order: package and vats to scan; a rejoin order: package and donor), the cave blocks a rejoining package asks of its
donor (R472), whether its application began here, and the groups whose masks it has changed. An immediate order carries the
step from which it was in force here (R447, R451). -/
structure Order where
  kind : OrdKind
  replica : Nat
  step : Nat
  imm : Bool
  pairs : List (Nat × Nat)
  blocks : List (Nat × Nat)
  logged : Bool
  done : List Nat
  deriving DecidableEq, Repr

/-! ### Clapper, roles and continuity (14, 16) -/

/-- A child in the clapper tree, or a package that exchanges heartbeats, as its parent knows it (R441, R449, R490): time of
its latest request, STEP_NO and HEARTBEAT in it, since when HEARTBEAT stands, and whether it is declared lost. -/
structure Child where
  seen : Nat
  step : Nat
  beat : Nat
  beatAt : Nat
  lost : Bool
  deriving DecidableEq, Repr

/-- A check report (R446): package, INCOMPLETE, lowest STEP_NO, package digest, digest CE of each vat. -/
structure ContRep where
  pkg : Nat
  incomplete : Bool
  low : Nat
  ce : Nat
  ci : Nat
  vce : List Nat
  deriving DecidableEq, Repr

/-- The reports of a check step at the top lead, with the time of the first. -/
structure Check where
  step : Nat
  first : Nat
  reps : List ContRep
  deriving DecidableEq, Repr

/-- A rejoin that the top lead ordered (R453): replica, step J, donors. -/
structure Rejoin where
  replica : Nat
  step : Nat
  donors : List Nat
  deriving DecidableEq, Repr

/-- The own package's rejoin: step J, donor, whether the donor's state is written, whether the cores were started. -/
structure Joining where
  step : Nat
  donor : Nat
  ready : Bool
  started : Bool
  deriving DecidableEq, Repr

/-- A rejoin that the own package is donor of: step J, rejoining package, SEQ_NEXT of groups at the boundary of their
director into J, cave blocks asked for, whether the copy was sent. -/
structure Donation where
  step : Nat
  taker : Nat
  seqs : List (Nat × Nat)
  blocks : List Nat
  sent : Bool
  deriving DecidableEq, Repr

/-- Clapper, roles and continuity beyond the registers: t1 of the request that awaits its reply, unanswered requests in a
row, time of the last period; the same for the heartbeat with the top lead; whether a new parent has not replied yet; the
epochs of the takeovers that gave the present top and wheel leads (R443); when HOLDOVER began, whether code 0x4034 was
logged; ns to slew and the hub cycles since the last correction (R436); the children; when firmware last restarted the
supervisor timer; the STEP_NO at which the package's cores began to run, the check step whose digests are combined, the last
one started; checks open at the top lead, the last
one decided, rejoins under way, replicas out for the rest of the job, packages of replicas out that reported READY with the
cave blocks they ask for; the own package's rejoin, its donations, the vats to reset (bits 3:0; bit 4: with a scan), whether it reported READY; halts collected
(R477) with the time of the first, and whether a watchdog decision was made; whether a poison stop was ordered. -/
structure Lead where
  t1 : Option Nat
  missed : Nat
  sentAt : Nat
  top1 : Bool
  topMissed : Nat
  newPar : Bool
  topEpoch : Nat
  leadEpoch : Nat
  holdAt : Nat
  leaderless : Bool
  slew : Int
  phase : Nat
  kids : Tab Child
  beatAt : Nat
  first : Nat
  own : Option Nat
  last : Option Nat
  checks : List Check
  decided : Option Nat
  rejoins : List Rejoin
  dead : List Nat
  ready : List (Nat × List Nat)
  join : Option Joining
  donate : List Donation
  scans : Nat
  told : Bool
  wdog : Option (Nat × List (Nat × Nat))
  wdogged : Bool
  poisoned : Bool
  deriving DecidableEq, Repr

def Lead.init : Lead :=
  { t1 := none, missed := 0, sentAt := 0, top1 := false, topMissed := 0, newPar := false, topEpoch := 0, leadEpoch := 0, holdAt := 0, leaderless := false, slew := 0,
    phase := 0, kids := [], beatAt := 0, first := 0, own := none, last := none, checks := [], decided := none, rejoins := [], dead := [],
    ready := [], join := none, donate := [], scans := 0, told := false, wdog := none, wdogged := false, poisoned := false }

/-- A duty of firmware that a message brings: a takeover, a check report, an order, the reports and requests to the leads, the donor's
state and copy, forwarded records (R488). -/
inductive Duty where
  | takeover (src epoch : Nat) (top : Bool)
  | contReport (step : Nat) (rep : ContRep)
  | order (src epoch : Nat) (o : Order)
  | sitout (pkg vats : Nat) (scan : Bool)
  | swapWanted (pkg : Nat) (spare : Bool)
  | loss (pkg : Nat)
  | vatReset (pkg cause : Nat)
  | vatsReady (pkg : Nat) (ok : Bool) (blocks : List Nat)
  | wdogHalt (pkg core : Nat)
  | poison (pkg : Nat)
  | rejoinState (src step loss samples : Nat) (seqs : List Nat)
  | rejoinCopy (ok : Bool) (blocks : List XBlk)
  | forwarded (src fifo lost : Nat) (words : List Word)
  deriving DecidableEq, Repr

/-! ### Flash, boot, security engine, gaffer (17–19) -/

/-- The flash and what the manufacture region holds (R509, R520, R521): size in MiB; whether it answers SFDP and offers
8D-8D-8D; the Verpin root key's modulus; the identity key's modulus and its private key, wrapped under the device-unique key; the
two certificates; its bytes, 0xFF where nothing was written. -/
structure Flash where
  mib : Nat
  ok : Bool
  rootN : Nat
  idN : Nat
  idWrap : List Byte
  idCert : List Byte
  caCert : List Byte
  bytes : Tab Byte
  deriving DecidableEq, Repr

/-- A flash with nothing written. -/
def Flash.blank : Flash := ⟨256, true, 0, 0, [], [], [], []⟩

/-- Boot and management firmware beyond the registers: clapper time of RESET_N release, running image (0 A, 1 B), events
found before firmware ran as code, DETAIL and time (R540), whether the active scan library is valid with its slot and
length, the continuity map (R530), whether the processor restarts, the duties held meanwhile in their order of arrival, where the last restart took
firmware from (0 none yet, 1 the copy in vat 0, 2 the flash) (R488), when the present restart window began (R489), whether the late clock was
logged (R538). -/
structure Boot where
  t0 : Int
  image : Option Nat
  early : List (Nat × Nat × Nat)
  lib : Option (Nat × Nat)
  map : Tab Nat
  hasMap : Bool
  restarting : Bool
  held : List Duty
  source : Nat
  winStart : Nat
  lateLog : Bool
  deriving DecidableEq, Repr

def Boot.init : Boot := ⟨0, none, [], none, [], false, false, [], 0, 0, false⟩

/-- A VCT message in the command queue (R496, R498): Ethernet port, IP version 6, source address and UDP port, header
bytes, payload, tag, whether its checks are done (R512), and the source MAC address. -/
structure VctCmd where
  port : Nat
  v6 : Bool
  ip : Nat
  udp : Nat
  hdr : List Byte
  payload : List Byte
  tag : List Byte
  checked : Bool
  mac : Nat
  deriving DecidableEq, Repr

/-- The telemetry subscription (R502). -/
structure Sub where
  v6 : Bool
  ip : Nat
  udp : Nat
  mac : Nat
  port : Nat
  viaLead : Bool
  fifos : Nat
  deriving DecidableEq, Repr

/-- The security engine: owner key modulus (0 none), command key, measurements of firmware, configuration, scan library,
owner certificate and identity certificate (R514), reports signed since RESET_N, command queue, drops of each reason and
firewall refusals counted towards the one record per 1,000, subscription, next notice number, records each FIFO
dropped since its last group, the FIFOs whose IRQ the latest crossing set (R570), and the next place in `loads`: header address and rejoin entry that the last accepted LOAD gave each core
(R506). -/
structure Sec where
  ownerN : Nat
  cmdKey : Option Nat
  fwMeas : Nat
  cfgMeas : Nat
  scanMeas : Nat
  ownMeas : Nat
  idMeas : Nat
  signed : Nat
  queue : List VctCmd
  dropN : Tab Nat
  refused : Nat
  sub : Option Sub
  notices : Nat
  lostAt : Tab Nat
  raised : List Nat
  loads : Tab (Nat × Nat)
  deriving DecidableEq, Repr

def Sec.init : Sec := ⟨0, none, 0, 0, 0, 0, 0, 0, [], [], 0, none, 0, [], [], []⟩

/-- The gaffer (R545–R549, R556): power samples in W, newest first, at most 100,000; the power and thermal terms; samples
in a row that allow each to fall; when L rose from 0; sensors at or above their limit (16 × die + sensor; die 4 the
hub, 5 the stacks); sum and number
of the hottest-junction readings; µs with L above 0 not yet counted. -/
structure Pow where
  samples : List Nat
  power : Nat
  thermal : Nat
  calm : Nat
  cool : Nat
  since : Option Nat
  warned : List Nat
  tjSum : Nat
  tjN : Nat
  deriving DecidableEq, Repr

def Pow.init : Pow := ⟨[], 0, 0, 0, 0, none, [], 0, 0⟩

end Sys2Proof.Machine
end

