-- ==== Sys2Proof/Machine/Regs.lean ====
section
/-! DEFINITION. The control and status registers: their offsets, instances and fields, as the register tables and the
register index (R558) give them. A field whose Reset is CFG carries the default of its table (R533); see the assumption log. -/
namespace Sys2Proof.Machine

/-- The access types (R11). -/
inductive Acc where
  | ro | rw | wo | w1c | rc
  deriving DecidableEq, Repr

/-- The registers of the CSR space, by the names of the register index; PRESS_ZERO and GAFF_ZERO are the two offsets
that it lists as reading 0. -/
inductive Reg where
  | TOP_ID
  | TOP_CAPS_HUB
  | TOP_CAPS_GX0
  | TOP_CAPS_GX1
  | TOP_CAPS_GX2
  | TOP_CAPS_GX3
  | TOP_CAPS_EFF
  | TOP_VAT_STATE
  | TOP_VAT_RESET
  | CFG_BOOT
  | CFG_REC
  | CFG_STAT
  | CFG_DIR
  | CFG_FLASH
  | SEC_BOOT
  | SEC_SERIAL
  | SEC_CTR
  | SEC_STATE
  | SEC_DROP
  | SEC_NOTICE
  | SEC_GUEST
  | ETH_SEL
  | ETH_PORT_CFG
  | ETH_STATUS
  | ETH_NET
  | ETH_IP6_HI
  | ETH_IP6_LO
  | ETH_STAT
  | PORT_SEL
  | PORT_CFG
  | PORT_ID
  | PORT_STATUS
  | PORT_LANE_ERR
  | PORT_ERR
  | PORT_TC_STAT
  | PORT_TCW
  | PORT_RT_IDX
  | PORT_RT_DATA
  | PORT_RT_STAT
  | PORT_GUEST
  | D2D_SEL
  | D2D_CFG
  | D2D_STATUS
  | D2D_LANE_ERR
  | D2D_REPLAY_CNT
  | MC_SEL
  | MC_MODE
  | MC_PART_MAP
  | MC_BUCKET0
  | MC_BUCKET1
  | MC_BUCKET2
  | MC_BUCKET3
  | MC_BUCKET4
  | MC_BUCKET5
  | MC_BUCKET6
  | MC_BUCKET7
  | MC_CAVE0
  | MC_CAVE1
  | MC_CAVE2
  | MC_CAVE3
  | MC_CAVE_STAT
  | MC_ERR
  | MC_ERR_CFG
  | MC_REMAP
  | MC_LANE
  | MC_BANK_STAT
  | MC_MAINT
  | MC_REPAIR
  | MC_REPAIR_STAT
  | MC_CELLAR_ERR
  | PRESS_ZERO
  | PRESS_CFG
  | PRESS_STAT
  | PRESS_STAT2
  | PRESS_QUEUE
  | PRESS_DIG_CTL
  | PRESS_DIG_STEP
  | PRESS_DIG_CE
  | PRESS_DIG_CI
  | PRESS_VDIG_CE
  | PRESS_VDIG_CI
  | CORE_SEL
  | CORE_STATE
  | CORE_QP0
  | CORE_QP1
  | CORE_QP2
  | CORE_FAULT
  | CORE_FAULT_CFG
  | CORE_SWAP
  | CORE_TC_STAT
  | CORE_TC_CFG
  | CORE_CVT_CNT0
  | CORE_CVT_CNT1
  | CORE_CVT_FLAGS
  | CORE_MX_STAT
  | CORE_MX_FAULT
  | CORE_MX_TONE
  | CORE_MX_TAINT
  | CORE_IFAULT
  | CORE_STEP
  | CORE_BRACKET
  | CORE_RIND_STAT
  | CORE_TAKE
  | CORE_XF_STAT
  | CORE_VE_STAT
  | CORE_VE_TAINT
  | CORE_SY_STAT
  | CORE_WDOG
  | CORE_NUM_CNT
  | CORE_NUM_BRK0
  | CORE_NUM_BRK1
  | CORE_NUM_BRK2
  | CORE_SCT_IDX
  | CORE_SEM0
  | CORE_SEM1
  | CORE_SEM2
  | CORE_SEM3
  | CORE_SEM4
  | CORE_SEM5
  | CORE_SEM6
  | CORE_SEM7
  | CORE_SEM8
  | CORE_SEM9
  | CORE_SEM10
  | CORE_SEM11
  | CORE_SEM12
  | CORE_SEM13
  | CORE_SEM14
  | CORE_SEM15
  | CORE_SCT_DATA
  | CLAP_TIME
  | CLAP_CFG
  | CLAP_STAT
  | CLAP_ROLE
  | CLAP_ROLE_CFG
  | CLAP_CONT_CFG
  | CLAP_CONT_SELF
  | CLAP_CONT_RGRP
  | CLAP_CONT_RLIST
  | CLAP_CONT_STATE
  | CLAP_CONT_LAST
  | CLAP_CONT_STAT
  | GAFF_ZERO
  | GAFF_CFG
  | GAFF_POWER
  | GAFF_THR_STAT
  | GAFF_TEMP_CFG
  | GAFF_TEMP
  | GAFF_TJ_AVG
  | GAFF_GPIO
  | LOG_SEL
  | LOG_FIFO_CFG
  | LOG_FIFO_STAT
  | LOG_FIFO_DATA
  | LOG_TRACE_CFG
  | LOG_TRACE_CTL
  | LOG_TRACE_PTR
  | COLL_SEL
  | COLL_GRP_CFG
  | COLL_GRP_MEMBER
  | COLL_GRP_ACTIVE0
  | COLL_GRP_ACTIVE1
  | COLL_GRP_ACTIVE2
  | COLL_GRP_ACTIVE3
  | COLL_GRP_STATE
  | COLL_GRP_DIGEST
  | COLL_LATE
  | COLL_CFG
  | COLL_STAT
  | REL_SEL
  | REL_CFG
  | REL_STAT
  | REL_UE
  | REL_SCAN
  | REL_SUP
  | NUM_GRP_SEL
  | NUM_GRP_DIR
  | NUM_GRP_MASK0
  | NUM_GRP_MASK1
  | NUM_GRP_MASK2
  | NUM_GRP_MASK3
  | NUM_GRP_MASK4
  | NUM_GRP_MASK5
  | NUM_TCFG_ADDR
  | NUM_LOSS_CFG
  | NUM_LOSS_STATE
  | NUM_LOSS_STAT
  | NUM_LOSS_STEP
  | NUM_STAT
  | NUM_LOSS_SAMPLES
  | FW_BUILD
  | FW_REJECT
  deriving DecidableEq, Repr

/-- Offset within the CSR space (R558). -/
def Reg.off : Reg → Nat
  | .TOP_ID => 0x000000
  | .TOP_CAPS_HUB => 0x000008
  | .TOP_CAPS_GX0 => 0x000010
  | .TOP_CAPS_GX1 => 0x000018
  | .TOP_CAPS_GX2 => 0x000020
  | .TOP_CAPS_GX3 => 0x000028
  | .TOP_CAPS_EFF => 0x000030
  | .TOP_VAT_STATE => 0x000038
  | .TOP_VAT_RESET => 0x000040
  | .CFG_BOOT => 0x010000
  | .CFG_REC => 0x010008
  | .CFG_STAT => 0x010010
  | .CFG_DIR => 0x010018
  | .CFG_FLASH => 0x010020
  | .SEC_BOOT => 0x020000
  | .SEC_SERIAL => 0x020008
  | .SEC_CTR => 0x020010
  | .SEC_STATE => 0x020018
  | .SEC_DROP => 0x020020
  | .SEC_NOTICE => 0x020028
  | .SEC_GUEST => 0x020030
  | .ETH_SEL => 0x030000
  | .ETH_PORT_CFG => 0x030008
  | .ETH_STATUS => 0x030010
  | .ETH_NET => 0x030018
  | .ETH_IP6_HI => 0x030020
  | .ETH_IP6_LO => 0x030028
  | .ETH_STAT => 0x030030
  | .PORT_SEL => 0x040000
  | .PORT_CFG => 0x040008
  | .PORT_ID => 0x040010
  | .PORT_STATUS => 0x040018
  | .PORT_LANE_ERR => 0x040020
  | .PORT_ERR => 0x040028
  | .PORT_TC_STAT => 0x040030
  | .PORT_TCW => 0x040038
  | .PORT_RT_IDX => 0x040040
  | .PORT_RT_DATA => 0x040048
  | .PORT_RT_STAT => 0x040050
  | .PORT_GUEST => 0x040058
  | .D2D_SEL => 0x050000
  | .D2D_CFG => 0x050008
  | .D2D_STATUS => 0x050010
  | .D2D_LANE_ERR => 0x050018
  | .D2D_REPLAY_CNT => 0x050020
  | .MC_SEL => 0x060000
  | .MC_MODE => 0x060008
  | .MC_PART_MAP => 0x060010
  | .MC_BUCKET0 => 0x060018
  | .MC_BUCKET1 => 0x060020
  | .MC_BUCKET2 => 0x060028
  | .MC_BUCKET3 => 0x060030
  | .MC_BUCKET4 => 0x060038
  | .MC_BUCKET5 => 0x060040
  | .MC_BUCKET6 => 0x060048
  | .MC_BUCKET7 => 0x060050
  | .MC_CAVE0 => 0x060058
  | .MC_CAVE1 => 0x060060
  | .MC_CAVE2 => 0x060068
  | .MC_CAVE3 => 0x060070
  | .MC_CAVE_STAT => 0x060078
  | .MC_ERR => 0x060080
  | .MC_ERR_CFG => 0x060088
  | .MC_REMAP => 0x060090
  | .MC_LANE => 0x060098
  | .MC_BANK_STAT => 0x0600A0
  | .MC_MAINT => 0x0600A8
  | .MC_REPAIR => 0x0600B0
  | .MC_REPAIR_STAT => 0x0600B8
  | .MC_CELLAR_ERR => 0x0600C0
  | .PRESS_ZERO => 0x070000
  | .PRESS_CFG => 0x070008
  | .PRESS_STAT => 0x070010
  | .PRESS_STAT2 => 0x070018
  | .PRESS_QUEUE => 0x070020
  | .PRESS_DIG_CTL => 0x070028
  | .PRESS_DIG_STEP => 0x070030
  | .PRESS_DIG_CE => 0x070038
  | .PRESS_DIG_CI => 0x070040
  | .PRESS_VDIG_CE => 0x070048
  | .PRESS_VDIG_CI => 0x070050
  | .CORE_SEL => 0x080000
  | .CORE_STATE => 0x080008
  | .CORE_QP0 => 0x080010
  | .CORE_QP1 => 0x080018
  | .CORE_QP2 => 0x080020
  | .CORE_FAULT => 0x080028
  | .CORE_FAULT_CFG => 0x080030
  | .CORE_SWAP => 0x080038
  | .CORE_TC_STAT => 0x080040
  | .CORE_TC_CFG => 0x080048
  | .CORE_CVT_CNT0 => 0x080050
  | .CORE_CVT_CNT1 => 0x080058
  | .CORE_CVT_FLAGS => 0x080060
  | .CORE_MX_STAT => 0x080068
  | .CORE_MX_FAULT => 0x080070
  | .CORE_MX_TONE => 0x080078
  | .CORE_MX_TAINT => 0x080080
  | .CORE_IFAULT => 0x080088
  | .CORE_STEP => 0x080090
  | .CORE_BRACKET => 0x080098
  | .CORE_RIND_STAT => 0x0800A0
  | .CORE_TAKE => 0x0800A8
  | .CORE_XF_STAT => 0x0800B0
  | .CORE_VE_STAT => 0x0800B8
  | .CORE_VE_TAINT => 0x0800C0
  | .CORE_SY_STAT => 0x0800C8
  | .CORE_WDOG => 0x0800D0
  | .CORE_NUM_CNT => 0x0800D8
  | .CORE_NUM_BRK0 => 0x0800E0
  | .CORE_NUM_BRK1 => 0x0800E8
  | .CORE_NUM_BRK2 => 0x0800F0
  | .CORE_SCT_IDX => 0x0800F8
  | .CORE_SEM0 => 0x080100
  | .CORE_SEM1 => 0x080108
  | .CORE_SEM2 => 0x080110
  | .CORE_SEM3 => 0x080118
  | .CORE_SEM4 => 0x080120
  | .CORE_SEM5 => 0x080128
  | .CORE_SEM6 => 0x080130
  | .CORE_SEM7 => 0x080138
  | .CORE_SEM8 => 0x080140
  | .CORE_SEM9 => 0x080148
  | .CORE_SEM10 => 0x080150
  | .CORE_SEM11 => 0x080158
  | .CORE_SEM12 => 0x080160
  | .CORE_SEM13 => 0x080168
  | .CORE_SEM14 => 0x080170
  | .CORE_SEM15 => 0x080178
  | .CORE_SCT_DATA => 0x080180
  | .CLAP_TIME => 0x090000
  | .CLAP_CFG => 0x090008
  | .CLAP_STAT => 0x090010
  | .CLAP_ROLE => 0x090018
  | .CLAP_ROLE_CFG => 0x090020
  | .CLAP_CONT_CFG => 0x090028
  | .CLAP_CONT_SELF => 0x090030
  | .CLAP_CONT_RGRP => 0x090038
  | .CLAP_CONT_RLIST => 0x090040
  | .CLAP_CONT_STATE => 0x090048
  | .CLAP_CONT_LAST => 0x090050
  | .CLAP_CONT_STAT => 0x090058
  | .GAFF_ZERO => 0x0A0000
  | .GAFF_CFG => 0x0A0008
  | .GAFF_POWER => 0x0A0010
  | .GAFF_THR_STAT => 0x0A0018
  | .GAFF_TEMP_CFG => 0x0A0020
  | .GAFF_TEMP => 0x0A0028
  | .GAFF_TJ_AVG => 0x0A0030
  | .GAFF_GPIO => 0x0A0038
  | .LOG_SEL => 0x0B0000
  | .LOG_FIFO_CFG => 0x0B0008
  | .LOG_FIFO_STAT => 0x0B0010
  | .LOG_FIFO_DATA => 0x0B0018
  | .LOG_TRACE_CFG => 0x0B0020
  | .LOG_TRACE_CTL => 0x0B0028
  | .LOG_TRACE_PTR => 0x0B0030
  | .COLL_SEL => 0x0C0000
  | .COLL_GRP_CFG => 0x0C0008
  | .COLL_GRP_MEMBER => 0x0C0010
  | .COLL_GRP_ACTIVE0 => 0x0C0018
  | .COLL_GRP_ACTIVE1 => 0x0C0020
  | .COLL_GRP_ACTIVE2 => 0x0C0028
  | .COLL_GRP_ACTIVE3 => 0x0C0030
  | .COLL_GRP_STATE => 0x0C0038
  | .COLL_GRP_DIGEST => 0x0C0040
  | .COLL_LATE => 0x0C0048
  | .COLL_CFG => 0x0C0050
  | .COLL_STAT => 0x0C0058
  | .REL_SEL => 0x0D0000
  | .REL_CFG => 0x0D0008
  | .REL_STAT => 0x0D0010
  | .REL_UE => 0x0D0018
  | .REL_SCAN => 0x0D0020
  | .REL_SUP => 0x0D0028
  | .NUM_GRP_SEL => 0x0E0000
  | .NUM_GRP_DIR => 0x0E0008
  | .NUM_GRP_MASK0 => 0x0E0010
  | .NUM_GRP_MASK1 => 0x0E0018
  | .NUM_GRP_MASK2 => 0x0E0020
  | .NUM_GRP_MASK3 => 0x0E0028
  | .NUM_GRP_MASK4 => 0x0E0030
  | .NUM_GRP_MASK5 => 0x0E0038
  | .NUM_TCFG_ADDR => 0x0E0040
  | .NUM_LOSS_CFG => 0x0E0048
  | .NUM_LOSS_STATE => 0x0E0050
  | .NUM_LOSS_STAT => 0x0E0058
  | .NUM_LOSS_STEP => 0x0E0060
  | .NUM_STAT => 0x0E0068
  | .NUM_LOSS_SAMPLES => 0x0E0070
  | .FW_BUILD => 0x0F0000
  | .FW_REJECT => 0x0F0008

/-- Does the register act through its block's select register? -/
def Reg.selected : Reg → Bool
  | .TOP_ID => false
  | .TOP_CAPS_HUB => false
  | .TOP_CAPS_GX0 => false
  | .TOP_CAPS_GX1 => false
  | .TOP_CAPS_GX2 => false
  | .TOP_CAPS_GX3 => false
  | .TOP_CAPS_EFF => false
  | .TOP_VAT_STATE => false
  | .TOP_VAT_RESET => false
  | .CFG_BOOT => false
  | .CFG_REC => false
  | .CFG_STAT => false
  | .CFG_DIR => false
  | .CFG_FLASH => false
  | .SEC_BOOT => false
  | .SEC_SERIAL => false
  | .SEC_CTR => false
  | .SEC_STATE => false
  | .SEC_DROP => false
  | .SEC_NOTICE => false
  | .SEC_GUEST => false
  | .ETH_SEL => false
  | .ETH_PORT_CFG => true
  | .ETH_STATUS => true
  | .ETH_NET => false
  | .ETH_IP6_HI => false
  | .ETH_IP6_LO => false
  | .ETH_STAT => true
  | .PORT_SEL => false
  | .PORT_CFG => false
  | .PORT_ID => false
  | .PORT_STATUS => true
  | .PORT_LANE_ERR => true
  | .PORT_ERR => true
  | .PORT_TC_STAT => true
  | .PORT_TCW => false
  | .PORT_RT_IDX => false
  | .PORT_RT_DATA => false
  | .PORT_RT_STAT => false
  | .PORT_GUEST => false
  | .D2D_SEL => false
  | .D2D_CFG => false
  | .D2D_STATUS => true
  | .D2D_LANE_ERR => true
  | .D2D_REPLAY_CNT => true
  | .MC_SEL => true
  | .MC_MODE => true
  | .MC_PART_MAP => true
  | .MC_BUCKET0 => true
  | .MC_BUCKET1 => true
  | .MC_BUCKET2 => true
  | .MC_BUCKET3 => true
  | .MC_BUCKET4 => true
  | .MC_BUCKET5 => true
  | .MC_BUCKET6 => true
  | .MC_BUCKET7 => true
  | .MC_CAVE0 => true
  | .MC_CAVE1 => true
  | .MC_CAVE2 => true
  | .MC_CAVE3 => true
  | .MC_CAVE_STAT => true
  | .MC_ERR => true
  | .MC_ERR_CFG => false
  | .MC_REMAP => true
  | .MC_LANE => true
  | .MC_BANK_STAT => true
  | .MC_MAINT => true
  | .MC_REPAIR => true
  | .MC_REPAIR_STAT => true
  | .MC_CELLAR_ERR => true
  | .PRESS_ZERO => false
  | .PRESS_CFG => false
  | .PRESS_STAT => true
  | .PRESS_STAT2 => true
  | .PRESS_QUEUE => true
  | .PRESS_DIG_CTL => false
  | .PRESS_DIG_STEP => false
  | .PRESS_DIG_CE => false
  | .PRESS_DIG_CI => false
  | .PRESS_VDIG_CE => true
  | .PRESS_VDIG_CI => true
  | .CORE_SEL => true
  | .CORE_STATE => true
  | .CORE_QP0 => true
  | .CORE_QP1 => true
  | .CORE_QP2 => true
  | .CORE_FAULT => true
  | .CORE_FAULT_CFG => false
  | .CORE_SWAP => false
  | .CORE_TC_STAT => true
  | .CORE_TC_CFG => true
  | .CORE_CVT_CNT0 => true
  | .CORE_CVT_CNT1 => true
  | .CORE_CVT_FLAGS => true
  | .CORE_MX_STAT => true
  | .CORE_MX_FAULT => true
  | .CORE_MX_TONE => true
  | .CORE_MX_TAINT => true
  | .CORE_IFAULT => true
  | .CORE_STEP => true
  | .CORE_BRACKET => true
  | .CORE_RIND_STAT => true
  | .CORE_TAKE => true
  | .CORE_XF_STAT => true
  | .CORE_VE_STAT => true
  | .CORE_VE_TAINT => true
  | .CORE_SY_STAT => true
  | .CORE_WDOG => true
  | .CORE_NUM_CNT => true
  | .CORE_NUM_BRK0 => true
  | .CORE_NUM_BRK1 => true
  | .CORE_NUM_BRK2 => true
  | .CORE_SCT_IDX => true
  | .CORE_SEM0 => true
  | .CORE_SEM1 => true
  | .CORE_SEM2 => true
  | .CORE_SEM3 => true
  | .CORE_SEM4 => true
  | .CORE_SEM5 => true
  | .CORE_SEM6 => true
  | .CORE_SEM7 => true
  | .CORE_SEM8 => true
  | .CORE_SEM9 => true
  | .CORE_SEM10 => true
  | .CORE_SEM11 => true
  | .CORE_SEM12 => true
  | .CORE_SEM13 => true
  | .CORE_SEM14 => true
  | .CORE_SEM15 => true
  | .CORE_SCT_DATA => true
  | .CLAP_TIME => false
  | .CLAP_CFG => false
  | .CLAP_STAT => false
  | .CLAP_ROLE => false
  | .CLAP_ROLE_CFG => false
  | .CLAP_CONT_CFG => false
  | .CLAP_CONT_SELF => false
  | .CLAP_CONT_RGRP => false
  | .CLAP_CONT_RLIST => false
  | .CLAP_CONT_STATE => false
  | .CLAP_CONT_LAST => false
  | .CLAP_CONT_STAT => false
  | .GAFF_ZERO => false
  | .GAFF_CFG => false
  | .GAFF_POWER => false
  | .GAFF_THR_STAT => false
  | .GAFF_TEMP_CFG => false
  | .GAFF_TEMP => false
  | .GAFF_TJ_AVG => false
  | .GAFF_GPIO => false
  | .LOG_SEL => false
  | .LOG_FIFO_CFG => true
  | .LOG_FIFO_STAT => true
  | .LOG_FIFO_DATA => true
  | .LOG_TRACE_CFG => false
  | .LOG_TRACE_CTL => false
  | .LOG_TRACE_PTR => false
  | .COLL_SEL => true
  | .COLL_GRP_CFG => true
  | .COLL_GRP_MEMBER => true
  | .COLL_GRP_ACTIVE0 => true
  | .COLL_GRP_ACTIVE1 => true
  | .COLL_GRP_ACTIVE2 => true
  | .COLL_GRP_ACTIVE3 => true
  | .COLL_GRP_STATE => true
  | .COLL_GRP_DIGEST => true
  | .COLL_LATE => true
  | .COLL_CFG => false
  | .COLL_STAT => false
  | .REL_SEL => false
  | .REL_CFG => false
  | .REL_STAT => false
  | .REL_UE => true
  | .REL_SCAN => true
  | .REL_SUP => false
  | .NUM_GRP_SEL => false
  | .NUM_GRP_DIR => true
  | .NUM_GRP_MASK0 => true
  | .NUM_GRP_MASK1 => true
  | .NUM_GRP_MASK2 => true
  | .NUM_GRP_MASK3 => true
  | .NUM_GRP_MASK4 => true
  | .NUM_GRP_MASK5 => true
  | .NUM_TCFG_ADDR => false
  | .NUM_LOSS_CFG => false
  | .NUM_LOSS_STATE => false
  | .NUM_LOSS_STAT => false
  | .NUM_LOSS_STEP => false
  | .NUM_STAT => false
  | .NUM_LOSS_SAMPLES => false
  | .FW_BUILD => false
  | .FW_REJECT => false

/-- One field of a register: bits, access type, whether its Reset is CFG, and its reset value or default. -/
structure Fd where
  reg : Reg
  hi : Nat
  lo : Nat
  acc : Acc
  cfg : Bool
  rst : Nat
  deriving DecidableEq, Repr

def F.TOP_ID.NR1_REV : Fd := ⟨.TOP_ID, 39, 32, .ro, false, 0x1⟩
def F.TOP_ID.GX2_REV : Fd := ⟨.TOP_ID, 31, 24, .ro, false, 0x1⟩
def F.TOP_ID.GUEST : Fd := ⟨.TOP_ID, 16, 16, .ro, false, 0x0⟩
def F.TOP_ID.VAT_MASK : Fd := ⟨.TOP_ID, 15, 12, .ro, false, 0xF⟩
def F.TOP_ID.GRADE : Fd := ⟨.TOP_ID, 3, 0, .ro, false, 0x1⟩
def F.TOP_CAPS_HUB.PROTO : Fd := ⟨.TOP_CAPS_HUB, 63, 56, .ro, false, 0x6⟩
def F.TOP_CAPS_HUB.RATE : Fd := ⟨.TOP_CAPS_HUB, 55, 48, .ro, false, 0x7⟩
def F.TOP_CAPS_HUB.RIND_PASS : Fd := ⟨.TOP_CAPS_HUB, 7, 7, .ro, false, 0x1⟩
def F.TOP_CAPS_HUB.TC0_RES : Fd := ⟨.TOP_CAPS_HUB, 6, 6, .ro, false, 0x1⟩
def F.TOP_CAPS_HUB.CLAP_FWD : Fd := ⟨.TOP_CAPS_HUB, 5, 5, .ro, false, 0x1⟩
def F.TOP_CAPS_HUB.ATOM_FWD : Fd := ⟨.TOP_CAPS_HUB, 4, 4, .ro, false, 0x1⟩
def F.TOP_CAPS_HUB.RUN_REPAIR : Fd := ⟨.TOP_CAPS_HUB, 3, 3, .ro, false, 0x1⟩
def F.TOP_CAPS_HUB.HALF_WIDTH : Fd := ⟨.TOP_CAPS_HUB, 2, 2, .ro, false, 0x1⟩
def F.TOP_CAPS_HUB.PART_RESET : Fd := ⟨.TOP_CAPS_HUB, 1, 1, .ro, false, 0x1⟩
def F.TOP_CAPS_HUB.POISON : Fd := ⟨.TOP_CAPS_HUB, 0, 0, .ro, false, 0x1⟩
def F.TOP_CAPS_GX0.PROTO : Fd := ⟨.TOP_CAPS_GX0, 63, 56, .ro, false, 0xC⟩
def F.TOP_CAPS_GX0.RATE : Fd := ⟨.TOP_CAPS_GX0, 55, 48, .ro, false, 0x7⟩
def F.TOP_CAPS_GX0.RIND_PASS : Fd := ⟨.TOP_CAPS_GX0, 7, 7, .ro, false, 0x1⟩
def F.TOP_CAPS_GX0.TC0_RES : Fd := ⟨.TOP_CAPS_GX0, 6, 6, .ro, false, 0x1⟩
def F.TOP_CAPS_GX0.CLAP_FWD : Fd := ⟨.TOP_CAPS_GX0, 5, 5, .ro, false, 0x1⟩
def F.TOP_CAPS_GX0.ATOM_FWD : Fd := ⟨.TOP_CAPS_GX0, 4, 4, .ro, false, 0x1⟩
def F.TOP_CAPS_GX0.RUN_REPAIR : Fd := ⟨.TOP_CAPS_GX0, 3, 3, .ro, false, 0x1⟩
def F.TOP_CAPS_GX0.HALF_WIDTH : Fd := ⟨.TOP_CAPS_GX0, 2, 2, .ro, false, 0x1⟩
def F.TOP_CAPS_GX0.PART_RESET : Fd := ⟨.TOP_CAPS_GX0, 1, 1, .ro, false, 0x1⟩
def F.TOP_CAPS_GX0.POISON : Fd := ⟨.TOP_CAPS_GX0, 0, 0, .ro, false, 0x1⟩
def F.TOP_CAPS_GX1.PROTO : Fd := ⟨.TOP_CAPS_GX1, 63, 56, .ro, false, 0xC⟩
def F.TOP_CAPS_GX1.RATE : Fd := ⟨.TOP_CAPS_GX1, 55, 48, .ro, false, 0x7⟩
def F.TOP_CAPS_GX1.RIND_PASS : Fd := ⟨.TOP_CAPS_GX1, 7, 7, .ro, false, 0x1⟩
def F.TOP_CAPS_GX1.TC0_RES : Fd := ⟨.TOP_CAPS_GX1, 6, 6, .ro, false, 0x1⟩
def F.TOP_CAPS_GX1.CLAP_FWD : Fd := ⟨.TOP_CAPS_GX1, 5, 5, .ro, false, 0x1⟩
def F.TOP_CAPS_GX1.ATOM_FWD : Fd := ⟨.TOP_CAPS_GX1, 4, 4, .ro, false, 0x1⟩
def F.TOP_CAPS_GX1.RUN_REPAIR : Fd := ⟨.TOP_CAPS_GX1, 3, 3, .ro, false, 0x1⟩
def F.TOP_CAPS_GX1.HALF_WIDTH : Fd := ⟨.TOP_CAPS_GX1, 2, 2, .ro, false, 0x1⟩
def F.TOP_CAPS_GX1.PART_RESET : Fd := ⟨.TOP_CAPS_GX1, 1, 1, .ro, false, 0x1⟩
def F.TOP_CAPS_GX1.POISON : Fd := ⟨.TOP_CAPS_GX1, 0, 0, .ro, false, 0x1⟩
def F.TOP_CAPS_GX2.PROTO : Fd := ⟨.TOP_CAPS_GX2, 63, 56, .ro, false, 0xC⟩
def F.TOP_CAPS_GX2.RATE : Fd := ⟨.TOP_CAPS_GX2, 55, 48, .ro, false, 0x7⟩
def F.TOP_CAPS_GX2.RIND_PASS : Fd := ⟨.TOP_CAPS_GX2, 7, 7, .ro, false, 0x1⟩
def F.TOP_CAPS_GX2.TC0_RES : Fd := ⟨.TOP_CAPS_GX2, 6, 6, .ro, false, 0x1⟩
def F.TOP_CAPS_GX2.CLAP_FWD : Fd := ⟨.TOP_CAPS_GX2, 5, 5, .ro, false, 0x1⟩
def F.TOP_CAPS_GX2.ATOM_FWD : Fd := ⟨.TOP_CAPS_GX2, 4, 4, .ro, false, 0x1⟩
def F.TOP_CAPS_GX2.RUN_REPAIR : Fd := ⟨.TOP_CAPS_GX2, 3, 3, .ro, false, 0x1⟩
def F.TOP_CAPS_GX2.HALF_WIDTH : Fd := ⟨.TOP_CAPS_GX2, 2, 2, .ro, false, 0x1⟩
def F.TOP_CAPS_GX2.PART_RESET : Fd := ⟨.TOP_CAPS_GX2, 1, 1, .ro, false, 0x1⟩
def F.TOP_CAPS_GX2.POISON : Fd := ⟨.TOP_CAPS_GX2, 0, 0, .ro, false, 0x1⟩
def F.TOP_CAPS_GX3.PROTO : Fd := ⟨.TOP_CAPS_GX3, 63, 56, .ro, false, 0xC⟩
def F.TOP_CAPS_GX3.RATE : Fd := ⟨.TOP_CAPS_GX3, 55, 48, .ro, false, 0x7⟩
def F.TOP_CAPS_GX3.RIND_PASS : Fd := ⟨.TOP_CAPS_GX3, 7, 7, .ro, false, 0x1⟩
def F.TOP_CAPS_GX3.TC0_RES : Fd := ⟨.TOP_CAPS_GX3, 6, 6, .ro, false, 0x1⟩
def F.TOP_CAPS_GX3.CLAP_FWD : Fd := ⟨.TOP_CAPS_GX3, 5, 5, .ro, false, 0x1⟩
def F.TOP_CAPS_GX3.ATOM_FWD : Fd := ⟨.TOP_CAPS_GX3, 4, 4, .ro, false, 0x1⟩
def F.TOP_CAPS_GX3.RUN_REPAIR : Fd := ⟨.TOP_CAPS_GX3, 3, 3, .ro, false, 0x1⟩
def F.TOP_CAPS_GX3.HALF_WIDTH : Fd := ⟨.TOP_CAPS_GX3, 2, 2, .ro, false, 0x1⟩
def F.TOP_CAPS_GX3.PART_RESET : Fd := ⟨.TOP_CAPS_GX3, 1, 1, .ro, false, 0x1⟩
def F.TOP_CAPS_GX3.POISON : Fd := ⟨.TOP_CAPS_GX3, 0, 0, .ro, false, 0x1⟩
def F.TOP_CAPS_EFF.PROTO : Fd := ⟨.TOP_CAPS_EFF, 63, 56, .ro, false, 0x0⟩
def F.TOP_CAPS_EFF.RATE : Fd := ⟨.TOP_CAPS_EFF, 55, 48, .ro, false, 0x0⟩
def F.TOP_CAPS_EFF.RIND_PASS : Fd := ⟨.TOP_CAPS_EFF, 7, 7, .ro, false, 0x0⟩
def F.TOP_CAPS_EFF.TC0_RES : Fd := ⟨.TOP_CAPS_EFF, 6, 6, .ro, false, 0x0⟩
def F.TOP_CAPS_EFF.CLAP_FWD : Fd := ⟨.TOP_CAPS_EFF, 5, 5, .ro, false, 0x0⟩
def F.TOP_CAPS_EFF.ATOM_FWD : Fd := ⟨.TOP_CAPS_EFF, 4, 4, .ro, false, 0x0⟩
def F.TOP_CAPS_EFF.RUN_REPAIR : Fd := ⟨.TOP_CAPS_EFF, 3, 3, .ro, false, 0x0⟩
def F.TOP_CAPS_EFF.HALF_WIDTH : Fd := ⟨.TOP_CAPS_EFF, 2, 2, .ro, false, 0x0⟩
def F.TOP_CAPS_EFF.PART_RESET : Fd := ⟨.TOP_CAPS_EFF, 1, 1, .ro, false, 0x0⟩
def F.TOP_CAPS_EFF.POISON : Fd := ⟨.TOP_CAPS_EFF, 0, 0, .ro, false, 0x0⟩
def F.TOP_VAT_STATE.RESETS : Fd := ⟨.TOP_VAT_STATE, 47, 16, .rc, false, 0x0⟩
def F.TOP_VAT_STATE.STATE : Fd := ⟨.TOP_VAT_STATE, 15, 0, .ro, false, 0x0⟩
def F.TOP_VAT_RESET.SCAN : Fd := ⟨.TOP_VAT_RESET, 8, 8, .wo, false, 0x0⟩
def F.TOP_VAT_RESET.CAUSE : Fd := ⟨.TOP_VAT_RESET, 7, 4, .wo, false, 0x0⟩
def F.TOP_VAT_RESET.VAT : Fd := ⟨.TOP_VAT_RESET, 3, 0, .wo, false, 0x0⟩
def F.CFG_BOOT.PHASE : Fd := ⟨.CFG_BOOT, 63, 60, .ro, false, 0x0⟩
def F.CFG_BOOT.FAIL : Fd := ⟨.CFG_BOOT, 59, 56, .ro, false, 0x0⟩
def F.CFG_BOOT.PROMOTED : Fd := ⟨.CFG_BOOT, 50, 48, .ro, false, 0x0⟩
def F.CFG_BOOT.READY_MS : Fd := ⟨.CFG_BOOT, 31, 0, .ro, false, 0x0⟩
def F.CFG_REC.SEQ : Fd := ⟨.CFG_REC, 63, 0, .ro, false, 0x0⟩
def F.CFG_STAT.IGNORED : Fd := ⟨.CFG_STAT, 47, 32, .ro, false, 0x0⟩
def F.CFG_STAT.APPLIED : Fd := ⟨.CFG_STAT, 31, 16, .ro, false, 0x0⟩
def F.CFG_STAT.MAP : Fd := ⟨.CFG_STAT, 3, 3, .ro, false, 0x0⟩
def F.CFG_STAT.ETH_DEF : Fd := ⟨.CFG_STAT, 2, 2, .ro, false, 0x0⟩
def F.CFG_STAT.DBG_OFF : Fd := ⟨.CFG_STAT, 1, 1, .ro, false, 0x0⟩
def F.CFG_STAT.SLOT : Fd := ⟨.CFG_STAT, 0, 0, .ro, false, 0x0⟩
def F.CFG_DIR.ERASE : Fd := ⟨.CFG_DIR, 63, 56, .ro, false, 0x0⟩
def F.CFG_DIR.ACTIVE : Fd := ⟨.CFG_DIR, 55, 48, .ro, false, 0x0⟩
def F.CFG_DIR.FW : Fd := ⟨.CFG_DIR, 47, 40, .ro, false, 0x0⟩
def F.CFG_DIR.DSEQ : Fd := ⟨.CFG_DIR, 31, 0, .ro, false, 0x0⟩
def F.CFG_FLASH.SIZE_MIB : Fd := ⟨.CFG_FLASH, 47, 32, .ro, false, 0x0⟩
def F.CFG_FLASH.SCAN_MIB : Fd := ⟨.CFG_FLASH, 31, 16, .ro, false, 0x0⟩
def F.SEC_BOOT.FW_SVN : Fd := ⟨.SEC_BOOT, 63, 48, .ro, false, 0x0⟩
def F.SEC_BOOT.MIN_SVN : Fd := ⟨.SEC_BOOT, 47, 32, .ro, false, 0x0⟩
def F.SEC_BOOT.IMAGE : Fd := ⟨.SEC_BOOT, 24, 24, .ro, false, 0x0⟩
def F.SEC_BOOT.BOOT_ID : Fd := ⟨.SEC_BOOT, 23, 0, .ro, false, 0x0⟩
def F.SEC_SERIAL.SERIAL : Fd := ⟨.SEC_SERIAL, 63, 0, .ro, false, 0x0⟩
def F.SEC_CTR.COUNTER : Fd := ⟨.SEC_CTR, 63, 0, .ro, false, 0x0⟩
def F.SEC_STATE.ATTESTS : Fd := ⟨.SEC_STATE, 63, 32, .rc, false, 0x0⟩
def F.SEC_STATE.OWNER_OK : Fd := ⟨.SEC_STATE, 2, 2, .ro, false, 0x0⟩
def F.SEC_STATE.KEY_OK : Fd := ⟨.SEC_STATE, 1, 1, .ro, false, 0x0⟩
def F.SEC_STATE.KEY_BUSY : Fd := ⟨.SEC_STATE, 0, 0, .ro, false, 0x0⟩
def F.SEC_DROP.MAC : Fd := ⟨.SEC_DROP, 63, 48, .rc, false, 0x0⟩
def F.SEC_DROP.COUNTER : Fd := ⟨.SEC_DROP, 47, 32, .rc, false, 0x0⟩
def F.SEC_DROP.FORMAT : Fd := ⟨.SEC_DROP, 31, 16, .rc, false, 0x0⟩
def F.SEC_DROP.QUEUE : Fd := ⟨.SEC_DROP, 15, 8, .rc, false, 0x0⟩
def F.SEC_DROP.NO_KEY : Fd := ⟨.SEC_DROP, 7, 0, .rc, false, 0x0⟩
def F.SEC_NOTICE.SENT : Fd := ⟨.SEC_NOTICE, 63, 32, .rc, false, 0x0⟩
def F.SEC_NOTICE.LOST : Fd := ⟨.SEC_NOTICE, 31, 0, .rc, false, 0x0⟩
def F.SEC_GUEST.ACCESS_REFUSED : Fd := ⟨.SEC_GUEST, 63, 32, .rc, false, 0x0⟩
def F.SEC_GUEST.FRAMES_REFUSED : Fd := ⟨.SEC_GUEST, 31, 0, .rc, false, 0x0⟩
def F.ETH_SEL.PORT : Fd := ⟨.ETH_SEL, 0, 0, .rw, false, 0x0⟩
def F.ETH_PORT_CFG.EN : Fd := ⟨.ETH_PORT_CFG, 55, 55, .ro, true, 0x0⟩
def F.ETH_PORT_CFG.MEDIA : Fd := ⟨.ETH_PORT_CFG, 54, 54, .ro, true, 0x0⟩
def F.ETH_PORT_CFG.MODES : Fd := ⟨.ETH_PORT_CFG, 50, 48, .ro, true, 0x7⟩
def F.ETH_PORT_CFG.MAC : Fd := ⟨.ETH_PORT_CFG, 47, 0, .ro, true, 0x0⟩
def F.ETH_STATUS.LINK_CHANGES : Fd := ⟨.ETH_STATUS, 63, 32, .rc, false, 0x0⟩
def F.ETH_STATUS.LINK : Fd := ⟨.ETH_STATUS, 2, 2, .ro, false, 0x0⟩
def F.ETH_STATUS.MODE : Fd := ⟨.ETH_STATUS, 1, 0, .ro, false, 0x0⟩
def F.ETH_NET.IP6_EN : Fd := ⟨.ETH_NET, 63, 63, .ro, true, 0x0⟩
def F.ETH_NET.IP4_EN : Fd := ⟨.ETH_NET, 62, 62, .ro, true, 0x0⟩
def F.ETH_NET.VLAN_EN : Fd := ⟨.ETH_NET, 61, 61, .ro, true, 0x0⟩
def F.ETH_NET.VLAN : Fd := ⟨.ETH_NET, 59, 48, .ro, true, 0x0⟩
def F.ETH_NET.UDP_PORT : Fd := ⟨.ETH_NET, 47, 32, .ro, true, 0xC8DC⟩
def F.ETH_NET.IP4 : Fd := ⟨.ETH_NET, 31, 0, .ro, true, 0x0⟩
def F.ETH_IP6_HI.ADDR : Fd := ⟨.ETH_IP6_HI, 63, 0, .ro, true, 0x0⟩
def F.ETH_IP6_LO.ADDR : Fd := ⟨.ETH_IP6_LO, 63, 0, .ro, true, 0x0⟩
def F.ETH_STAT.RX_FRAMES : Fd := ⟨.ETH_STAT, 63, 32, .rc, false, 0x0⟩
def F.ETH_STAT.RX_DROPS : Fd := ⟨.ETH_STAT, 31, 16, .rc, false, 0x0⟩
def F.ETH_STAT.FEC_UNCORR : Fd := ⟨.ETH_STAT, 15, 0, .rc, false, 0x0⟩
def F.PORT_SEL.LANE : Fd := ⟨.PORT_SEL, 18, 16, .rw, false, 0x0⟩
def F.PORT_SEL.PORT : Fd := ⟨.PORT_SEL, 4, 0, .rw, false, 0x0⟩
def F.PORT_CFG.WIN_LIMIT : Fd := ⟨.PORT_CFG, 63, 48, .rw, true, 0x1000⟩
def F.PORT_CFG.LANE_THRESH : Fd := ⟨.PORT_CFG, 47, 32, .rw, true, 0x10⟩
def F.PORT_CFG.REPLAY_LIMIT : Fd := ⟨.PORT_CFG, 31, 24, .rw, true, 0x8⟩
def F.PORT_CFG.EXPECT : Fd := ⟨.PORT_CFG, 17, 0, .rw, true, 0x0⟩
def F.PORT_ID.PKG_ID : Fd := ⟨.PORT_ID, 11, 0, .ro, true, 0x0⟩
def F.PORT_STATUS.PARTNER_ID : Fd := ⟨.PORT_STATUS, 63, 52, .ro, false, 0x0⟩
def F.PORT_STATUS.PARTNER_PORT : Fd := ⟨.PORT_STATUS, 51, 47, .ro, false, 0x0⟩
def F.PORT_STATUS.OPTICAL : Fd := ⟨.PORT_STATUS, 44, 44, .ro, false, 0x0⟩
def F.PORT_STATUS.RX_FAILED : Fd := ⟨.PORT_STATUS, 43, 39, .ro, false, 0x0⟩
def F.PORT_STATUS.TX_FAILED : Fd := ⟨.PORT_STATUS, 38, 34, .ro, false, 0x0⟩
def F.PORT_STATUS.RATE : Fd := ⟨.PORT_STATUS, 33, 32, .ro, false, 0x0⟩
def F.PORT_STATUS.BW : Fd := ⟨.PORT_STATUS, 31, 16, .ro, false, 0x0⟩
def F.PORT_STATUS.STATE : Fd := ⟨.PORT_STATUS, 3, 0, .ro, false, 0x0⟩
def F.PORT_LANE_ERR.FAILED : Fd := ⟨.PORT_LANE_ERR, 63, 63, .ro, false, 0x0⟩
def F.PORT_LANE_ERR.BAD_WIN : Fd := ⟨.PORT_LANE_ERR, 47, 32, .ro, false, 0x0⟩
def F.PORT_LANE_ERR.SYM_CORR : Fd := ⟨.PORT_LANE_ERR, 31, 0, .rc, false, 0x0⟩
def F.PORT_ERR.RETRAINS : Fd := ⟨.PORT_ERR, 63, 48, .rc, false, 0x0⟩
def F.PORT_ERR.UNCORR : Fd := ⟨.PORT_ERR, 47, 24, .rc, false, 0x0⟩
def F.PORT_ERR.REPLAYS : Fd := ⟨.PORT_ERR, 23, 0, .rc, false, 0x0⟩
def F.PORT_TC_STAT.TC0_OVER : Fd := ⟨.PORT_TC_STAT, 63, 32, .rc, false, 0x0⟩
def F.PORT_TCW.W3 : Fd := ⟨.PORT_TCW, 23, 16, .rw, true, 0x1⟩
def F.PORT_TCW.W2 : Fd := ⟨.PORT_TCW, 15, 8, .rw, true, 0x4⟩
def F.PORT_TCW.W1 : Fd := ⟨.PORT_TCW, 7, 0, .rw, true, 0x8⟩
def F.PORT_RT_IDX.TABLE : Fd := ⟨.PORT_RT_IDX, 8, 8, .rw, false, 0x0⟩
def F.PORT_RT_IDX.ENTRY : Fd := ⟨.PORT_RT_IDX, 7, 0, .rw, false, 0x0⟩
def F.PORT_RT_DATA.ENTRY : Fd := ⟨.PORT_RT_DATA, 63, 0, .rw, false, 0x0⟩
def F.PORT_RT_STAT.HOP_DROPS : Fd := ⟨.PORT_RT_STAT, 63, 32, .rc, false, 0x0⟩
def F.PORT_RT_STAT.NO_ENTRY : Fd := ⟨.PORT_RT_STAT, 31, 0, .rc, false, 0x0⟩
def F.PORT_GUEST.OPTICAL : Fd := ⟨.PORT_GUEST, 2, 0, .ro, true, 0x0⟩
def F.D2D_SEL.LANE : Fd := ⟨.D2D_SEL, 22, 16, .rw, false, 0x0⟩
def F.D2D_SEL.END : Fd := ⟨.D2D_SEL, 12, 12, .rw, false, 0x0⟩
def F.D2D_SEL.EDGE : Fd := ⟨.D2D_SEL, 11, 8, .rw, false, 0x0⟩
def F.D2D_SEL.MODULE : Fd := ⟨.D2D_SEL, 4, 0, .rw, false, 0x0⟩
def F.D2D_CFG.LANE_THRESH : Fd := ⟨.D2D_CFG, 31, 16, .rw, true, 0x40⟩
def F.D2D_CFG.REPLAY_LIMIT : Fd := ⟨.D2D_CFG, 7, 0, .rw, true, 0x8⟩
def F.D2D_STATUS.EDGE_BW : Fd := ⟨.D2D_STATUS, 47, 32, .ro, false, 0x0⟩
def F.D2D_STATUS.RATE : Fd := ⟨.D2D_STATUS, 23, 16, .ro, false, 0x0⟩
def F.D2D_STATUS.PROTO : Fd := ⟨.D2D_STATUS, 11, 8, .ro, false, 0x0⟩
def F.D2D_STATUS.REPAIRS_USED : Fd := ⟨.D2D_STATUS, 7, 4, .ro, false, 0x0⟩
def F.D2D_STATUS.MOD_STATE : Fd := ⟨.D2D_STATUS, 1, 0, .ro, false, 0x3⟩
def F.D2D_LANE_ERR.REPAIRED : Fd := ⟨.D2D_LANE_ERR, 32, 32, .ro, false, 0x0⟩
def F.D2D_LANE_ERR.ERR_COUNT : Fd := ⟨.D2D_LANE_ERR, 31, 0, .ro, false, 0x0⟩
def F.D2D_REPLAY_CNT.REPLAYS : Fd := ⟨.D2D_REPLAY_CNT, 31, 0, .rc, false, 0x0⟩
def F.MC_SEL.PCH : Fd := ⟨.MC_SEL, 13, 8, .rw, false, 0x0⟩
def F.MC_SEL.STACK : Fd := ⟨.MC_SEL, 3, 0, .rw, false, 0x0⟩
def F.MC_MODE.WR_HIGH : Fd := ⟨.MC_MODE, 31, 24, .rw, true, 0x30⟩
def F.MC_MODE.WR_LOW : Fd := ⟨.MC_MODE, 23, 16, .rw, true, 0x10⟩
def F.MC_MODE.AGE_MAX : Fd := ⟨.MC_MODE, 15, 8, .rw, true, 0x80⟩
def F.MC_MODE.SHARE : Fd := ⟨.MC_MODE, 1, 1, .rw, true, 0x1⟩
def F.MC_MODE.MODE : Fd := ⟨.MC_MODE, 0, 0, .rw, true, 0x0⟩
def F.MC_PART_MAP.PART : Fd := ⟨.MC_PART_MAP, 31, 0, .rw, true, 0x76543210⟩
def F.MC_BUCKET0.BURST : Fd := ⟨.MC_BUCKET0, 31, 16, .rw, true, 0x1000⟩
def F.MC_BUCKET0.RATE : Fd := ⟨.MC_BUCKET0, 15, 0, .rw, true, 0x32⟩
def F.MC_BUCKET1.BURST : Fd := ⟨.MC_BUCKET1, 31, 16, .rw, true, 0x1000⟩
def F.MC_BUCKET1.RATE : Fd := ⟨.MC_BUCKET1, 15, 0, .rw, true, 0x32⟩
def F.MC_BUCKET2.BURST : Fd := ⟨.MC_BUCKET2, 31, 16, .rw, true, 0x1000⟩
def F.MC_BUCKET2.RATE : Fd := ⟨.MC_BUCKET2, 15, 0, .rw, true, 0x32⟩
def F.MC_BUCKET3.BURST : Fd := ⟨.MC_BUCKET3, 31, 16, .rw, true, 0x1000⟩
def F.MC_BUCKET3.RATE : Fd := ⟨.MC_BUCKET3, 15, 0, .rw, true, 0x32⟩
def F.MC_BUCKET4.BURST : Fd := ⟨.MC_BUCKET4, 31, 16, .rw, true, 0x1000⟩
def F.MC_BUCKET4.RATE : Fd := ⟨.MC_BUCKET4, 15, 0, .rw, true, 0x32⟩
def F.MC_BUCKET5.BURST : Fd := ⟨.MC_BUCKET5, 31, 16, .rw, true, 0x1000⟩
def F.MC_BUCKET5.RATE : Fd := ⟨.MC_BUCKET5, 15, 0, .rw, true, 0x32⟩
def F.MC_BUCKET6.BURST : Fd := ⟨.MC_BUCKET6, 31, 16, .rw, true, 0x1000⟩
def F.MC_BUCKET6.RATE : Fd := ⟨.MC_BUCKET6, 15, 0, .rw, true, 0x32⟩
def F.MC_BUCKET7.BURST : Fd := ⟨.MC_BUCKET7, 31, 16, .rw, true, 0x1000⟩
def F.MC_BUCKET7.RATE : Fd := ⟨.MC_BUCKET7, 15, 0, .rw, true, 0x32⟩
def F.MC_CAVE0.CAVE : Fd := ⟨.MC_CAVE0, 63, 0, .rw, false, 0x0⟩
def F.MC_CAVE1.CAVE : Fd := ⟨.MC_CAVE1, 63, 0, .rw, false, 0x0⟩
def F.MC_CAVE2.CAVE : Fd := ⟨.MC_CAVE2, 63, 0, .rw, false, 0x0⟩
def F.MC_CAVE3.CAVE : Fd := ⟨.MC_CAVE3, 63, 0, .rw, false, 0x0⟩
def F.MC_CAVE_STAT.DROPS : Fd := ⟨.MC_CAVE_STAT, 31, 0, .rc, false, 0x0⟩
def F.MC_ERR.UE : Fd := ⟨.MC_ERR, 63, 48, .rc, false, 0x0⟩
def F.MC_ERR.INNER : Fd := ⟨.MC_ERR, 47, 32, .rc, false, 0x0⟩
def F.MC_ERR.CE : Fd := ⟨.MC_ERR, 31, 0, .rc, false, 0x0⟩
def F.MC_ERR_CFG.ROW_THRESH : Fd := ⟨.MC_ERR_CFG, 47, 32, .rw, true, 0x8⟩
def F.MC_ERR_CFG.PIN_THRESH : Fd := ⟨.MC_ERR_CFG, 31, 16, .rw, true, 0x10⟩
def F.MC_ERR_CFG.SCRUB_EN : Fd := ⟨.MC_ERR_CFG, 0, 0, .rw, true, 0x1⟩
def F.MC_REMAP.FULL : Fd := ⟨.MC_REMAP, 12, 12, .ro, false, 0x0⟩
def F.MC_REMAP.USED : Fd := ⟨.MC_REMAP, 11, 0, .ro, false, 0x0⟩
def F.MC_LANE.REPAIRED : Fd := ⟨.MC_LANE, 63, 32, .ro, false, 0x0⟩
def F.MC_LANE.MARKED : Fd := ⟨.MC_LANE, 31, 0, .ro, false, 0x0⟩
def F.MC_BANK_STAT.CAP_HITS : Fd := ⟨.MC_BANK_STAT, 63, 32, .rc, false, 0x0⟩
def F.MC_BANK_STAT.MAX_WAIT : Fd := ⟨.MC_BANK_STAT, 31, 0, .rc, false, 0x0⟩
def F.MC_MAINT.DROPS : Fd := ⟨.MC_MAINT, 63, 32, .rc, false, 0x0⟩
def F.MC_MAINT.IDLE : Fd := ⟨.MC_MAINT, 1, 1, .ro, false, 0x0⟩
def F.MC_MAINT.HOLD : Fd := ⟨.MC_MAINT, 0, 0, .rw, false, 0x0⟩
def F.MC_REPAIR.GO : Fd := ⟨.MC_REPAIR, 63, 63, .wo, false, 0x0⟩
def F.MC_REPAIR.OP : Fd := ⟨.MC_REPAIR, 62, 60, .rw, false, 0x0⟩
def F.MC_REPAIR.BANK : Fd := ⟨.MC_REPAIR, 37, 32, .rw, false, 0x0⟩
def F.MC_REPAIR.ROW : Fd := ⟨.MC_REPAIR, 28, 16, .rw, false, 0x0⟩
def F.MC_REPAIR.LANE : Fd := ⟨.MC_REPAIR, 4, 0, .rw, false, 0x0⟩
def F.MC_REPAIR_STAT.DONE : Fd := ⟨.MC_REPAIR_STAT, 63, 63, .ro, false, 0x1⟩
def F.MC_REPAIR_STAT.RESULT : Fd := ⟨.MC_REPAIR_STAT, 59, 56, .ro, false, 0x0⟩
def F.MC_REPAIR_STAT.LANE_FREE : Fd := ⟨.MC_REPAIR_STAT, 23, 16, .ro, false, 0x2⟩
def F.MC_REPAIR_STAT.HPPR_FREE : Fd := ⟨.MC_REPAIR_STAT, 15, 8, .ro, false, 0x0⟩
def F.MC_REPAIR_STAT.SPPR_FREE : Fd := ⟨.MC_REPAIR_STAT, 7, 0, .ro, false, 0x0⟩
def F.MC_CELLAR_ERR.UE : Fd := ⟨.MC_CELLAR_ERR, 47, 32, .rc, false, 0x0⟩
def F.MC_CELLAR_ERR.CE : Fd := ⟨.MC_CELLAR_ERR, 31, 0, .rc, false, 0x0⟩
def F.PRESS_CFG.RATIO_MAX : Fd := ⟨.PRESS_CFG, 63, 32, .rw, true, 0x3D800000⟩
def F.PRESS_STAT.SLICES : Fd := ⟨.PRESS_STAT, 63, 32, .rc, false, 0x0⟩
def F.PRESS_STAT.ATOMICS : Fd := ⟨.PRESS_STAT, 31, 0, .rc, false, 0x0⟩
def F.PRESS_STAT2.SAT : Fd := ⟨.PRESS_STAT2, 63, 48, .rc, false, 0x0⟩
def F.PRESS_STAT2.HELD_NF : Fd := ⟨.PRESS_STAT2, 47, 32, .rc, false, 0x0⟩
def F.PRESS_STAT2.RIND_HELD : Fd := ⟨.PRESS_STAT2, 31, 16, .rc, false, 0x0⟩
def F.PRESS_STAT2.REFUSED : Fd := ⟨.PRESS_STAT2, 15, 0, .rc, false, 0x0⟩
def F.PRESS_QUEUE.DAILIES_LOST : Fd := ⟨.PRESS_QUEUE, 63, 48, .rc, false, 0x0⟩
def F.PRESS_QUEUE.PENDING : Fd := ⟨.PRESS_QUEUE, 35, 32, .ro, false, 0x0⟩
def F.PRESS_QUEUE.DISCARDED : Fd := ⟨.PRESS_QUEUE, 31, 0, .rc, false, 0x0⟩
def F.PRESS_DIG_CTL.GO : Fd := ⟨.PRESS_DIG_CTL, 63, 63, .wo, false, 0x0⟩
def F.PRESS_DIG_CTL.DONE : Fd := ⟨.PRESS_DIG_CTL, 62, 62, .ro, false, 0x1⟩
def F.PRESS_DIG_CTL.INCOMPLETE : Fd := ⟨.PRESS_DIG_CTL, 61, 61, .w1c, false, 0x0⟩
def F.PRESS_DIG_CTL.STALE : Fd := ⟨.PRESS_DIG_CTL, 47, 32, .rc, false, 0x0⟩
def F.PRESS_DIG_CTL.ENTRIES : Fd := ⟨.PRESS_DIG_CTL, 10, 0, .ro, false, 0x0⟩
def F.PRESS_DIG_STEP.STEP : Fd := ⟨.PRESS_DIG_STEP, 63, 0, .rw, false, 0x0⟩
def F.PRESS_DIG_CE.DIGEST : Fd := ⟨.PRESS_DIG_CE, 63, 0, .ro, false, 0x0⟩
def F.PRESS_DIG_CI.DIGEST : Fd := ⟨.PRESS_DIG_CI, 63, 0, .ro, false, 0x0⟩
def F.PRESS_VDIG_CE.DIGEST : Fd := ⟨.PRESS_VDIG_CE, 63, 0, .ro, false, 0x0⟩
def F.PRESS_VDIG_CI.DIGEST : Fd := ⟨.PRESS_VDIG_CI, 63, 0, .ro, false, 0x0⟩
def F.CORE_SEL.PHYS : Fd := ⟨.CORE_SEL, 16, 16, .rw, false, 0x0⟩
def F.CORE_SEL.CORE : Fd := ⟨.CORE_SEL, 8, 0, .rw, false, 0x0⟩
def F.CORE_STATE.PEER : Fd := ⟨.CORE_STATE, 22, 16, .ro, false, 0x0⟩
def F.CORE_STATE.HALT_CAUSE : Fd := ⟨.CORE_STATE, 11, 8, .ro, false, 0x0⟩
def F.CORE_STATE.STATE : Fd := ⟨.CORE_STATE, 3, 0, .ro, false, 0x2⟩
def F.CORE_QP0.Y_OCC : Fd := ⟨.CORE_QP0, 62, 56, .ro, false, 0x0⟩
def F.CORE_QP0.X_OCC : Fd := ⟨.CORE_QP0, 54, 48, .ro, false, 0x0⟩
def F.CORE_QP0.Y_QP : Fd := ⟨.CORE_QP0, 47, 24, .ro, false, 0x0⟩
def F.CORE_QP0.X_QP : Fd := ⟨.CORE_QP0, 23, 0, .ro, false, 0x0⟩
def F.CORE_QP1.Y_OCC : Fd := ⟨.CORE_QP1, 62, 56, .ro, false, 0x0⟩
def F.CORE_QP1.X_OCC : Fd := ⟨.CORE_QP1, 54, 48, .ro, false, 0x0⟩
def F.CORE_QP1.Y_QP : Fd := ⟨.CORE_QP1, 47, 24, .ro, false, 0x0⟩
def F.CORE_QP1.X_QP : Fd := ⟨.CORE_QP1, 23, 0, .ro, false, 0x0⟩
def F.CORE_QP2.Y_OCC : Fd := ⟨.CORE_QP2, 62, 56, .ro, false, 0x0⟩
def F.CORE_QP2.X_OCC : Fd := ⟨.CORE_QP2, 54, 48, .ro, false, 0x0⟩
def F.CORE_QP2.Y_QP : Fd := ⟨.CORE_QP2, 47, 24, .ro, false, 0x0⟩
def F.CORE_QP2.X_QP : Fd := ⟨.CORE_QP2, 23, 0, .ro, false, 0x0⟩
def F.CORE_FAULT.SWAP_WANTED : Fd := ⟨.CORE_FAULT, 63, 63, .ro, false, 0x0⟩
def F.CORE_FAULT.UE_COUNT : Fd := ⟨.CORE_FAULT, 47, 32, .ro, false, 0x0⟩
def F.CORE_FAULT.CE_COUNT : Fd := ⟨.CORE_FAULT, 31, 16, .ro, false, 0x0⟩
def F.CORE_FAULT.ARRAY_FAULTS : Fd := ⟨.CORE_FAULT, 15, 0, .ro, false, 0x0⟩
def F.CORE_FAULT_CFG.CE_THRESH : Fd := ⟨.CORE_FAULT_CFG, 31, 16, .rw, true, 0x400⟩
def F.CORE_FAULT_CFG.THRESH : Fd := ⟨.CORE_FAULT_CFG, 15, 0, .rw, true, 0x4⟩
def F.CORE_SWAP.RESULT : Fd := ⟨.CORE_SWAP, 47, 40, .ro, false, 0x0⟩
def F.CORE_SWAP.PENDING : Fd := ⟨.CORE_SWAP, 32, 32, .ro, false, 0x0⟩
def F.CORE_SWAP.GO : Fd := ⟨.CORE_SWAP, 31, 31, .wo, false, 0x0⟩
def F.CORE_SWAP.SPARE : Fd := ⟨.CORE_SWAP, 22, 16, .rw, false, 0x7F⟩
def F.CORE_SWAP.LOGICAL : Fd := ⟨.CORE_SWAP, 8, 0, .rw, false, 0x0⟩
def F.CORE_TC_STAT.MISSES : Fd := ⟨.CORE_TC_STAT, 63, 32, .rc, false, 0x0⟩
def F.CORE_TC_STAT.FORCED_EVICT : Fd := ⟨.CORE_TC_STAT, 31, 0, .rc, false, 0x0⟩
def F.CORE_TC_CFG.FILL_WAYS : Fd := ⟨.CORE_TC_CFG, 12, 8, .ro, false, 0x18⟩
def F.CORE_TC_CFG.SCRATCH_WAYS : Fd := ⟨.CORE_TC_CFG, 4, 0, .ro, false, 0x0⟩
def F.CORE_CVT_CNT0.OVERFLOW : Fd := ⟨.CORE_CVT_CNT0, 63, 32, .rc, false, 0x0⟩
def F.CORE_CVT_CNT0.NONFINITE : Fd := ⟨.CORE_CVT_CNT0, 31, 0, .rc, false, 0x0⟩
def F.CORE_CVT_CNT1.UNDERFLOW : Fd := ⟨.CORE_CVT_CNT1, 31, 0, .rc, false, 0x0⟩
def F.CORE_CVT_FLAGS.NF_STICKY : Fd := ⟨.CORE_CVT_FLAGS, 17, 17, .ro, false, 0x0⟩
def F.CORE_CVT_FLAGS.OVF_STICKY : Fd := ⟨.CORE_CVT_FLAGS, 16, 16, .ro, false, 0x0⟩
def F.CORE_CVT_FLAGS.LAYER : Fd := ⟨.CORE_CVT_FLAGS, 15, 0, .ro, false, 0x0⟩
def F.CORE_MX_STAT.TONE_CC : Fd := ⟨.CORE_MX_STAT, 63, 24, .rc, false, 0x0⟩
def F.CORE_MX_STAT.RECOMPUTES : Fd := ⟨.CORE_MX_STAT, 23, 0, .rc, false, 0x0⟩
def F.CORE_MX_FAULT.A3_FAULTS : Fd := ⟨.CORE_MX_FAULT, 63, 48, .ro, false, 0x0⟩
def F.CORE_MX_FAULT.A2_FAULTS : Fd := ⟨.CORE_MX_FAULT, 47, 32, .ro, false, 0x0⟩
def F.CORE_MX_FAULT.A1_FAULTS : Fd := ⟨.CORE_MX_FAULT, 31, 16, .ro, false, 0x0⟩
def F.CORE_MX_FAULT.A0_FAULTS : Fd := ⟨.CORE_MX_FAULT, 15, 0, .ro, false, 0x0⟩
def F.CORE_MX_TONE.WINDOW : Fd := ⟨.CORE_MX_TONE, 24, 16, .ro, false, 0x100⟩
def F.CORE_MX_TONE.EN : Fd := ⟨.CORE_MX_TONE, 8, 8, .ro, false, 0x1⟩
def F.CORE_MX_TONE.ACTIVE : Fd := ⟨.CORE_MX_TONE, 3, 0, .ro, false, 0x0⟩
def F.CORE_MX_TAINT.TAINT : Fd := ⟨.CORE_MX_TAINT, 31, 0, .ro, false, 0x0⟩
def F.CORE_IFAULT.SKIP_STICKY : Fd := ⟨.CORE_IFAULT, 48, 48, .ro, false, 0x0⟩
def F.CORE_IFAULT.SUPPRESSED : Fd := ⟨.CORE_IFAULT, 47, 32, .ro, false, 0x0⟩
def F.CORE_IFAULT.SKIPS : Fd := ⟨.CORE_IFAULT, 31, 0, .rc, false, 0x0⟩
def F.CORE_STEP.STEP_NO : Fd := ⟨.CORE_STEP, 63, 0, .ro, false, 0x0⟩
def F.CORE_BRACKET.CLOSING : Fd := ⟨.CORE_BRACKET, 25, 25, .ro, false, 0x0⟩
def F.CORE_BRACKET.OPEN : Fd := ⟨.CORE_BRACKET, 24, 24, .ro, false, 0x0⟩
def F.CORE_BRACKET.GROUP : Fd := ⟨.CORE_BRACKET, 23, 16, .ro, false, 0x0⟩
def F.CORE_BRACKET.LAYER : Fd := ⟨.CORE_BRACKET, 15, 0, .ro, false, 0x0⟩
def F.CORE_RIND_STAT.CORRUPT : Fd := ⟨.CORE_RIND_STAT, 63, 32, .rc, false, 0x0⟩
def F.CORE_RIND_STAT.INVALID : Fd := ⟨.CORE_RIND_STAT, 31, 0, .rc, false, 0x0⟩
def F.CORE_TAKE.TAINT_STORES : Fd := ⟨.CORE_TAKE, 63, 32, .rc, false, 0x0⟩
def F.CORE_TAKE.HIGH : Fd := ⟨.CORE_TAKE, 29, 16, .ro, false, 0x0⟩
def F.CORE_TAKE.ENTRIES : Fd := ⟨.CORE_TAKE, 13, 0, .ro, false, 0x0⟩
def F.CORE_XF_STAT.BLOCKS : Fd := ⟨.CORE_XF_STAT, 63, 32, .rc, false, 0x0⟩
def F.CORE_XF_STAT.FAILED : Fd := ⟨.CORE_XF_STAT, 15, 0, .rc, false, 0x0⟩
def F.CORE_VE_STAT.XS_TAINT : Fd := ⟨.CORE_VE_STAT, 47, 16, .rc, false, 0x0⟩
def F.CORE_VE_STAT.PTAINT : Fd := ⟨.CORE_VE_STAT, 7, 0, .ro, false, 0x0⟩
def F.CORE_VE_TAINT.VTAINT : Fd := ⟨.CORE_VE_TAINT, 63, 0, .ro, false, 0x0⟩
def F.CORE_SY_STAT.SIG_DROPPED : Fd := ⟨.CORE_SY_STAT, 63, 48, .rc, false, 0x0⟩
def F.CORE_SY_STAT.SIG_OVERFLOW : Fd := ⟨.CORE_SY_STAT, 47, 32, .rc, false, 0x0⟩
def F.CORE_SY_STAT.DEC_UNDERFLOW : Fd := ⟨.CORE_SY_STAT, 31, 16, .rc, false, 0x0⟩
def F.CORE_WDOG.PERIOD_US : Fd := ⟨.CORE_WDOG, 52, 32, .ro, false, 0x186A0⟩
def F.CORE_WDOG.FIRED : Fd := ⟨.CORE_WDOG, 24, 24, .ro, false, 0x0⟩
def F.CORE_WDOG.WAITING : Fd := ⟨.CORE_WDOG, 20, 16, .ro, false, 0x0⟩
def F.CORE_WDOG.ENGINE : Fd := ⟨.CORE_WDOG, 10, 8, .ro, false, 0x0⟩
def F.CORE_WDOG.SEM : Fd := ⟨.CORE_WDOG, 5, 0, .ro, false, 0x0⟩
def F.CORE_NUM_CNT.RANGE : Fd := ⟨.CORE_NUM_CNT, 63, 32, .rc, false, 0x0⟩
def F.CORE_NUM_BRK0.B_OVERFLOW : Fd := ⟨.CORE_NUM_BRK0, 63, 32, .ro, false, 0x0⟩
def F.CORE_NUM_BRK0.B_NONFINITE : Fd := ⟨.CORE_NUM_BRK0, 31, 0, .ro, false, 0x0⟩
def F.CORE_NUM_BRK1.B_UNDERFLOW : Fd := ⟨.CORE_NUM_BRK1, 63, 32, .ro, false, 0x0⟩
def F.CORE_NUM_BRK1.B_RANGE : Fd := ⟨.CORE_NUM_BRK1, 31, 0, .ro, false, 0x0⟩
def F.CORE_NUM_BRK2.OVF_RANK : Fd := ⟨.CORE_NUM_BRK2, 10, 9, .ro, false, 0x0⟩
def F.CORE_NUM_BRK2.TOUCHED : Fd := ⟨.CORE_NUM_BRK2, 8, 0, .ro, false, 0x0⟩
def F.CORE_SCT_IDX.WORD : Fd := ⟨.CORE_SCT_IDX, 11, 8, .rw, false, 0x0⟩
def F.CORE_SCT_IDX.TID : Fd := ⟨.CORE_SCT_IDX, 7, 0, .rw, false, 0x0⟩
def F.CORE_SEM0.SEM3 : Fd := ⟨.CORE_SEM0, 63, 48, .ro, false, 0x0⟩
def F.CORE_SEM0.SEM2 : Fd := ⟨.CORE_SEM0, 47, 32, .ro, false, 0x0⟩
def F.CORE_SEM0.SEM1 : Fd := ⟨.CORE_SEM0, 31, 16, .ro, false, 0x0⟩
def F.CORE_SEM0.SEM0 : Fd := ⟨.CORE_SEM0, 15, 0, .ro, false, 0x0⟩
def F.CORE_SEM1.SEM3 : Fd := ⟨.CORE_SEM1, 63, 48, .ro, false, 0x0⟩
def F.CORE_SEM1.SEM2 : Fd := ⟨.CORE_SEM1, 47, 32, .ro, false, 0x0⟩
def F.CORE_SEM1.SEM1 : Fd := ⟨.CORE_SEM1, 31, 16, .ro, false, 0x0⟩
def F.CORE_SEM1.SEM0 : Fd := ⟨.CORE_SEM1, 15, 0, .ro, false, 0x0⟩
def F.CORE_SEM2.SEM3 : Fd := ⟨.CORE_SEM2, 63, 48, .ro, false, 0x0⟩
def F.CORE_SEM2.SEM2 : Fd := ⟨.CORE_SEM2, 47, 32, .ro, false, 0x0⟩
def F.CORE_SEM2.SEM1 : Fd := ⟨.CORE_SEM2, 31, 16, .ro, false, 0x0⟩
def F.CORE_SEM2.SEM0 : Fd := ⟨.CORE_SEM2, 15, 0, .ro, false, 0x0⟩
def F.CORE_SEM3.SEM3 : Fd := ⟨.CORE_SEM3, 63, 48, .ro, false, 0x0⟩
def F.CORE_SEM3.SEM2 : Fd := ⟨.CORE_SEM3, 47, 32, .ro, false, 0x0⟩
def F.CORE_SEM3.SEM1 : Fd := ⟨.CORE_SEM3, 31, 16, .ro, false, 0x0⟩
def F.CORE_SEM3.SEM0 : Fd := ⟨.CORE_SEM3, 15, 0, .ro, false, 0x0⟩
def F.CORE_SEM4.SEM3 : Fd := ⟨.CORE_SEM4, 63, 48, .ro, false, 0x0⟩
def F.CORE_SEM4.SEM2 : Fd := ⟨.CORE_SEM4, 47, 32, .ro, false, 0x0⟩
def F.CORE_SEM4.SEM1 : Fd := ⟨.CORE_SEM4, 31, 16, .ro, false, 0x0⟩
def F.CORE_SEM4.SEM0 : Fd := ⟨.CORE_SEM4, 15, 0, .ro, false, 0x0⟩
def F.CORE_SEM5.SEM3 : Fd := ⟨.CORE_SEM5, 63, 48, .ro, false, 0x0⟩
def F.CORE_SEM5.SEM2 : Fd := ⟨.CORE_SEM5, 47, 32, .ro, false, 0x0⟩
def F.CORE_SEM5.SEM1 : Fd := ⟨.CORE_SEM5, 31, 16, .ro, false, 0x0⟩
def F.CORE_SEM5.SEM0 : Fd := ⟨.CORE_SEM5, 15, 0, .ro, false, 0x0⟩
def F.CORE_SEM6.SEM3 : Fd := ⟨.CORE_SEM6, 63, 48, .ro, false, 0x0⟩
def F.CORE_SEM6.SEM2 : Fd := ⟨.CORE_SEM6, 47, 32, .ro, false, 0x0⟩
def F.CORE_SEM6.SEM1 : Fd := ⟨.CORE_SEM6, 31, 16, .ro, false, 0x0⟩
def F.CORE_SEM6.SEM0 : Fd := ⟨.CORE_SEM6, 15, 0, .ro, false, 0x0⟩
def F.CORE_SEM7.SEM3 : Fd := ⟨.CORE_SEM7, 63, 48, .ro, false, 0x0⟩
def F.CORE_SEM7.SEM2 : Fd := ⟨.CORE_SEM7, 47, 32, .ro, false, 0x0⟩
def F.CORE_SEM7.SEM1 : Fd := ⟨.CORE_SEM7, 31, 16, .ro, false, 0x0⟩
def F.CORE_SEM7.SEM0 : Fd := ⟨.CORE_SEM7, 15, 0, .ro, false, 0x0⟩
def F.CORE_SEM8.SEM3 : Fd := ⟨.CORE_SEM8, 63, 48, .ro, false, 0x0⟩
def F.CORE_SEM8.SEM2 : Fd := ⟨.CORE_SEM8, 47, 32, .ro, false, 0x0⟩
def F.CORE_SEM8.SEM1 : Fd := ⟨.CORE_SEM8, 31, 16, .ro, false, 0x0⟩
def F.CORE_SEM8.SEM0 : Fd := ⟨.CORE_SEM8, 15, 0, .ro, false, 0x0⟩
def F.CORE_SEM9.SEM3 : Fd := ⟨.CORE_SEM9, 63, 48, .ro, false, 0x0⟩
def F.CORE_SEM9.SEM2 : Fd := ⟨.CORE_SEM9, 47, 32, .ro, false, 0x0⟩
def F.CORE_SEM9.SEM1 : Fd := ⟨.CORE_SEM9, 31, 16, .ro, false, 0x0⟩
def F.CORE_SEM9.SEM0 : Fd := ⟨.CORE_SEM9, 15, 0, .ro, false, 0x0⟩
def F.CORE_SEM10.SEM3 : Fd := ⟨.CORE_SEM10, 63, 48, .ro, false, 0x0⟩
def F.CORE_SEM10.SEM2 : Fd := ⟨.CORE_SEM10, 47, 32, .ro, false, 0x0⟩
def F.CORE_SEM10.SEM1 : Fd := ⟨.CORE_SEM10, 31, 16, .ro, false, 0x0⟩
def F.CORE_SEM10.SEM0 : Fd := ⟨.CORE_SEM10, 15, 0, .ro, false, 0x0⟩
def F.CORE_SEM11.SEM3 : Fd := ⟨.CORE_SEM11, 63, 48, .ro, false, 0x0⟩
def F.CORE_SEM11.SEM2 : Fd := ⟨.CORE_SEM11, 47, 32, .ro, false, 0x0⟩
def F.CORE_SEM11.SEM1 : Fd := ⟨.CORE_SEM11, 31, 16, .ro, false, 0x0⟩
def F.CORE_SEM11.SEM0 : Fd := ⟨.CORE_SEM11, 15, 0, .ro, false, 0x0⟩
def F.CORE_SEM12.SEM3 : Fd := ⟨.CORE_SEM12, 63, 48, .ro, false, 0x0⟩
def F.CORE_SEM12.SEM2 : Fd := ⟨.CORE_SEM12, 47, 32, .ro, false, 0x0⟩
def F.CORE_SEM12.SEM1 : Fd := ⟨.CORE_SEM12, 31, 16, .ro, false, 0x0⟩
def F.CORE_SEM12.SEM0 : Fd := ⟨.CORE_SEM12, 15, 0, .ro, false, 0x0⟩
def F.CORE_SEM13.SEM3 : Fd := ⟨.CORE_SEM13, 63, 48, .ro, false, 0x0⟩
def F.CORE_SEM13.SEM2 : Fd := ⟨.CORE_SEM13, 47, 32, .ro, false, 0x0⟩
def F.CORE_SEM13.SEM1 : Fd := ⟨.CORE_SEM13, 31, 16, .ro, false, 0x0⟩
def F.CORE_SEM13.SEM0 : Fd := ⟨.CORE_SEM13, 15, 0, .ro, false, 0x0⟩
def F.CORE_SEM14.SEM3 : Fd := ⟨.CORE_SEM14, 63, 48, .ro, false, 0x0⟩
def F.CORE_SEM14.SEM2 : Fd := ⟨.CORE_SEM14, 47, 32, .ro, false, 0x0⟩
def F.CORE_SEM14.SEM1 : Fd := ⟨.CORE_SEM14, 31, 16, .ro, false, 0x0⟩
def F.CORE_SEM14.SEM0 : Fd := ⟨.CORE_SEM14, 15, 0, .ro, false, 0x0⟩
def F.CORE_SEM15.SEM3 : Fd := ⟨.CORE_SEM15, 63, 48, .ro, false, 0x0⟩
def F.CORE_SEM15.SEM2 : Fd := ⟨.CORE_SEM15, 47, 32, .ro, false, 0x0⟩
def F.CORE_SEM15.SEM1 : Fd := ⟨.CORE_SEM15, 31, 16, .ro, false, 0x0⟩
def F.CORE_SEM15.SEM0 : Fd := ⟨.CORE_SEM15, 15, 0, .ro, false, 0x0⟩
def F.CORE_SCT_DATA.DATA : Fd := ⟨.CORE_SCT_DATA, 63, 0, .rw, false, 0x0⟩
def F.CLAP_TIME.TIME : Fd := ⟨.CLAP_TIME, 63, 0, .ro, false, 0x0⟩
def F.CLAP_CFG.PERIOD_US : Fd := ⟨.CLAP_CFG, 47, 32, .rw, true, 0x3E8⟩
def F.CLAP_CFG.MISS : Fd := ⟨.CLAP_CFG, 31, 24, .rw, true, 0x4⟩
def F.CLAP_CFG.STBY_PORT : Fd := ⟨.CLAP_CFG, 20, 16, .rw, true, 0x1F⟩
def F.CLAP_CFG.LEAD_PORT : Fd := ⟨.CLAP_CFG, 12, 8, .rw, true, 0x1F⟩
def F.CLAP_CFG.TIME_FOLLOW : Fd := ⟨.CLAP_CFG, 0, 0, .rw, true, 0x0⟩
def F.CLAP_STAT.STATE : Fd := ⟨.CLAP_STAT, 63, 62, .ro, false, 0x0⟩
def F.CLAP_STAT.PARENT : Fd := ⟨.CLAP_STAT, 61, 57, .ro, false, 0x1F⟩
def F.CLAP_STAT.DELAY : Fd := ⟨.CLAP_STAT, 47, 32, .ro, false, 0x0⟩
def F.CLAP_STAT.SLEWS : Fd := ⟨.CLAP_STAT, 31, 16, .rc, false, 0x0⟩
def F.CLAP_STAT.OFFSET : Fd := ⟨.CLAP_STAT, 15, 0, .ro, false, 0x0⟩
def F.CLAP_ROLE.ROLE : Fd := ⟨.CLAP_ROLE, 63, 62, .ro, true, 0x0⟩
def F.CLAP_ROLE.STANDBY : Fd := ⟨.CLAP_ROLE, 61, 61, .ro, true, 0x0⟩
def F.CLAP_ROLE.TOP_STBY : Fd := ⟨.CLAP_ROLE, 60, 60, .ro, true, 0x0⟩
def F.CLAP_ROLE.TOP_ID : Fd := ⟨.CLAP_ROLE, 59, 48, .ro, true, 0x0⟩
def F.CLAP_ROLE.LEAD_ID : Fd := ⟨.CLAP_ROLE, 47, 36, .ro, true, 0x0⟩
def F.CLAP_ROLE.EPOCH : Fd := ⟨.CLAP_ROLE, 31, 16, .ro, false, 0x0⟩
def F.CLAP_ROLE_CFG.TOP_STANDBY_ID : Fd := ⟨.CLAP_ROLE_CFG, 47, 36, .ro, true, 0x0⟩
def F.CLAP_ROLE_CFG.TOP_ID : Fd := ⟨.CLAP_ROLE_CFG, 35, 24, .ro, true, 0x0⟩
def F.CLAP_ROLE_CFG.STANDBY_ID : Fd := ⟨.CLAP_ROLE_CFG, 23, 12, .ro, true, 0x0⟩
def F.CLAP_ROLE_CFG.LEAD_ID : Fd := ⟨.CLAP_ROLE_CFG, 11, 0, .ro, true, 0x0⟩
def F.CLAP_CONT_CFG.DEADLINE_MS : Fd := ⟨.CLAP_CONT_CFG, 63, 48, .rw, true, 0x7D0⟩
def F.CLAP_CONT_CFG.MARGIN : Fd := ⟨.CLAP_CONT_CFG, 11, 8, .rw, true, 0x2⟩
def F.CLAP_CONT_CFG.K : Fd := ⟨.CLAP_CONT_CFG, 6, 0, .rw, true, 0x8⟩
def F.CLAP_CONT_SELF.VALID : Fd := ⟨.CLAP_CONT_SELF, 63, 63, .ro, true, 0x0⟩
def F.CLAP_CONT_SELF.SET : Fd := ⟨.CLAP_CONT_SELF, 43, 32, .ro, true, 0x0⟩
def F.CLAP_CONT_SELF.REPLICA : Fd := ⟨.CLAP_CONT_SELF, 23, 16, .ro, true, 0x0⟩
def F.CLAP_CONT_SELF.REPLICAS_M1 : Fd := ⟨.CLAP_CONT_SELF, 7, 0, .ro, true, 0x0⟩
def F.CLAP_CONT_RGRP.RGRP : Fd := ⟨.CLAP_CONT_RGRP, 63, 0, .rw, true, 0x0⟩
def F.CLAP_CONT_RLIST.COUNT : Fd := ⟨.CLAP_CONT_RLIST, 63, 48, .rw, false, 0x0⟩
def F.CLAP_CONT_RLIST.ADDR : Fd := ⟨.CLAP_CONT_RLIST, 47, 12, .rw, false, 0x0⟩
def F.CLAP_CONT_STATE.STATE : Fd := ⟨.CLAP_CONT_STATE, 63, 61, .ro, false, 0x0⟩
def F.CLAP_CONT_STATE.ACTIVE : Fd := ⟨.CLAP_CONT_STATE, 60, 52, .ro, true, 0x0⟩
def F.CLAP_CONT_STATE.CONTRIB : Fd := ⟨.CLAP_CONT_STATE, 51, 43, .ro, true, 0x0⟩
def F.CLAP_CONT_LAST.STEP : Fd := ⟨.CLAP_CONT_LAST, 63, 0, .ro, false, 0x0⟩
def F.CLAP_CONT_STAT.CHECKS : Fd := ⟨.CLAP_CONT_STAT, 63, 48, .rc, false, 0x0⟩
def F.CLAP_CONT_STAT.DISAGREE : Fd := ⟨.CLAP_CONT_STAT, 47, 32, .rc, false, 0x0⟩
def F.CLAP_CONT_STAT.OUTS : Fd := ⟨.CLAP_CONT_STAT, 31, 16, .rc, false, 0x0⟩
def F.CLAP_CONT_STAT.REJOINS : Fd := ⟨.CLAP_CONT_STAT, 15, 0, .rc, false, 0x0⟩
def F.GAFF_CFG.SUSTAIN_W : Fd := ⟨.GAFF_CFG, 63, 48, .rw, true, 0xC80⟩
def F.GAFF_CFG.BURST_W : Fd := ⟨.GAFF_CFG, 47, 32, .rw, true, 0xED8⟩
def F.GAFF_CFG.FLOOR_W : Fd := ⟨.GAFF_CFG, 31, 16, .rw, true, 0x960⟩
def F.GAFF_CFG.BRAKE_LEVEL : Fd := ⟨.GAFF_CFG, 13, 8, .rw, true, 0x30⟩
def F.GAFF_CFG.RAMP_ARRAYS : Fd := ⟨.GAFF_CFG, 7, 0, .rw, true, 0x30⟩
def F.GAFF_POWER.P1_W : Fd := ⟨.GAFF_POWER, 63, 48, .ro, false, 0x0⟩
def F.GAFF_POWER.P10_W : Fd := ⟨.GAFF_POWER, 47, 32, .ro, false, 0x0⟩
def F.GAFF_POWER.PNOW_W : Fd := ⟨.GAFF_POWER, 31, 16, .ro, false, 0x0⟩
def F.GAFF_POWER.LEVEL : Fd := ⟨.GAFF_POWER, 5, 0, .ro, false, 0x0⟩
def F.GAFF_THR_STAT.THROTTLE_US : Fd := ⟨.GAFF_THR_STAT, 63, 32, .rc, false, 0x0⟩
def F.GAFF_THR_STAT.EPISODES : Fd := ⟨.GAFF_THR_STAT, 31, 16, .rc, false, 0x0⟩
def F.GAFF_THR_STAT.BRAKES : Fd := ⟨.GAFF_THR_STAT, 15, 0, .rc, false, 0x0⟩
def F.GAFF_TEMP_CFG.TJ_WARN : Fd := ⟨.GAFF_TEMP_CFG, 15, 8, .rw, true, 0x64⟩
def F.GAFF_TEMP_CFG.STACK_WARN : Fd := ⟨.GAFF_TEMP_CFG, 7, 0, .rw, true, 0x5A⟩
def F.GAFF_TEMP.STACK : Fd := ⟨.GAFF_TEMP, 47, 40, .ro, false, 0x0⟩
def F.GAFF_TEMP.HUB : Fd := ⟨.GAFF_TEMP, 39, 32, .ro, false, 0x0⟩
def F.GAFF_TEMP.VAT : Fd := ⟨.GAFF_TEMP, 31, 0, .ro, false, 0x0⟩
def F.GAFF_TJ_AVG.HOURS : Fd := ⟨.GAFF_TJ_AVG, 63, 32, .ro, false, 0x0⟩
def F.GAFF_TJ_AVG.AVG : Fd := ⟨.GAFF_TJ_AVG, 15, 0, .ro, false, 0x0⟩
def F.GAFF_GPIO.ALERT_L : Fd := ⟨.GAFF_GPIO, 31, 26, .rw, true, 0x20⟩
def F.GAFF_GPIO.M2_CONFLICT : Fd := ⟨.GAFF_GPIO, 11, 11, .ro, false, 0x0⟩
def F.GAFF_GPIO.ALERT_EN : Fd := ⟨.GAFF_GPIO, 10, 10, .rw, true, 0x0⟩
def F.GAFF_GPIO.TIME_EN : Fd := ⟨.GAFF_GPIO, 9, 9, .rw, true, 0x0⟩
def F.GAFF_GPIO.M3_OUT : Fd := ⟨.GAFF_GPIO, 8, 8, .rw, false, 0x0⟩
def F.GAFF_GPIO.PINS : Fd := ⟨.GAFF_GPIO, 3, 0, .ro, false, 0x0⟩
def F.LOG_SEL.FIFO : Fd := ⟨.LOG_SEL, 1, 0, .rw, false, 0x0⟩
def F.LOG_FIFO_CFG.DEPTH : Fd := ⟨.LOG_FIFO_CFG, 63, 40, .ro, false, 0x0⟩
def F.LOG_FIFO_CFG.LEVEL : Fd := ⟨.LOG_FIFO_CFG, 22, 0, .rw, true, 0x0⟩
def F.LOG_FIFO_STAT.LOST : Fd := ⟨.LOG_FIFO_STAT, 63, 32, .rc, false, 0x0⟩
def F.LOG_FIFO_STAT.IRQ : Fd := ⟨.LOG_FIFO_STAT, 31, 31, .w1c, false, 0x0⟩
def F.LOG_FIFO_STAT.COUNT : Fd := ⟨.LOG_FIFO_STAT, 22, 0, .ro, false, 0x0⟩
def F.LOG_FIFO_DATA.WORD : Fd := ⟨.LOG_FIFO_DATA, 63, 0, .rc, false, 0x0⟩
def F.LOG_TRACE_CFG.DAILIES_KIB : Fd := ⟨.LOG_TRACE_CFG, 31, 16, .ro, true, 0x4000⟩
def F.LOG_TRACE_CFG.DBG_KIB : Fd := ⟨.LOG_TRACE_CFG, 15, 0, .ro, false, 0x0⟩
def F.LOG_TRACE_CTL.STOP_FULL : Fd := ⟨.LOG_TRACE_CTL, 1, 1, .rw, true, 0x0⟩
def F.LOG_TRACE_CTL.EN : Fd := ⟨.LOG_TRACE_CTL, 0, 0, .rw, true, 0x1⟩
def F.LOG_TRACE_PTR.DROPPED : Fd := ⟨.LOG_TRACE_PTR, 63, 32, .rc, false, 0x0⟩
def F.LOG_TRACE_PTR.WRAPPED : Fd := ⟨.LOG_TRACE_PTR, 31, 31, .ro, false, 0x0⟩
def F.LOG_TRACE_PTR.NEXT : Fd := ⟨.LOG_TRACE_PTR, 20, 0, .ro, false, 0x0⟩
def F.COLL_SEL.POS : Fd := ⟨.COLL_SEL, 15, 8, .rw, false, 0x0⟩
def F.COLL_SEL.GROUP : Fd := ⟨.COLL_SEL, 5, 0, .rw, false, 0x0⟩
def F.COLL_GRP_CFG.VALID : Fd := ⟨.COLL_GRP_CFG, 63, 63, .ro, false, 0x0⟩
def F.COLL_GRP_CFG.LEVEL : Fd := ⟨.COLL_GRP_CFG, 56, 56, .rw, false, 0x0⟩
def F.COLL_GRP_CFG.NM1 : Fd := ⟨.COLL_GRP_CFG, 55, 48, .rw, false, 0x0⟩
def F.COLL_GRP_CFG.OWN_POS : Fd := ⟨.COLL_GRP_CFG, 47, 40, .rw, false, 0x0⟩
def F.COLL_GRP_CFG.DIRECTOR : Fd := ⟨.COLL_GRP_CFG, 24, 16, .rw, false, 0x0⟩
def F.COLL_GRP_CFG.RECV_SEM : Fd := ⟨.COLL_GRP_CFG, 5, 0, .rw, false, 0x0⟩
def F.COLL_GRP_MEMBER.PKG_ID : Fd := ⟨.COLL_GRP_MEMBER, 11, 0, .rw, false, 0x0⟩
def F.COLL_GRP_ACTIVE0.ACTIVE : Fd := ⟨.COLL_GRP_ACTIVE0, 63, 0, .rw, false, 0x0⟩
def F.COLL_GRP_ACTIVE1.ACTIVE : Fd := ⟨.COLL_GRP_ACTIVE1, 63, 0, .rw, false, 0x0⟩
def F.COLL_GRP_ACTIVE2.ACTIVE : Fd := ⟨.COLL_GRP_ACTIVE2, 63, 0, .rw, false, 0x0⟩
def F.COLL_GRP_ACTIVE3.ACTIVE : Fd := ⟨.COLL_GRP_ACTIVE3, 63, 0, .rw, false, 0x0⟩
def F.COLL_GRP_STATE.SEQ_NEXT : Fd := ⟨.COLL_GRP_STATE, 63, 32, .rw, false, 0x0⟩
def F.COLL_GRP_STATE.STATE : Fd := ⟨.COLL_GRP_STATE, 17, 16, .ro, false, 0x0⟩
def F.COLL_GRP_STATE.ARRIVED : Fd := ⟨.COLL_GRP_STATE, 15, 0, .ro, false, 0x0⟩
def F.COLL_GRP_DIGEST.DIGEST : Fd := ⟨.COLL_GRP_DIGEST, 63, 0, .ro, false, 0x0⟩
def F.COLL_LATE.ARRIVED : Fd := ⟨.COLL_LATE, 63, 63, .ro, false, 0x0⟩
def F.COLL_LATE.TIME : Fd := ⟨.COLL_LATE, 62, 0, .ro, false, 0x0⟩
def F.COLL_CFG.LATE_NS : Fd := ⟨.COLL_CFG, 31, 0, .rw, true, 0x1388⟩
def F.COLL_STAT.RAISED : Fd := ⟨.COLL_STAT, 63, 48, .rc, false, 0x0⟩
def F.COLL_STAT.RECEIVED : Fd := ⟨.COLL_STAT, 47, 32, .rc, false, 0x0⟩
def F.COLL_STAT.DROPS : Fd := ⟨.COLL_STAT, 31, 16, .rc, false, 0x0⟩
def F.COLL_STAT.LATE_LOST : Fd := ⟨.COLL_STAT, 15, 0, .rc, false, 0x0⟩
def F.REL_SEL.VAT : Fd := ⟨.REL_SEL, 1, 0, .rw, false, 0x0⟩
def F.REL_CFG.WDOG_HOLD_MS : Fd := ⟨.REL_CFG, 63, 48, .rw, true, 0xC8⟩
def F.REL_CFG.FW_MISS_MS : Fd := ⟨.REL_CFG, 47, 32, .rw, true, 0xC8⟩
def F.REL_CFG.SUP_WINDOW_S : Fd := ⟨.REL_CFG, 31, 16, .rw, true, 0x258⟩
def F.REL_CFG.SUP_MS : Fd := ⟨.REL_CFG, 15, 6, .rw, true, 0x64⟩
def F.REL_CFG.MODE : Fd := ⟨.REL_CFG, 0, 0, .ro, true, 0x0⟩
def F.REL_STAT.CONTAIN_RESETS : Fd := ⟨.REL_STAT, 63, 48, .rc, false, 0x0⟩
def F.REL_STAT.POISON : Fd := ⟨.REL_STAT, 47, 32, .rc, false, 0x0⟩
def F.REL_STAT.MP_RESTARTS : Fd := ⟨.REL_STAT, 31, 16, .rc, false, 0x0⟩
def F.REL_STAT.MP_CE : Fd := ⟨.REL_STAT, 15, 0, .rc, false, 0x0⟩
def F.REL_UE.FULL : Fd := ⟨.REL_UE, 8, 8, .ro, false, 0x0⟩
def F.REL_UE.COUNT : Fd := ⟨.REL_UE, 6, 0, .ro, false, 0x0⟩
def F.REL_SCAN.RESULT : Fd := ⟨.REL_SCAN, 63, 60, .ro, false, 0x0⟩
def F.REL_SCAN.FAIL_UNIT : Fd := ⟨.REL_SCAN, 51, 48, .ro, false, 0x0⟩
def F.REL_SCAN.RETIRED : Fd := ⟨.REL_SCAN, 44, 40, .ro, false, 0x0⟩
def F.REL_SCAN.SCANS : Fd := ⟨.REL_SCAN, 39, 32, .ro, false, 0x0⟩
def F.REL_SCAN.DURATION_US : Fd := ⟨.REL_SCAN, 31, 0, .ro, false, 0x0⟩
def F.REL_SUP.HEARTBEAT : Fd := ⟨.REL_SUP, 63, 32, .ro, false, 0x0⟩
def F.REL_SUP.TIME_LEFT_MS : Fd := ⟨.REL_SUP, 25, 16, .ro, false, 0x0⟩
def F.REL_SUP.RESTARTS_WIN : Fd := ⟨.REL_SUP, 7, 0, .ro, false, 0x0⟩
def F.NUM_GRP_SEL.GROUP : Fd := ⟨.NUM_GRP_SEL, 7, 0, .rw, false, 0x0⟩
def F.NUM_GRP_DIR.VALID : Fd := ⟨.NUM_GRP_DIR, 63, 63, .ro, false, 0x0⟩
def F.NUM_GRP_DIR.DIRECTOR : Fd := ⟨.NUM_GRP_DIR, 8, 0, .rw, false, 0x0⟩
def F.NUM_GRP_MASK0.MEMBERS : Fd := ⟨.NUM_GRP_MASK0, 63, 0, .rw, false, 0x0⟩
def F.NUM_GRP_MASK1.MEMBERS : Fd := ⟨.NUM_GRP_MASK1, 63, 0, .rw, false, 0x0⟩
def F.NUM_GRP_MASK2.MEMBERS : Fd := ⟨.NUM_GRP_MASK2, 63, 0, .rw, false, 0x0⟩
def F.NUM_GRP_MASK3.MEMBERS : Fd := ⟨.NUM_GRP_MASK3, 63, 0, .rw, false, 0x0⟩
def F.NUM_GRP_MASK4.MEMBERS : Fd := ⟨.NUM_GRP_MASK4, 63, 0, .rw, false, 0x0⟩
def F.NUM_GRP_MASK5.MEMBERS : Fd := ⟨.NUM_GRP_MASK5, 63, 0, .rw, false, 0x0⟩
def F.NUM_TCFG_ADDR.ADDR : Fd := ⟨.NUM_TCFG_ADDR, 47, 12, .rw, false, 0x0⟩
def F.NUM_LOSS_CFG.K : Fd := ⟨.NUM_LOSS_CFG, 63, 32, .rw, true, 0x40C00000⟩
def F.NUM_LOSS_CFG.SRC : Fd := ⟨.NUM_LOSS_CFG, 31, 23, .rw, true, 0x0⟩
def F.NUM_LOSS_CFG.WARMUP : Fd := ⟨.NUM_LOSS_CFG, 22, 16, .rw, true, 0x10⟩
def F.NUM_LOSS_CFG.ALPHA : Fd := ⟨.NUM_LOSS_CFG, 11, 8, .rw, true, 0x6⟩
def F.NUM_LOSS_CFG.EN : Fd := ⟨.NUM_LOSS_CFG, 1, 1, .rw, true, 0x0⟩
def F.NUM_LOSS_CFG.SKIP_ON_SPIKE : Fd := ⟨.NUM_LOSS_CFG, 0, 0, .rw, true, 0x0⟩
def F.NUM_LOSS_STATE.VAR : Fd := ⟨.NUM_LOSS_STATE, 63, 32, .rw, false, 0x0⟩
def F.NUM_LOSS_STATE.MEAN : Fd := ⟨.NUM_LOSS_STATE, 31, 0, .rw, false, 0x0⟩
def F.NUM_LOSS_STAT.LAST : Fd := ⟨.NUM_LOSS_STAT, 63, 32, .ro, false, 0x0⟩
def F.NUM_LOSS_STAT.SPIKES : Fd := ⟨.NUM_LOSS_STAT, 31, 16, .rc, false, 0x0⟩
def F.NUM_LOSS_STAT.SAMPLES : Fd := ⟨.NUM_LOSS_STAT, 15, 8, .ro, false, 0x0⟩
def F.NUM_LOSS_STAT.NF_LAST : Fd := ⟨.NUM_LOSS_STAT, 1, 1, .ro, false, 0x0⟩
def F.NUM_LOSS_STAT.SPIKE_LAST : Fd := ⟨.NUM_LOSS_STAT, 0, 0, .ro, false, 0x0⟩
def F.NUM_LOSS_STEP.STEP : Fd := ⟨.NUM_LOSS_STEP, 63, 0, .ro, false, 0x0⟩
def F.NUM_STAT.RETAKE_LOST : Fd := ⟨.NUM_STAT, 63, 48, .rc, false, 0x0⟩
def F.NUM_STAT.HELD : Fd := ⟨.NUM_STAT, 47, 32, .rc, false, 0x0⟩
def F.NUM_STAT.TOP : Fd := ⟨.NUM_STAT, 31, 16, .rc, false, 0x0⟩
def F.NUM_STAT.RETAKES : Fd := ⟨.NUM_STAT, 15, 0, .rc, false, 0x0⟩
def F.NUM_LOSS_SAMPLES.SAMPLES : Fd := ⟨.NUM_LOSS_SAMPLES, 7, 0, .rw, false, 0x0⟩
def F.FW_BUILD.BUILD : Fd := ⟨.FW_BUILD, 63, 0, .ro, false, 0x0⟩
def F.FW_REJECT.REJ_BUILD : Fd := ⟨.FW_REJECT, 63, 0, .ro, false, 0x0⟩

/-- The fields of a register; bits outside them are Reserved and read as 0 (R12). -/
def Reg.fields : Reg → List Fd
  | .TOP_ID => [F.TOP_ID.NR1_REV, F.TOP_ID.GX2_REV, F.TOP_ID.GUEST, F.TOP_ID.VAT_MASK, F.TOP_ID.GRADE]
  | .TOP_CAPS_HUB => [F.TOP_CAPS_HUB.PROTO, F.TOP_CAPS_HUB.RATE, F.TOP_CAPS_HUB.RIND_PASS, F.TOP_CAPS_HUB.TC0_RES, F.TOP_CAPS_HUB.CLAP_FWD, F.TOP_CAPS_HUB.ATOM_FWD, F.TOP_CAPS_HUB.RUN_REPAIR, F.TOP_CAPS_HUB.HALF_WIDTH, F.TOP_CAPS_HUB.PART_RESET, F.TOP_CAPS_HUB.POISON]
  | .TOP_CAPS_GX0 => [F.TOP_CAPS_GX0.PROTO, F.TOP_CAPS_GX0.RATE, F.TOP_CAPS_GX0.RIND_PASS, F.TOP_CAPS_GX0.TC0_RES, F.TOP_CAPS_GX0.CLAP_FWD, F.TOP_CAPS_GX0.ATOM_FWD, F.TOP_CAPS_GX0.RUN_REPAIR, F.TOP_CAPS_GX0.HALF_WIDTH, F.TOP_CAPS_GX0.PART_RESET, F.TOP_CAPS_GX0.POISON]
  | .TOP_CAPS_GX1 => [F.TOP_CAPS_GX1.PROTO, F.TOP_CAPS_GX1.RATE, F.TOP_CAPS_GX1.RIND_PASS, F.TOP_CAPS_GX1.TC0_RES, F.TOP_CAPS_GX1.CLAP_FWD, F.TOP_CAPS_GX1.ATOM_FWD, F.TOP_CAPS_GX1.RUN_REPAIR, F.TOP_CAPS_GX1.HALF_WIDTH, F.TOP_CAPS_GX1.PART_RESET, F.TOP_CAPS_GX1.POISON]
  | .TOP_CAPS_GX2 => [F.TOP_CAPS_GX2.PROTO, F.TOP_CAPS_GX2.RATE, F.TOP_CAPS_GX2.RIND_PASS, F.TOP_CAPS_GX2.TC0_RES, F.TOP_CAPS_GX2.CLAP_FWD, F.TOP_CAPS_GX2.ATOM_FWD, F.TOP_CAPS_GX2.RUN_REPAIR, F.TOP_CAPS_GX2.HALF_WIDTH, F.TOP_CAPS_GX2.PART_RESET, F.TOP_CAPS_GX2.POISON]
  | .TOP_CAPS_GX3 => [F.TOP_CAPS_GX3.PROTO, F.TOP_CAPS_GX3.RATE, F.TOP_CAPS_GX3.RIND_PASS, F.TOP_CAPS_GX3.TC0_RES, F.TOP_CAPS_GX3.CLAP_FWD, F.TOP_CAPS_GX3.ATOM_FWD, F.TOP_CAPS_GX3.RUN_REPAIR, F.TOP_CAPS_GX3.HALF_WIDTH, F.TOP_CAPS_GX3.PART_RESET, F.TOP_CAPS_GX3.POISON]
  | .TOP_CAPS_EFF => [F.TOP_CAPS_EFF.PROTO, F.TOP_CAPS_EFF.RATE, F.TOP_CAPS_EFF.RIND_PASS, F.TOP_CAPS_EFF.TC0_RES, F.TOP_CAPS_EFF.CLAP_FWD, F.TOP_CAPS_EFF.ATOM_FWD, F.TOP_CAPS_EFF.RUN_REPAIR, F.TOP_CAPS_EFF.HALF_WIDTH, F.TOP_CAPS_EFF.PART_RESET, F.TOP_CAPS_EFF.POISON]
  | .TOP_VAT_STATE => [F.TOP_VAT_STATE.RESETS, F.TOP_VAT_STATE.STATE]
  | .TOP_VAT_RESET => [F.TOP_VAT_RESET.SCAN, F.TOP_VAT_RESET.CAUSE, F.TOP_VAT_RESET.VAT]
  | .CFG_BOOT => [F.CFG_BOOT.PHASE, F.CFG_BOOT.FAIL, F.CFG_BOOT.PROMOTED, F.CFG_BOOT.READY_MS]
  | .CFG_REC => [F.CFG_REC.SEQ]
  | .CFG_STAT => [F.CFG_STAT.IGNORED, F.CFG_STAT.APPLIED, F.CFG_STAT.MAP, F.CFG_STAT.ETH_DEF, F.CFG_STAT.DBG_OFF, F.CFG_STAT.SLOT]
  | .CFG_DIR => [F.CFG_DIR.ERASE, F.CFG_DIR.ACTIVE, F.CFG_DIR.FW, F.CFG_DIR.DSEQ]
  | .CFG_FLASH => [F.CFG_FLASH.SIZE_MIB, F.CFG_FLASH.SCAN_MIB]
  | .SEC_BOOT => [F.SEC_BOOT.FW_SVN, F.SEC_BOOT.MIN_SVN, F.SEC_BOOT.IMAGE, F.SEC_BOOT.BOOT_ID]
  | .SEC_SERIAL => [F.SEC_SERIAL.SERIAL]
  | .SEC_CTR => [F.SEC_CTR.COUNTER]
  | .SEC_STATE => [F.SEC_STATE.ATTESTS, F.SEC_STATE.OWNER_OK, F.SEC_STATE.KEY_OK, F.SEC_STATE.KEY_BUSY]
  | .SEC_DROP => [F.SEC_DROP.MAC, F.SEC_DROP.COUNTER, F.SEC_DROP.FORMAT, F.SEC_DROP.QUEUE, F.SEC_DROP.NO_KEY]
  | .SEC_NOTICE => [F.SEC_NOTICE.SENT, F.SEC_NOTICE.LOST]
  | .SEC_GUEST => [F.SEC_GUEST.ACCESS_REFUSED, F.SEC_GUEST.FRAMES_REFUSED]
  | .ETH_SEL => [F.ETH_SEL.PORT]
  | .ETH_PORT_CFG => [F.ETH_PORT_CFG.EN, F.ETH_PORT_CFG.MEDIA, F.ETH_PORT_CFG.MODES, F.ETH_PORT_CFG.MAC]
  | .ETH_STATUS => [F.ETH_STATUS.LINK_CHANGES, F.ETH_STATUS.LINK, F.ETH_STATUS.MODE]
  | .ETH_NET => [F.ETH_NET.IP6_EN, F.ETH_NET.IP4_EN, F.ETH_NET.VLAN_EN, F.ETH_NET.VLAN, F.ETH_NET.UDP_PORT, F.ETH_NET.IP4]
  | .ETH_IP6_HI => [F.ETH_IP6_HI.ADDR]
  | .ETH_IP6_LO => [F.ETH_IP6_LO.ADDR]
  | .ETH_STAT => [F.ETH_STAT.RX_FRAMES, F.ETH_STAT.RX_DROPS, F.ETH_STAT.FEC_UNCORR]
  | .PORT_SEL => [F.PORT_SEL.LANE, F.PORT_SEL.PORT]
  | .PORT_CFG => [F.PORT_CFG.WIN_LIMIT, F.PORT_CFG.LANE_THRESH, F.PORT_CFG.REPLAY_LIMIT, F.PORT_CFG.EXPECT]
  | .PORT_ID => [F.PORT_ID.PKG_ID]
  | .PORT_STATUS => [F.PORT_STATUS.PARTNER_ID, F.PORT_STATUS.PARTNER_PORT, F.PORT_STATUS.OPTICAL, F.PORT_STATUS.RX_FAILED, F.PORT_STATUS.TX_FAILED, F.PORT_STATUS.RATE, F.PORT_STATUS.BW, F.PORT_STATUS.STATE]
  | .PORT_LANE_ERR => [F.PORT_LANE_ERR.FAILED, F.PORT_LANE_ERR.BAD_WIN, F.PORT_LANE_ERR.SYM_CORR]
  | .PORT_ERR => [F.PORT_ERR.RETRAINS, F.PORT_ERR.UNCORR, F.PORT_ERR.REPLAYS]
  | .PORT_TC_STAT => [F.PORT_TC_STAT.TC0_OVER]
  | .PORT_TCW => [F.PORT_TCW.W3, F.PORT_TCW.W2, F.PORT_TCW.W1]
  | .PORT_RT_IDX => [F.PORT_RT_IDX.TABLE, F.PORT_RT_IDX.ENTRY]
  | .PORT_RT_DATA => [F.PORT_RT_DATA.ENTRY]
  | .PORT_RT_STAT => [F.PORT_RT_STAT.HOP_DROPS, F.PORT_RT_STAT.NO_ENTRY]
  | .PORT_GUEST => [F.PORT_GUEST.OPTICAL]
  | .D2D_SEL => [F.D2D_SEL.LANE, F.D2D_SEL.END, F.D2D_SEL.EDGE, F.D2D_SEL.MODULE]
  | .D2D_CFG => [F.D2D_CFG.LANE_THRESH, F.D2D_CFG.REPLAY_LIMIT]
  | .D2D_STATUS => [F.D2D_STATUS.EDGE_BW, F.D2D_STATUS.RATE, F.D2D_STATUS.PROTO, F.D2D_STATUS.REPAIRS_USED, F.D2D_STATUS.MOD_STATE]
  | .D2D_LANE_ERR => [F.D2D_LANE_ERR.REPAIRED, F.D2D_LANE_ERR.ERR_COUNT]
  | .D2D_REPLAY_CNT => [F.D2D_REPLAY_CNT.REPLAYS]
  | .MC_SEL => [F.MC_SEL.PCH, F.MC_SEL.STACK]
  | .MC_MODE => [F.MC_MODE.WR_HIGH, F.MC_MODE.WR_LOW, F.MC_MODE.AGE_MAX, F.MC_MODE.SHARE, F.MC_MODE.MODE]
  | .MC_PART_MAP => [F.MC_PART_MAP.PART]
  | .MC_BUCKET0 => [F.MC_BUCKET0.BURST, F.MC_BUCKET0.RATE]
  | .MC_BUCKET1 => [F.MC_BUCKET1.BURST, F.MC_BUCKET1.RATE]
  | .MC_BUCKET2 => [F.MC_BUCKET2.BURST, F.MC_BUCKET2.RATE]
  | .MC_BUCKET3 => [F.MC_BUCKET3.BURST, F.MC_BUCKET3.RATE]
  | .MC_BUCKET4 => [F.MC_BUCKET4.BURST, F.MC_BUCKET4.RATE]
  | .MC_BUCKET5 => [F.MC_BUCKET5.BURST, F.MC_BUCKET5.RATE]
  | .MC_BUCKET6 => [F.MC_BUCKET6.BURST, F.MC_BUCKET6.RATE]
  | .MC_BUCKET7 => [F.MC_BUCKET7.BURST, F.MC_BUCKET7.RATE]
  | .MC_CAVE0 => [F.MC_CAVE0.CAVE]
  | .MC_CAVE1 => [F.MC_CAVE1.CAVE]
  | .MC_CAVE2 => [F.MC_CAVE2.CAVE]
  | .MC_CAVE3 => [F.MC_CAVE3.CAVE]
  | .MC_CAVE_STAT => [F.MC_CAVE_STAT.DROPS]
  | .MC_ERR => [F.MC_ERR.UE, F.MC_ERR.INNER, F.MC_ERR.CE]
  | .MC_ERR_CFG => [F.MC_ERR_CFG.ROW_THRESH, F.MC_ERR_CFG.PIN_THRESH, F.MC_ERR_CFG.SCRUB_EN]
  | .MC_REMAP => [F.MC_REMAP.FULL, F.MC_REMAP.USED]
  | .MC_LANE => [F.MC_LANE.REPAIRED, F.MC_LANE.MARKED]
  | .MC_BANK_STAT => [F.MC_BANK_STAT.CAP_HITS, F.MC_BANK_STAT.MAX_WAIT]
  | .MC_MAINT => [F.MC_MAINT.DROPS, F.MC_MAINT.IDLE, F.MC_MAINT.HOLD]
  | .MC_REPAIR => [F.MC_REPAIR.GO, F.MC_REPAIR.OP, F.MC_REPAIR.BANK, F.MC_REPAIR.ROW, F.MC_REPAIR.LANE]
  | .MC_REPAIR_STAT => [F.MC_REPAIR_STAT.DONE, F.MC_REPAIR_STAT.RESULT, F.MC_REPAIR_STAT.LANE_FREE, F.MC_REPAIR_STAT.HPPR_FREE, F.MC_REPAIR_STAT.SPPR_FREE]
  | .MC_CELLAR_ERR => [F.MC_CELLAR_ERR.UE, F.MC_CELLAR_ERR.CE]
  | .PRESS_ZERO => []
  | .PRESS_CFG => [F.PRESS_CFG.RATIO_MAX]
  | .PRESS_STAT => [F.PRESS_STAT.SLICES, F.PRESS_STAT.ATOMICS]
  | .PRESS_STAT2 => [F.PRESS_STAT2.SAT, F.PRESS_STAT2.HELD_NF, F.PRESS_STAT2.RIND_HELD, F.PRESS_STAT2.REFUSED]
  | .PRESS_QUEUE => [F.PRESS_QUEUE.DAILIES_LOST, F.PRESS_QUEUE.PENDING, F.PRESS_QUEUE.DISCARDED]
  | .PRESS_DIG_CTL => [F.PRESS_DIG_CTL.GO, F.PRESS_DIG_CTL.DONE, F.PRESS_DIG_CTL.INCOMPLETE, F.PRESS_DIG_CTL.STALE, F.PRESS_DIG_CTL.ENTRIES]
  | .PRESS_DIG_STEP => [F.PRESS_DIG_STEP.STEP]
  | .PRESS_DIG_CE => [F.PRESS_DIG_CE.DIGEST]
  | .PRESS_DIG_CI => [F.PRESS_DIG_CI.DIGEST]
  | .PRESS_VDIG_CE => [F.PRESS_VDIG_CE.DIGEST]
  | .PRESS_VDIG_CI => [F.PRESS_VDIG_CI.DIGEST]
  | .CORE_SEL => [F.CORE_SEL.PHYS, F.CORE_SEL.CORE]
  | .CORE_STATE => [F.CORE_STATE.PEER, F.CORE_STATE.HALT_CAUSE, F.CORE_STATE.STATE]
  | .CORE_QP0 => [F.CORE_QP0.Y_OCC, F.CORE_QP0.X_OCC, F.CORE_QP0.Y_QP, F.CORE_QP0.X_QP]
  | .CORE_QP1 => [F.CORE_QP1.Y_OCC, F.CORE_QP1.X_OCC, F.CORE_QP1.Y_QP, F.CORE_QP1.X_QP]
  | .CORE_QP2 => [F.CORE_QP2.Y_OCC, F.CORE_QP2.X_OCC, F.CORE_QP2.Y_QP, F.CORE_QP2.X_QP]
  | .CORE_FAULT => [F.CORE_FAULT.SWAP_WANTED, F.CORE_FAULT.UE_COUNT, F.CORE_FAULT.CE_COUNT, F.CORE_FAULT.ARRAY_FAULTS]
  | .CORE_FAULT_CFG => [F.CORE_FAULT_CFG.CE_THRESH, F.CORE_FAULT_CFG.THRESH]
  | .CORE_SWAP => [F.CORE_SWAP.RESULT, F.CORE_SWAP.PENDING, F.CORE_SWAP.GO, F.CORE_SWAP.SPARE, F.CORE_SWAP.LOGICAL]
  | .CORE_TC_STAT => [F.CORE_TC_STAT.MISSES, F.CORE_TC_STAT.FORCED_EVICT]
  | .CORE_TC_CFG => [F.CORE_TC_CFG.FILL_WAYS, F.CORE_TC_CFG.SCRATCH_WAYS]
  | .CORE_CVT_CNT0 => [F.CORE_CVT_CNT0.OVERFLOW, F.CORE_CVT_CNT0.NONFINITE]
  | .CORE_CVT_CNT1 => [F.CORE_CVT_CNT1.UNDERFLOW]
  | .CORE_CVT_FLAGS => [F.CORE_CVT_FLAGS.NF_STICKY, F.CORE_CVT_FLAGS.OVF_STICKY, F.CORE_CVT_FLAGS.LAYER]
  | .CORE_MX_STAT => [F.CORE_MX_STAT.TONE_CC, F.CORE_MX_STAT.RECOMPUTES]
  | .CORE_MX_FAULT => [F.CORE_MX_FAULT.A3_FAULTS, F.CORE_MX_FAULT.A2_FAULTS, F.CORE_MX_FAULT.A1_FAULTS, F.CORE_MX_FAULT.A0_FAULTS]
  | .CORE_MX_TONE => [F.CORE_MX_TONE.WINDOW, F.CORE_MX_TONE.EN, F.CORE_MX_TONE.ACTIVE]
  | .CORE_MX_TAINT => [F.CORE_MX_TAINT.TAINT]
  | .CORE_IFAULT => [F.CORE_IFAULT.SKIP_STICKY, F.CORE_IFAULT.SUPPRESSED, F.CORE_IFAULT.SKIPS]
  | .CORE_STEP => [F.CORE_STEP.STEP_NO]
  | .CORE_BRACKET => [F.CORE_BRACKET.CLOSING, F.CORE_BRACKET.OPEN, F.CORE_BRACKET.GROUP, F.CORE_BRACKET.LAYER]
  | .CORE_RIND_STAT => [F.CORE_RIND_STAT.CORRUPT, F.CORE_RIND_STAT.INVALID]
  | .CORE_TAKE => [F.CORE_TAKE.TAINT_STORES, F.CORE_TAKE.HIGH, F.CORE_TAKE.ENTRIES]
  | .CORE_XF_STAT => [F.CORE_XF_STAT.BLOCKS, F.CORE_XF_STAT.FAILED]
  | .CORE_VE_STAT => [F.CORE_VE_STAT.XS_TAINT, F.CORE_VE_STAT.PTAINT]
  | .CORE_VE_TAINT => [F.CORE_VE_TAINT.VTAINT]
  | .CORE_SY_STAT => [F.CORE_SY_STAT.SIG_DROPPED, F.CORE_SY_STAT.SIG_OVERFLOW, F.CORE_SY_STAT.DEC_UNDERFLOW]
  | .CORE_WDOG => [F.CORE_WDOG.PERIOD_US, F.CORE_WDOG.FIRED, F.CORE_WDOG.WAITING, F.CORE_WDOG.ENGINE, F.CORE_WDOG.SEM]
  | .CORE_NUM_CNT => [F.CORE_NUM_CNT.RANGE]
  | .CORE_NUM_BRK0 => [F.CORE_NUM_BRK0.B_OVERFLOW, F.CORE_NUM_BRK0.B_NONFINITE]
  | .CORE_NUM_BRK1 => [F.CORE_NUM_BRK1.B_UNDERFLOW, F.CORE_NUM_BRK1.B_RANGE]
  | .CORE_NUM_BRK2 => [F.CORE_NUM_BRK2.OVF_RANK, F.CORE_NUM_BRK2.TOUCHED]
  | .CORE_SCT_IDX => [F.CORE_SCT_IDX.WORD, F.CORE_SCT_IDX.TID]
  | .CORE_SEM0 => [F.CORE_SEM0.SEM3, F.CORE_SEM0.SEM2, F.CORE_SEM0.SEM1, F.CORE_SEM0.SEM0]
  | .CORE_SEM1 => [F.CORE_SEM1.SEM3, F.CORE_SEM1.SEM2, F.CORE_SEM1.SEM1, F.CORE_SEM1.SEM0]
  | .CORE_SEM2 => [F.CORE_SEM2.SEM3, F.CORE_SEM2.SEM2, F.CORE_SEM2.SEM1, F.CORE_SEM2.SEM0]
  | .CORE_SEM3 => [F.CORE_SEM3.SEM3, F.CORE_SEM3.SEM2, F.CORE_SEM3.SEM1, F.CORE_SEM3.SEM0]
  | .CORE_SEM4 => [F.CORE_SEM4.SEM3, F.CORE_SEM4.SEM2, F.CORE_SEM4.SEM1, F.CORE_SEM4.SEM0]
  | .CORE_SEM5 => [F.CORE_SEM5.SEM3, F.CORE_SEM5.SEM2, F.CORE_SEM5.SEM1, F.CORE_SEM5.SEM0]
  | .CORE_SEM6 => [F.CORE_SEM6.SEM3, F.CORE_SEM6.SEM2, F.CORE_SEM6.SEM1, F.CORE_SEM6.SEM0]
  | .CORE_SEM7 => [F.CORE_SEM7.SEM3, F.CORE_SEM7.SEM2, F.CORE_SEM7.SEM1, F.CORE_SEM7.SEM0]
  | .CORE_SEM8 => [F.CORE_SEM8.SEM3, F.CORE_SEM8.SEM2, F.CORE_SEM8.SEM1, F.CORE_SEM8.SEM0]
  | .CORE_SEM9 => [F.CORE_SEM9.SEM3, F.CORE_SEM9.SEM2, F.CORE_SEM9.SEM1, F.CORE_SEM9.SEM0]
  | .CORE_SEM10 => [F.CORE_SEM10.SEM3, F.CORE_SEM10.SEM2, F.CORE_SEM10.SEM1, F.CORE_SEM10.SEM0]
  | .CORE_SEM11 => [F.CORE_SEM11.SEM3, F.CORE_SEM11.SEM2, F.CORE_SEM11.SEM1, F.CORE_SEM11.SEM0]
  | .CORE_SEM12 => [F.CORE_SEM12.SEM3, F.CORE_SEM12.SEM2, F.CORE_SEM12.SEM1, F.CORE_SEM12.SEM0]
  | .CORE_SEM13 => [F.CORE_SEM13.SEM3, F.CORE_SEM13.SEM2, F.CORE_SEM13.SEM1, F.CORE_SEM13.SEM0]
  | .CORE_SEM14 => [F.CORE_SEM14.SEM3, F.CORE_SEM14.SEM2, F.CORE_SEM14.SEM1, F.CORE_SEM14.SEM0]
  | .CORE_SEM15 => [F.CORE_SEM15.SEM3, F.CORE_SEM15.SEM2, F.CORE_SEM15.SEM1, F.CORE_SEM15.SEM0]
  | .CORE_SCT_DATA => [F.CORE_SCT_DATA.DATA]
  | .CLAP_TIME => [F.CLAP_TIME.TIME]
  | .CLAP_CFG => [F.CLAP_CFG.PERIOD_US, F.CLAP_CFG.MISS, F.CLAP_CFG.STBY_PORT, F.CLAP_CFG.LEAD_PORT, F.CLAP_CFG.TIME_FOLLOW]
  | .CLAP_STAT => [F.CLAP_STAT.STATE, F.CLAP_STAT.PARENT, F.CLAP_STAT.DELAY, F.CLAP_STAT.SLEWS, F.CLAP_STAT.OFFSET]
  | .CLAP_ROLE => [F.CLAP_ROLE.ROLE, F.CLAP_ROLE.STANDBY, F.CLAP_ROLE.TOP_STBY, F.CLAP_ROLE.TOP_ID, F.CLAP_ROLE.LEAD_ID, F.CLAP_ROLE.EPOCH]
  | .CLAP_ROLE_CFG => [F.CLAP_ROLE_CFG.TOP_STANDBY_ID, F.CLAP_ROLE_CFG.TOP_ID, F.CLAP_ROLE_CFG.STANDBY_ID, F.CLAP_ROLE_CFG.LEAD_ID]
  | .CLAP_CONT_CFG => [F.CLAP_CONT_CFG.DEADLINE_MS, F.CLAP_CONT_CFG.MARGIN, F.CLAP_CONT_CFG.K]
  | .CLAP_CONT_SELF => [F.CLAP_CONT_SELF.VALID, F.CLAP_CONT_SELF.SET, F.CLAP_CONT_SELF.REPLICA, F.CLAP_CONT_SELF.REPLICAS_M1]
  | .CLAP_CONT_RGRP => [F.CLAP_CONT_RGRP.RGRP]
  | .CLAP_CONT_RLIST => [F.CLAP_CONT_RLIST.COUNT, F.CLAP_CONT_RLIST.ADDR]
  | .CLAP_CONT_STATE => [F.CLAP_CONT_STATE.STATE, F.CLAP_CONT_STATE.ACTIVE, F.CLAP_CONT_STATE.CONTRIB]
  | .CLAP_CONT_LAST => [F.CLAP_CONT_LAST.STEP]
  | .CLAP_CONT_STAT => [F.CLAP_CONT_STAT.CHECKS, F.CLAP_CONT_STAT.DISAGREE, F.CLAP_CONT_STAT.OUTS, F.CLAP_CONT_STAT.REJOINS]
  | .GAFF_ZERO => []
  | .GAFF_CFG => [F.GAFF_CFG.SUSTAIN_W, F.GAFF_CFG.BURST_W, F.GAFF_CFG.FLOOR_W, F.GAFF_CFG.BRAKE_LEVEL, F.GAFF_CFG.RAMP_ARRAYS]
  | .GAFF_POWER => [F.GAFF_POWER.P1_W, F.GAFF_POWER.P10_W, F.GAFF_POWER.PNOW_W, F.GAFF_POWER.LEVEL]
  | .GAFF_THR_STAT => [F.GAFF_THR_STAT.THROTTLE_US, F.GAFF_THR_STAT.EPISODES, F.GAFF_THR_STAT.BRAKES]
  | .GAFF_TEMP_CFG => [F.GAFF_TEMP_CFG.TJ_WARN, F.GAFF_TEMP_CFG.STACK_WARN]
  | .GAFF_TEMP => [F.GAFF_TEMP.STACK, F.GAFF_TEMP.HUB, F.GAFF_TEMP.VAT]
  | .GAFF_TJ_AVG => [F.GAFF_TJ_AVG.HOURS, F.GAFF_TJ_AVG.AVG]
  | .GAFF_GPIO => [F.GAFF_GPIO.ALERT_L, F.GAFF_GPIO.M2_CONFLICT, F.GAFF_GPIO.ALERT_EN, F.GAFF_GPIO.TIME_EN, F.GAFF_GPIO.M3_OUT, F.GAFF_GPIO.PINS]
  | .LOG_SEL => [F.LOG_SEL.FIFO]
  | .LOG_FIFO_CFG => [F.LOG_FIFO_CFG.DEPTH, F.LOG_FIFO_CFG.LEVEL]
  | .LOG_FIFO_STAT => [F.LOG_FIFO_STAT.LOST, F.LOG_FIFO_STAT.IRQ, F.LOG_FIFO_STAT.COUNT]
  | .LOG_FIFO_DATA => [F.LOG_FIFO_DATA.WORD]
  | .LOG_TRACE_CFG => [F.LOG_TRACE_CFG.DAILIES_KIB, F.LOG_TRACE_CFG.DBG_KIB]
  | .LOG_TRACE_CTL => [F.LOG_TRACE_CTL.STOP_FULL, F.LOG_TRACE_CTL.EN]
  | .LOG_TRACE_PTR => [F.LOG_TRACE_PTR.DROPPED, F.LOG_TRACE_PTR.WRAPPED, F.LOG_TRACE_PTR.NEXT]
  | .COLL_SEL => [F.COLL_SEL.POS, F.COLL_SEL.GROUP]
  | .COLL_GRP_CFG => [F.COLL_GRP_CFG.VALID, F.COLL_GRP_CFG.LEVEL, F.COLL_GRP_CFG.NM1, F.COLL_GRP_CFG.OWN_POS, F.COLL_GRP_CFG.DIRECTOR, F.COLL_GRP_CFG.RECV_SEM]
  | .COLL_GRP_MEMBER => [F.COLL_GRP_MEMBER.PKG_ID]
  | .COLL_GRP_ACTIVE0 => [F.COLL_GRP_ACTIVE0.ACTIVE]
  | .COLL_GRP_ACTIVE1 => [F.COLL_GRP_ACTIVE1.ACTIVE]
  | .COLL_GRP_ACTIVE2 => [F.COLL_GRP_ACTIVE2.ACTIVE]
  | .COLL_GRP_ACTIVE3 => [F.COLL_GRP_ACTIVE3.ACTIVE]
  | .COLL_GRP_STATE => [F.COLL_GRP_STATE.SEQ_NEXT, F.COLL_GRP_STATE.STATE, F.COLL_GRP_STATE.ARRIVED]
  | .COLL_GRP_DIGEST => [F.COLL_GRP_DIGEST.DIGEST]
  | .COLL_LATE => [F.COLL_LATE.ARRIVED, F.COLL_LATE.TIME]
  | .COLL_CFG => [F.COLL_CFG.LATE_NS]
  | .COLL_STAT => [F.COLL_STAT.RAISED, F.COLL_STAT.RECEIVED, F.COLL_STAT.DROPS, F.COLL_STAT.LATE_LOST]
  | .REL_SEL => [F.REL_SEL.VAT]
  | .REL_CFG => [F.REL_CFG.WDOG_HOLD_MS, F.REL_CFG.FW_MISS_MS, F.REL_CFG.SUP_WINDOW_S, F.REL_CFG.SUP_MS, F.REL_CFG.MODE]
  | .REL_STAT => [F.REL_STAT.CONTAIN_RESETS, F.REL_STAT.POISON, F.REL_STAT.MP_RESTARTS, F.REL_STAT.MP_CE]
  | .REL_UE => [F.REL_UE.FULL, F.REL_UE.COUNT]
  | .REL_SCAN => [F.REL_SCAN.RESULT, F.REL_SCAN.FAIL_UNIT, F.REL_SCAN.RETIRED, F.REL_SCAN.SCANS, F.REL_SCAN.DURATION_US]
  | .REL_SUP => [F.REL_SUP.HEARTBEAT, F.REL_SUP.TIME_LEFT_MS, F.REL_SUP.RESTARTS_WIN]
  | .NUM_GRP_SEL => [F.NUM_GRP_SEL.GROUP]
  | .NUM_GRP_DIR => [F.NUM_GRP_DIR.VALID, F.NUM_GRP_DIR.DIRECTOR]
  | .NUM_GRP_MASK0 => [F.NUM_GRP_MASK0.MEMBERS]
  | .NUM_GRP_MASK1 => [F.NUM_GRP_MASK1.MEMBERS]
  | .NUM_GRP_MASK2 => [F.NUM_GRP_MASK2.MEMBERS]
  | .NUM_GRP_MASK3 => [F.NUM_GRP_MASK3.MEMBERS]
  | .NUM_GRP_MASK4 => [F.NUM_GRP_MASK4.MEMBERS]
  | .NUM_GRP_MASK5 => [F.NUM_GRP_MASK5.MEMBERS]
  | .NUM_TCFG_ADDR => [F.NUM_TCFG_ADDR.ADDR]
  | .NUM_LOSS_CFG => [F.NUM_LOSS_CFG.K, F.NUM_LOSS_CFG.SRC, F.NUM_LOSS_CFG.WARMUP, F.NUM_LOSS_CFG.ALPHA, F.NUM_LOSS_CFG.EN, F.NUM_LOSS_CFG.SKIP_ON_SPIKE]
  | .NUM_LOSS_STATE => [F.NUM_LOSS_STATE.VAR, F.NUM_LOSS_STATE.MEAN]
  | .NUM_LOSS_STAT => [F.NUM_LOSS_STAT.LAST, F.NUM_LOSS_STAT.SPIKES, F.NUM_LOSS_STAT.SAMPLES, F.NUM_LOSS_STAT.NF_LAST, F.NUM_LOSS_STAT.SPIKE_LAST]
  | .NUM_LOSS_STEP => [F.NUM_LOSS_STEP.STEP]
  | .NUM_STAT => [F.NUM_STAT.RETAKE_LOST, F.NUM_STAT.HELD, F.NUM_STAT.TOP, F.NUM_STAT.RETAKES]
  | .NUM_LOSS_SAMPLES => [F.NUM_LOSS_SAMPLES.SAMPLES]
  | .FW_BUILD => [F.FW_BUILD.BUILD]
  | .FW_REJECT => [F.FW_REJECT.REJ_BUILD]

/-- Every register, in ascending order of offset. -/
def Reg.all : List Reg :=
  List.flatten [
   [.TOP_ID, .TOP_CAPS_HUB, .TOP_CAPS_GX0, .TOP_CAPS_GX1, .TOP_CAPS_GX2, .TOP_CAPS_GX3, .TOP_CAPS_EFF, .TOP_VAT_STATE, .TOP_VAT_RESET, .CFG_BOOT],
   [.CFG_REC, .CFG_STAT, .CFG_DIR, .CFG_FLASH, .SEC_BOOT, .SEC_SERIAL, .SEC_CTR, .SEC_STATE, .SEC_DROP, .SEC_NOTICE],
   [.SEC_GUEST, .ETH_SEL, .ETH_PORT_CFG, .ETH_STATUS, .ETH_NET, .ETH_IP6_HI, .ETH_IP6_LO, .ETH_STAT, .PORT_SEL, .PORT_CFG],
   [.PORT_ID, .PORT_STATUS, .PORT_LANE_ERR, .PORT_ERR, .PORT_TC_STAT, .PORT_TCW, .PORT_RT_IDX, .PORT_RT_DATA, .PORT_RT_STAT, .PORT_GUEST],
   [.D2D_SEL, .D2D_CFG, .D2D_STATUS, .D2D_LANE_ERR, .D2D_REPLAY_CNT, .MC_SEL, .MC_MODE, .MC_PART_MAP, .MC_BUCKET0, .MC_BUCKET1],
   [.MC_BUCKET2, .MC_BUCKET3, .MC_BUCKET4, .MC_BUCKET5, .MC_BUCKET6, .MC_BUCKET7, .MC_CAVE0, .MC_CAVE1, .MC_CAVE2, .MC_CAVE3],
   [.MC_CAVE_STAT, .MC_ERR, .MC_ERR_CFG, .MC_REMAP, .MC_LANE, .MC_BANK_STAT, .MC_MAINT, .MC_REPAIR, .MC_REPAIR_STAT, .MC_CELLAR_ERR],
   [.PRESS_ZERO, .PRESS_CFG, .PRESS_STAT, .PRESS_STAT2, .PRESS_QUEUE, .PRESS_DIG_CTL, .PRESS_DIG_STEP, .PRESS_DIG_CE, .PRESS_DIG_CI, .PRESS_VDIG_CE],
   [.PRESS_VDIG_CI, .CORE_SEL, .CORE_STATE, .CORE_QP0, .CORE_QP1, .CORE_QP2, .CORE_FAULT, .CORE_FAULT_CFG, .CORE_SWAP, .CORE_TC_STAT],
   [.CORE_TC_CFG, .CORE_CVT_CNT0, .CORE_CVT_CNT1, .CORE_CVT_FLAGS, .CORE_MX_STAT, .CORE_MX_FAULT, .CORE_MX_TONE, .CORE_MX_TAINT, .CORE_IFAULT, .CORE_STEP],
   [.CORE_BRACKET, .CORE_RIND_STAT, .CORE_TAKE, .CORE_XF_STAT, .CORE_VE_STAT, .CORE_VE_TAINT, .CORE_SY_STAT, .CORE_WDOG, .CORE_NUM_CNT, .CORE_NUM_BRK0],
   [.CORE_NUM_BRK1, .CORE_NUM_BRK2, .CORE_SCT_IDX, .CORE_SEM0, .CORE_SEM1, .CORE_SEM2, .CORE_SEM3, .CORE_SEM4, .CORE_SEM5, .CORE_SEM6],
   [.CORE_SEM7, .CORE_SEM8, .CORE_SEM9, .CORE_SEM10, .CORE_SEM11, .CORE_SEM12, .CORE_SEM13, .CORE_SEM14, .CORE_SEM15, .CORE_SCT_DATA],
   [.CLAP_TIME, .CLAP_CFG, .CLAP_STAT, .CLAP_ROLE, .CLAP_ROLE_CFG, .CLAP_CONT_CFG, .CLAP_CONT_SELF, .CLAP_CONT_RGRP, .CLAP_CONT_RLIST, .CLAP_CONT_STATE],
   [.CLAP_CONT_LAST, .CLAP_CONT_STAT, .GAFF_ZERO, .GAFF_CFG, .GAFF_POWER, .GAFF_THR_STAT, .GAFF_TEMP_CFG, .GAFF_TEMP, .GAFF_TJ_AVG, .GAFF_GPIO],
   [.LOG_SEL, .LOG_FIFO_CFG, .LOG_FIFO_STAT, .LOG_FIFO_DATA, .LOG_TRACE_CFG, .LOG_TRACE_CTL, .LOG_TRACE_PTR, .COLL_SEL, .COLL_GRP_CFG, .COLL_GRP_MEMBER],
   [.COLL_GRP_ACTIVE0, .COLL_GRP_ACTIVE1, .COLL_GRP_ACTIVE2, .COLL_GRP_ACTIVE3, .COLL_GRP_STATE, .COLL_GRP_DIGEST, .COLL_LATE, .COLL_CFG, .COLL_STAT, .REL_SEL],
   [.REL_CFG, .REL_STAT, .REL_UE, .REL_SCAN, .REL_SUP, .NUM_GRP_SEL, .NUM_GRP_DIR, .NUM_GRP_MASK0, .NUM_GRP_MASK1, .NUM_GRP_MASK2],
   [.NUM_GRP_MASK3, .NUM_GRP_MASK4, .NUM_GRP_MASK5, .NUM_TCFG_ADDR, .NUM_LOSS_CFG, .NUM_LOSS_STATE, .NUM_LOSS_STAT, .NUM_LOSS_STEP, .NUM_STAT, .NUM_LOSS_SAMPLES],
   [.FW_BUILD, .FW_REJECT]]

/-- The register at an offset of the CSR space; none where the index lists none (R558). -/
def Reg.ofOff (o : Nat) : Option Reg := Reg.all.find? fun r => r.off == o

end Sys2Proof.Machine
end

