-- ==== Sys2Proof/Machine/State.lean ====
section
/-! DEFINITION. The state of the block: waiting commands, memory, package; and the state right after reset. -/
namespace Sys2Proof.Machine

/-- The reasons for which the block stops: none, for no command stops it. -/
inductive Fault where
  deriving DecidableEq, Repr

/-- The reasons for which a command has no meaning. -/
inductive Refusal where
  /-- Raised by an arm of `exec` whose command has no meaning yet. Safe: the block stops. No arm raises it. -/
  | notModelled (mnemonic : String)
  deriving DecidableEq, Repr

/-- Memory: the listed bytes of the 48-bit package map (R42), in canonical form. -/
abbrev Memory := List Host.Cell

/-- The package. Registers of the CSR space are in `regs`, keyed 2^20 × offset + instance; the other fields hold what no
register holds. Tables list only what differs from their default. -/
structure Pkg where
  /-- Free values taken (the model's own, see `Config.freeValue`). -/
  free : Nat
  /-- The hub's clapper in ns (R433). -/
  time : Nat
  /-- Pins and supplies (R543–R556). -/
  pins : Pins
  /-- Fused values (R49). -/
  fuse : Fuse
  /-- The registers of the CSR space (R558–R564, and the register tables of every chapter). -/
  regs : Tab Word
  /-- The vats: reset state machine, press queue, digests, listed blocks (R37–R41, R327–R343, R471). -/
  vats : Tab Vat
  /-- The core map: physical index of a logical core (R80). -/
  coreMap : Tab Nat
  /-- The physical cores, keyed 128 × vat + index (R50–R90). -/
  cores : Tab Core
  /-- Unit kind and slate of the fault that a core counted last (R83). -/
  faultBy : Tab (Nat × Nat)
  /-- Unit kind of the corrected error that a core counted last, 255 once logged (R83). -/
  ceBy : Tab Nat
  /-- Errors in protected units, by address ÷ 8: of a codeword the symbols with their XOR values (R354), of an SRAM word the
  bits that flipped (R373, R412). -/
  flaws : Tab (List (Nat × Nat))
  /-- What a codeword holds differently from memory since it was decoded to another codeword (R354), by address ÷ 8. -/
  skew : Tab (List (Nat × Nat))
  /-- Rinds of cellar and staging blocks (R374, R412). -/
  crinds : Tab (BitVec 32)
  /-- Pseudo-channels: queue, partitions, pins, rows, repairs (R354–R377). -/
  pchs : Tab Pch
  /-- Stacks whose drop under maintenance hold was logged (R375). -/
  holdLog : Tab Bool
  /-- Repairs under way, by stack (R376). -/
  repairs : Tab Repair
  /-- The log FIFOs (R565–R570). -/
  fifos : Tab (List Word)
  /-- The debug trace, by record (R196, R572). -/
  trace : Tab (BitVec 256)
  /-- Signals on their way, and the next one's number (R269–R275). -/
  sigs : List Sig
  sigNo : Nat
  /-- Refusal marks of sending engines and classes (R272). -/
  marks : Tab Bool
  /-- Collectors of layer groups (R296–R303). -/
  groups : Tab LGroup
  /-- Outcomes and close reports on their way (R178, R295). -/
  outs : List OutMsg
  reps : List Report
  /-- Loss samples not yet judged: step, value, slate (R312). -/
  lossQ : List (Nat × Nat × Nat)
  /-- The digest combination that runs, and the step of the last one (R343). -/
  dig : Option DigRun
  lastDig : Option Nat
  /-- The core swap pending or running (R84–R90). -/
  swap : Option SwapReq
  /-- Number of the next press update (R327). -/
  pressNo : Nat
  /-- Messages sent. -/
  tx : List Msg
  /-- Collective groups (R408–R431). -/
  coll : Tab CollGrp
  /-- Aedun ports and routing (R379–R401). -/
  net : Net
  /-- Membership orders received, in their order (R448). -/
  orders : List Order
  /-- Clapper, roles and continuity (R433–R455, R476, R477, R490). -/
  lead : Lead
  /-- Die-to-die modules (R18–R26). -/
  d2d : Tab D2dMod
  /-- Protocol version and lane rate of the trained edges (R46). -/
  edges : Tab (Nat × Nat)
  /-- The flash (R520–R523). -/
  flash : Flash
  /-- Boot and management firmware (R524–R538, R488). -/
  boot : Boot
  /-- Security engine and host interface (R492–R517). -/
  sec : Sec
  /-- The gaffer (R545–R550). -/
  pow : Pow
  /-- The select registers of firmware's own context (R563), and the word it read last. -/
  fw : Tab Word
  fwWord : Word
  deriving DecidableEq, Repr

/-- The state: commands that wait, first in, first out; the addressed memory; the package. -/
structure State where
  pending : List Instr
  mem : Memory
  pkg : Pkg
  deriving DecidableEq, Repr

/-- The package with every domain at reset; it keeps what is given: pins, fuses, flash. -/
def Pkg.blank (pins : Pins) (fuse : Fuse) (flash : Flash) : Pkg :=
  { free := 0, time := 0, pins := pins, fuse := fuse, regs := [], vats := [], coreMap := [], cores := [], faultBy := [],
    ceBy := [], flaws := [], skew := [], crinds := [], pchs := [], holdLog := [], repairs := [], fifos := [], trace := [], sigs := [],
    sigNo := 0, marks := [], groups := [], outs := [], reps := [], lossQ := [], dig := none, lastDig := none, swap := none,
    pressNo := 0, tx := [], coll := [], net := Net.init, orders := [], lead := Lead.init, d2d := [], edges := [], flash := flash,
    boot := Boot.init, sec := Sec.init, pow := Pow.init, fw := [], fwWord := 0 }

/-- The pins while RESET_N is held low: supplies in limits, PWRGD high, nothing asserted, BRAKE_N, MGPIO2 and MGPIO3 high. -/
def Pins.reset : Pins :=
  { supply := true, pwrgd := true, resetN := false, faultN := false, thermtrip := false, brakeLow := false, m2 := true,
    m3 := true, jtag := 0, tdr := 0 }

/-- The fuses of a TRM-416 (R49): grade 0x1, four vats, no guest die, nothing else fused. -/
def Fuse.trm416 : Fuse :=
  { grade := 1, vatMask := 15, guest := false, minSvn := 0, serial := 0, rootHash := 0, devKey := 0, fusedOff := [] }

/-- The machine at reset: a TRM-416, powered, RESET_N low, a flash with nothing written, memory with nothing listed. -/
def State.reset : State := ⟨[], [], Pkg.blank Pins.reset Fuse.trm416 Flash.blank⟩

end Sys2Proof.Machine
end

