-- ==== Sys2Proof/Machine/Ops.lean ====
section
/-! DEFINITION. The named operations over registers, logs, cores, addresses and memory that every command's meaning is
written with. -/
namespace Sys2Proof.Machine

/-! ### Registers of the CSR space -/

/-- Storage key of instance `i` of a register; no two registers share one. -/
def csrKey (r : Reg) (i : Nat) : Nat := r.off * 2 ^ 20 + i % 2 ^ 20

/-- The word that fields at their reset values make. -/
def fieldsWord (fs : List Fd) : Nat := fs.foldl (fun acc f => acc + f.rst * 2 ^ f.lo) 0

/-- Is the core index a director's (R51)? -/
def isDirIdx (i : Nat) : Bool := 112 ≤ i && i < 120

/-- Is physical core `k` a director core? -/
def isDirKey (k : Nat) : Bool := isDirIdx (k % 128)

/-- Is vat `v` present by the fuses (R17)? -/
def Fuse.hasVat (fu : Fuse) (v : Nat) : Bool := v < 4 && bitOf fu.vatMask v

/-- The capability word of a present compute die (TOP_CAPS_GXn). -/
def capsGx (fu : Fuse) (v : Nat) : Nat := if fu.hasVat v then 0x0C070000000000FF else 0

/-- What instance `i` of a register holds at reset: the Reset column, the fused values, and for CFG fields the
defaults of the tables (R13, R49, R533). -/
def resetReg (fu : Fuse) (r : Reg) (i : Nat) : Word :=
  BitVec.ofNat 64 <|
  match r with
  | .TOP_ID => 0x0100000000 + 0x01000000 + b2n fu.guest * 2 ^ 16 + fu.vatMask * 2 ^ 12 + fu.grade
  | .TOP_CAPS_GX0 => capsGx fu 0
  | .TOP_CAPS_GX1 => capsGx fu 1
  | .TOP_CAPS_GX2 => capsGx fu 2
  | .TOP_CAPS_GX3 => capsGx fu 3
  | .CORE_TC_CFG => if isDirIdx (i % 128) then 0x0800 else 0x1800
  | .LOG_FIFO_CFG => if i == 0 then 4096 else if i == 2 then 524288 else 1024
  | .SEC_SERIAL => fu.serial
  | .SEC_BOOT => fu.minSvn * 2 ^ 32
  | r => fieldsWord r.fields

/-- Instance `i` of a register. -/
def Pkg.reg (p : Pkg) (r : Reg) (i : Nat) : Word := tget (resetReg p.fuse r i) p.regs (csrKey r i)

/-- Instance `i` of a register, written. -/
def Pkg.setReg (p : Pkg) (r : Reg) (i : Nat) (w : Word) : Pkg :=
  { p with regs := tset (resetReg p.fuse r i) p.regs (csrKey r i) w }

/-- A field of instance `i`. -/
def Pkg.getF (p : Pkg) (f : Fd) (i : Nat) : Nat := fld (p.reg f.reg i).toNat f.hi f.lo

/-- A field of instance `i` written; the other bits stay. -/
def Pkg.setF (p : Pkg) (f : Fd) (i : Nat) (v : Nat) : Pkg :=
  p.setReg f.reg i (BitVec.ofNat 64 (putFld (p.reg f.reg i).toNat f.hi f.lo v))

/-- A one-bit field as a truth value. -/
def Pkg.flag (p : Pkg) (f : Fd) (i : Nat) : Bool := p.getF f i == 1

/-- A counter raised by `n`, saturating (R14). -/
def Pkg.addF (p : Pkg) (f : Fd) (i n : Nat) : Pkg :=
  p.setF f i (satAdd (f.hi + 1 - f.lo) (p.getF f i) n)

/-- The fields of a list at instance `i` at their reset values. -/
def Pkg.clearRegs (p : Pkg) (rs : List Reg) (i : Nat) : Pkg :=
  rs.foldl (fun q r => q.setReg r i (resetReg q.fuse r i)) p

/-! ### Life of the package -/

/-- Does the package act: supplied, out of reset, not stopped (R479, R543, R544, R551)? -/
def Pkg.alive (p : Pkg) : Bool :=
  p.pins.supply && p.pins.pwrgd && p.pins.resetN && !p.pins.faultN && !p.pins.thermtrip

/-- Is vat `v` present? -/
def Pkg.hasVat (p : Pkg) (v : Nat) : Bool := p.fuse.hasVat v

/-- Vat `v`. -/
def Pkg.vat (p : Pkg) (v : Nat) : Vat := tget Vat.init p.vats v

def Pkg.setVat (p : Pkg) (v : Nat) (x : Vat) : Pkg := { p with vats := tset Vat.init p.vats v x }

/-- Is vat `v` present and READY? -/
def Pkg.vatReady (p : Pkg) (v : Nat) : Bool := p.hasVat v && (p.vat v).st == .ready

/-- The package's own ID (R390). -/
def Pkg.pkgId (p : Pkg) : Nat := p.getF F.PORT_ID.PKG_ID 0

/-! ### Log FIFOs (R565–R570) -/

/-- The dailies share in KiB, within its limits (LOG_TRACE_CFG). -/
def Pkg.dailiesKib (p : Pkg) : Nat := max 1024 (min 32768 (p.getF F.LOG_TRACE_CFG.DAILIES_KIB 0))

/-- Depth of a FIFO in words (R566). -/
def Pkg.fifoDepth (p : Pkg) (f : Nat) : Nat :=
  if f == 0 then 16384 else if f == 2 then p.dailiesKib * 128 else 4096

/-- Words a FIFO holds. -/
def Pkg.fifo (p : Pkg) (f : Nat) : List Word := tget [] p.fifos f

/-- A record entered whole, or dropped whole and counted in LOST (R567); IRQ is set on an upward crossing of LEVEL
(R570), and noted as set by that crossing where it was not set before. -/
def Pkg.pushFifo (p : Pkg) (f : Nat) (ws : List Nat) : Pkg :=
  let q := p.fifo f
  if p.fifoDepth f < q.length + ws.length then
    let p := { p with sec := { p.sec with lostAt := tset 0 p.sec.lostAt f (tget 0 p.sec.lostAt f + 1) } }
    p.addF F.LOG_FIFO_STAT.LOST f 1
  else
    let q' := q ++ ws.map (BitVec.ofNat 64)
    let lv := p.getF F.LOG_FIFO_CFG.LEVEL f
    let p := { p with fifos := tset [] p.fifos f q' }
    if lv != 0 && q.length < lv && lv ≤ q'.length then
      let rs := p.sec.raised.filter (· != f)
      ({ p with sec := { p.sec with raised := if p.flag F.LOG_FIFO_STAT.IRQ f then rs else f :: rs } } : Pkg).setF F.LOG_FIFO_STAT.IRQ f 1
    else p

/-- Does a record of `n` words fit FIFO `f`? -/
def Pkg.fifoFits (p : Pkg) (f n : Nat) : Bool := (p.fifo f).length + n ≤ p.fifoDepth f

/-- Word 0 of an event record (R565). -/
def eventWord (code vat kind : Nat) (phys : Bool) (index slate detail : Nat) : Nat :=
  2 ^ 63 + (code % 2 ^ 15) * 2 ^ 48 + (vat % 4) * 2 ^ 46 + (kind % 64) * 2 ^ 40 + b2n phys * 2 ^ 39 +
    (index % 128) * 2 ^ 32 + (slate % 2 ^ 16) * 2 ^ 16 + detail % 2 ^ 16

/-- Word 1 of an event record: VALID and a clapper time. -/
def timeWord (t : Nat) : Nat := 2 ^ 63 + t % 2 ^ 63

/-- An event record with a given time. -/
def Pkg.eventAt (p : Pkg) (t code vat kind : Nat) (phys : Bool) (index slate detail : Nat) : Pkg :=
  p.pushFifo 0 [eventWord code vat kind phys index slate detail, timeWord t]

/-- An event record at the present clapper time. -/
def Pkg.event (p : Pkg) (code vat kind : Nat) (phys : Bool) (index slate detail : Nat) : Pkg :=
  p.eventAt p.time code vat kind phys index slate detail

/-- A message sent out. -/
def Pkg.send (p : Pkg) (kind : MsgKind) (dst : Nat) (words : List Nat) : Pkg := { p with tx := p.tx ++ [⟨kind, dst, words⟩] }

/-! ### Cores -/

/-- Enabled compute cores of a vat (R50). -/
def Pkg.logCount (p : Pkg) : Nat := if p.fuse.grade == 2 then 88 else 96

/-- Does an ID name a logical compute core or a director core of a present vat (R51, R53)? -/
def Pkg.isCore (p : Pkg) (id : Nat) : Bool :=
  id < 512 && p.hasVat (id / 128) && (id % 128 < p.logCount || isDirIdx (id % 128))

/-- Does an ID name a physical core of a present vat (R52)? -/
def Pkg.isPhys (p : Pkg) (id : Nat) : Bool :=
  id < 512 && p.hasVat (id / 128) && (id % 128 < 100 || isDirIdx (id % 128))

/-- The physical core that carries a logical core (R80); none where no core does. -/
def Pkg.physOf (p : Pkg) (id : Nat) : Option Nat :=
  if isDirIdx (id % 128) then some id
  else
    let i := tget (id % 128) p.coreMap id % 128
    if i == 0x7F then none else some (id / 128 * 128 + i)

/-- The logical core that a physical core carries. -/
def Pkg.logicalOf (p : Pkg) (k : Nat) : Option Nat :=
  if isDirIdx (k % 128) then some k
  else
    ((List.range p.logCount).map fun i => k / 128 * 128 + i).find? fun l => p.physOf l == some k

/-- The state of a physical core at reset (R2, R80). -/
def Pkg.coreInit (p : Pkg) (k : Nat) : Core :=
  Core.init (if isDirIdx (k % 128) then .idle
    else if p.fuse.fusedOff.contains k then .off
    else if k % 128 < p.logCount then .idle else .spare)

/-- Physical core `k`. -/
def Pkg.core (p : Pkg) (k : Nat) : Core := tget (p.coreInit k) p.cores k

def Pkg.setCore (p : Pkg) (k : Nat) (c : Core) : Pkg := { p with cores := tset (p.coreInit k) p.cores k c }

/-- Physical core `k` changed by `f`. -/
def Pkg.onCore (p : Pkg) (k : Nat) (f : Core → Core) : Pkg := p.setCore k (f (p.core k))

/-- The keys of every physical core of a vat. -/
def vatCores (v : Nat) : List Nat :=
  ((List.range 100).map (v * 128 + ·)) ++ ((List.range 8).map (v * 128 + 112 + ·))

/-- Is any core of the package in RUN? -/
def Pkg.anyRun (p : Pkg) : Bool := p.cores.any fun c => c.2.st == .run

/-- Is any core of vat `v` in RUN? -/
def Pkg.anyRunIn (p : Pkg) (v : Nat) : Bool := p.cores.any fun c => c.1 / 128 == v && c.2.st == .run

/-- Is any logical core named by the list in RUN? -/
def Pkg.runs (p : Pkg) (id : Nat) : Bool :=
  match p.physOf id with
  | some k => p.isCore id && (p.core k).st == .run
  | none => false

/-! ### Addresses (R42–R45) -/

/-- What stands at a package physical address. -/
inductive Place where
  | user (v : Nat)
  | reserved (v : Nat)
  | cellar (v : Nat)
  | staging (slot : Nat)
  | trace
  | mailbox
  | csr
  | nothing
  deriving DecidableEq, Repr

/-- The map of R42; the window of an absent vat holds nothing. -/
def Pkg.place (p : Pkg) (a : Nat) : Place :=
  if a < 0x010000000000 then
    let v := a / 0x4000000000
    let o := a % 0x4000000000
    if !p.hasVat v then .nothing
    else if o < 0x40000000 then .reserved v
    else if o < 0x3C00000000 then .user v
    else .nothing
  else if a < 0x020000000000 then
    let v := (a - 0x010000000000) / 0x100000000
    let o := (a - 0x010000000000) % 0x100000000
    if p.hasVat v && o < 0x10000000 then .cellar v else .nothing
  else if a < 0x020008000000 then .staging ((a - 0x020000000000) / 0x400000)
  else if a < 0x020010000000 then .nothing
  else if a < 0x020012000000 then .trace
  else if a < 0x020020000000 then .nothing
  else if a < 0x020020400000 then (if p.fuse.guest then .mailbox else .nothing)
  else if a < 0x030000000000 then .nothing
  else if a < 0x030001000000 then .csr
  else .nothing

/-- The dies: the compute dies by vat, the hub 4, the guest die 5. -/
def dieOf (a : Nat) : Nat :=
  if a < 0x010000000000 then a / 0x4000000000
  else if a < 0x020000000000 then (a - 0x010000000000) / 0x100000000
  else if 0x020020000000 ≤ a && a < 0x020020400000 then 5 else 4

/-- Depth of the credit-counted queue of an engine (R32). The spec gives none: DESIGN CHOICE (log entry 109). -/
def creditDepth : Nat := 64

/-- Is a byte in the program memory of a present vat? -/
def Pkg.isUser (p : Pkg) (a : Nat) : Bool :=
  match p.place a with
  | .user _ => true
  | _ => false

/-- Is the range in the program memory of one present vat? -/
def Pkg.userRange (p : Pkg) (a n : Nat) : Bool :=
  p.isUser a && p.isUser (a + (n - 1)) && a / 0x4000000000 == (a + (n - 1)) / 0x4000000000

/-- The GiB index of an address in its vat window. -/
def gibOf (a : Nat) : Nat := a % 0x4000000000 / 0x40000000

/-- Is the byte at `a` in a cave (R370)? -/
def Pkg.inCave (p : Pkg) (a : Nat) : Bool :=
  match p.place a with
  | .user v =>
    let g := gibOf a
    let r := if g < 64 then Reg.MC_CAVE0 else if g < 128 then .MC_CAVE1 else if g < 192 then .MC_CAVE2 else .MC_CAVE3
    bitOf (p.reg r v).toNat (g % 64)
  | _ => false

/-- Block number, pseudo-channel P, slot of an address in its vat window (R347). -/
def blockNo (a : Nat) : Nat := a % 0x4000000000 / 4096

def pchOfBlock (b : Nat) : Nat := (b % 256) ^^^ (b / 256 % 256) ^^^ (b / 65536 % 256) ^^^ (b / 16777216 % 4)

/-- The stack that holds an address of a vat window (R347). -/
def stackOf (a : Nat) : Nat := 4 * (a / 0x4000000000) + pchOfBlock (blockNo a) / 64

/-- Key of the pseudo-channel of an address: 64 × stack + PCH. -/
def pchKey (a : Nat) : Nat := 256 * (a / 0x4000000000) + pchOfBlock (blockNo a)

/-- Address of the rind-table entry of the block at `a` (R350). -/
def rindEntry (a : Nat) : Nat :=
  let b := blockNo a
  let n := b / 256
  let k := n / 1024
  let t := 256 * k + (pchOfBlock b ^^^ k)
  a / 0x4000000000 * 0x4000000000 + 4096 * t + 4 * (n % 1024)

/-- The granule at `a` within its block. -/
def granOf (a : Nat) : Nat := a % 4096 / 64

/-- Raw offset of the group of 17 granules that holds the granule at `a` (R348). -/
def rawGroup (a : Nat) : Nat := 4352 * (blockNo a / 256) + 1088 * (granOf a / 16)

/-- Raw offset of the granule at `a` in its pseudo-channel (R348). -/
def rawOf (a : Nat) : Nat := rawGroup a + 64 * (granOf a % 16)

/-- Raw offset of the check granule of its group (R348). -/
def rawCheck (a : Nat) : Nat := rawGroup a + 1024

/-- Raw offset of symbol `s` of its codeword (R348): its 64 bytes, then 4 bytes of the check granule. -/
def rawSymbol (a s : Nat) : Nat := if s < 64 then rawOf a + s else rawCheck a + 4 * (granOf a % 16) + (s - 64)

/-- Bank, row and column of a raw offset (R348). -/
def rawPlace (o : Nat) : Nat × Nat × Nat := (o / 2048 % 64, o / 131072, o % 2048)

/-- Bank and row of the granule at `a` in its pseudo-channel (R348). -/
def bankRow (a : Nat) : Nat × Nat := ((rawPlace (rawOf a)).1, (rawPlace (rawOf a)).2.1)

/-- The `i`-th row of the remap area, rows 8,160–8,191 of every bank (R348). The spec does not say which remap row a retired
row takes: DESIGN CHOICE (log entry 128), the banks in turn. -/
def remapRow (i : Nat) : Nat × Nat := (i % 64, 8160 + i / 64)

/-- The data pin on which byte `k` of a granule travels, and the first of its 8 beats (R349). -/
def pinOf (k : Nat) : Nat × Nat := (k % 32, 8 * (k / 32))

/-- The pin of symbol `s` of the codeword of the granule at `a` (R348, R349). -/
def symPin (a s : Nat) : Nat := (pinOf (if s < 64 then s else 4 * (granOf a % 16) + (s - 64))).1

/-! ### Memory -/

/-- What an unlisted byte reads as: zero, and in the rind tables the bytes of the rind of a zero block (R353). -/
def memDefault (a : Nat) : Byte :=
  if a < 0x010000000000 && a % 0x4000000000 < 0x0F000000 then BitVec.ofNat 8 (zeroRind / 256 ^ (a % 4)) else 0

/-- Bytes from a list whose first key is not below `a`. -/
def memTake : Nat → Nat → Memory → List Byte
  | 0, _, _ => []
  | n + 1, a, [] => memDefault a :: memTake n (a + 1) []
  | n + 1, a, (k, b) :: t =>
    if k == a then b :: memTake n (a + 1) t else memDefault a :: memTake n (a + 1) ((k, b) :: t)

/-- `n` bytes from address `a`. -/
def Memory.read (m : Memory) (a n : Nat) : List Byte := memTake n a (m.dropWhile fun c => c.1 < a)

/-- One byte. -/
def Memory.byte (m : Memory) (a : Nat) : Byte :=
  match m.find? fun c => c.1 == a with
  | some c => c.2
  | none => memDefault a

/-- The listed cells of bytes at `a`: those that differ from the default. -/
def memCells : Nat → List Byte → Memory
  | _, [] => []
  | a, b :: bs => if b == memDefault a then memCells (a + 1) bs else (a, b) :: memCells (a + 1) bs

/-- Bytes written from address `a` on. -/
def Memory.write (m : Memory) (a : Nat) (bs : List Byte) : Memory :=
  if bs.isEmpty then m else
  (m.takeWhile fun c => c.1 < a) ++ memCells a bs ++ (m.dropWhile fun c => c.1 < a + bs.length)

/-- Addresses rise strictly from `lo` on. -/
def memRises : Nat → Memory → Bool
  | _, [] => true
  | lo, (k, _) :: t => decide (lo ≤ k) && memRises (k + 1) t

/-- The canonical form of memory: strictly rising addresses, no entry equal to its default. -/
def Memory.wf (m : Memory) : Bool := memRises 0 m && m.all fun c => c.2 != memDefault c.1

/-- The addressed memory together with the rest of the package. -/
structure Dev where
  mem : Memory
  pkg : Pkg
  deriving DecidableEq, Repr

/-! ### Pseudo-channels, and the codes over memory (R348–R359, R372–R374) -/

/-- Pseudo-channel `c` = 64 × stack + PCH. -/
def Pkg.pch (p : Pkg) (c : Nat) : Pch := tget Pch.init p.pchs c

def Pkg.setPch (p : Pkg) (c : Nat) (x : Pch) : Pkg := { p with pchs := tset Pch.init p.pchs c x }

/-- Bank and row in use for the granule at `a`: those of its remap row once its row is retired, and so on where that row was
retired later (R359). -/
def Pkg.rowOf (p : Pkg) (a : Nat) : Nat × Nat :=
  (p.pch (pchKey a)).retired.foldl (fun br r => if (r.1, r.2.1) == br then remapRow r.2.2 else br) (bankRow a)

/-- Is a row that the range touches under copy (R359)? -/
def Pkg.underCopy (p : Pkg) (a n : Nat) : Bool :=
  decide (a < 0x010000000000) && !(p.pch (pchKey a)).copying.isEmpty &&
    (unitsOf 64 a n).any fun g => (p.pch (pchKey g)).copying.any fun r => (r.1, r.2.1) == p.rowOf g

/-- A row among the 32 with the most recent corrections, raised by one correction (R359). -/
def Pch.rowHit (x : Pch) (bank row : Nat) : Pch :=
  let old := (x.rows.find? fun r => r.bank == bank && r.row == row).getD ⟨bank, row, 0, 0⟩
  let rest := x.rows.filter fun r => !(r.bank == bank && r.row == row)
  let rest := if rest.length < 32 then rest
    else match rest with
      | [] => []
      | r :: t =>
        let low := t.foldl (fun (a : RowTrk) b => if b.last < a.last then b else a) r
        rest.filter (· != low)
  { x with rows := rest ++ [{ old with cnt := old.cnt + 1, last := x.rowTick }], rowTick := x.rowTick + 1 }

/-- The slice of the cellar that holds block `c`, and the block's place in it (R372, R374). -/
def cellarSlice (c : Nat) : Nat × Nat := ((c % 32) ^^^ (c / 32 % 32), c / 32)

/-- The protected unit that holds byte `a`, by its address ÷ 8: a granule of a stack, a 64-bit word of an SRAM. -/
def unitOf (a : Nat) : Nat := if a < 0x010000000000 then a / 64 * 8 else a / 8

/-- Bytes of a protected unit. -/
def unitLen (u : Nat) : Nat := if u * 8 < 0x010000000000 then 64 else 8

/-- Does the unit touch the range? -/
def unitIn (a n u : Nat) : Bool := decide (a < u * 8 + unitLen u) && decide (u * 8 < a + n)

/-- What decoding a unit gives: no error, the error corrected, another codeword, or an uncorrectable error. -/
inductive Decode where
  | clean
  | fixed (syms : List (Nat × Nat))
  | other (syms : List (Nat × Nat))
  | lost
  deriving DecidableEq, Repr

/-- The symbols that the decoder takes as erasures: those of the marked pin (R358). -/
def Pkg.erased (p : Pkg) (a : Nat) : List Nat :=
  (List.range 68).filter fun s => bitOf (p.getF F.MC_LANE.MARKED (pchKey a)) (symPin a s)

/-- The decode of a unit (R354, R373): RS(68,64) corrects `e` errors beside `f` erasures when 2e + f is at most 4; SECDED
corrects one bit. -/
def Pkg.decode (p : Pkg) (u : Nat) : Decode :=
  match tfind p.flaws u with
  | none => .clean
  | some es =>
    if unitLen u == 64 then
      let er := p.erased (8 * u)
      if 2 * (es.filter fun s => !er.contains s.1).length + er.length ≤ 4 then .fixed es
      else match Config.rsOther es er with
        | some xs => .other xs
        | none => .lost
    else if es.length ≤ 1 then .fixed es else .lost

/-- A symbol XORed with a value; one that is right again leaves the list. -/
def xorSym (es : List (Nat × Nat)) (s : Nat × Nat) : List (Nat × Nat) :=
  let v := (match es.find? (·.1 == s.1) with
    | some x => x.2
    | none => 0) ^^^ s.2
  let rest := es.filter (·.1 != s.1)
  if v == 0 then rest else rest ++ [(s.1, v)]

/-- A table of symbols changed at a unit. -/
def setSyms (t : Tab (List (Nat × Nat))) (u : Nat) (es : List (Nat × Nat)) : Tab (List (Nat × Nat)) := tset [] t u es

/-- Errors come into memory (log entry 129). -/
def Pkg.struck (p : Pkg) (errs : List CwErr) : Pkg :=
  errs.foldl (fun p e =>
    let u := unitOf e.addr.toNat
    let syms := if unitLen u == 64 then (e.syms.filter fun s => s.1.toNat < 68).map fun s => (s.1.toNat, s.2.toNat)
      else (e.syms.filter fun s => s.1.toNat < 72).map fun s => (s.1.toNat, 1)
    { p with flaws := setSyms p.flaws u (syms.foldl xorSym (tget [] p.flaws u)) }) p

/-- The bytes that changed symbols of a unit touch, with their XOR values. -/
def symBytes (u : Nat) (es : List (Nat × Nat)) : List (Nat × Nat) :=
  if unitLen u == 64 then (es.filter (·.1 < 64)).map fun s => (8 * u + s.1, s.2)
  else (es.filter (·.1 < 64)).map fun s => (8 * u + s.1 / 8, 2 ^ (s.1 % 8))

/-- Bytes read from address `a` with changed bytes XORed in. -/
def flipBytes (a : Nat) (bs : List Byte) (xs : List (Nat × Nat)) : List Byte :=
  xs.foldl (fun bs x =>
    if a ≤ x.1 && x.1 < a + bs.length then bs.set (x.1 - a) (bs.getD (x.1 - a) 0 ^^^ BitVec.ofNat 8 x.2) else bs) bs

/-- What a read of a range delivers (R354, R355, R360): corrected data; an uncorrectable unit as it is read. -/
def Memory.view (m : Memory) (p : Pkg) (a n : Nat) : List Byte :=
  if p.flaws.isEmpty && p.skew.isEmpty then m.read a n
  else
    let old := (p.skew.filter fun c => unitIn a n c.1).map fun c => symBytes c.1 c.2
    let new := (p.flaws.filter fun c => unitIn a n c.1).map fun c => match p.decode c.1 with
      | .other xs => symBytes c.1 (xs.foldl xorSym c.2)
      | .lost => symBytes c.1 c.2
      | _ => []
    flipBytes a (m.read a n) (old ++ new).flatten

/-- The vat of the director core whose loaded program claims a staging slot (R470). -/
def Pkg.slotVat (p : Pkg) (slot : Nat) : Option Nat :=
  (p.cores.find? fun c => c.2.hdr.loaded && bitOf c.2.hdr.claims slot).map fun c => c.1 / 128

/-- A corrected unit is counted, a codeword's symbols attributed to their pins and its row (R355, R358, R359, R373). A staging
word counts with the cellar of the vat concerned (R412, R470; DEDUCED, log entry 148). -/
def Pkg.corrected (p : Pkg) (u : Nat) (syms : List (Nat × Nat)) : Pkg :=
  let a := 8 * u
  match p.place a with
  | .cellar v => p.addF F.MC_CELLAR_ERR.CE v 1
  | .staging s =>
    match p.slotVat s with
    | some v => p.addF F.MC_CELLAR_ERR.CE v 1
    | none => p
  | .user _ | .reserved _ =>
    let p := p.addF F.MC_ERR.CE (pchKey a) 1
    let x := p.pch (pchKey a)
    let x := { x with pins := syms.foldl (fun (t : Tab Nat) (s : Nat × Nat) => tset 0 t (symPin a s.1) (tget 0 t (symPin a s.1) + 1)) x.pins }
    p.setPch (pchKey a) (x.rowHit (p.rowOf a).1 (p.rowOf a).2)
  | _ => p

/-- A unit is decoded by a read: what can be corrected is written back (R355). -/
def Pkg.decodeUnit (p : Pkg) (u : Nat) : Pkg :=
  match p.decode u with
  | .fixed es => ({ p with flaws := tdel p.flaws u } : Pkg).corrected u es
  | .other xs =>
    let now := xs.foldl xorSym ((tget [] p.flaws u).foldl xorSym (tget [] p.skew u))
    ({ p with flaws := tdel p.flaws u, skew := setSyms p.skew u now } : Pkg).corrected u xs
  | _ => p

/-- Every unit of a range is decoded (R355). -/
def Pkg.decodeRange (p : Pkg) (a n : Nat) : Pkg :=
  ((p.flaws.filter fun c => unitIn a n c.1).map (·.1)).foldl Pkg.decodeUnit p

/-- The uncorrectable units of a range. -/
def Pkg.badIn (p : Pkg) (a n : Nat) : List Nat :=
  ((p.flaws.map (·.1)).filter fun u => unitIn a n u && p.decode u == .lost)

/-- Does the range hold a unit with an uncorrectable error (R360, R373)? -/
def Pkg.badRange (p : Pkg) (a n : Nat) : Bool := !(p.badIn a n).isEmpty

/-- Units without errors: overwritten whole. -/
def Pkg.unflaw (p : Pkg) (us : List Nat) : Pkg :=
  { p with flaws := us.foldl tdel p.flaws, skew := us.foldl tdel p.skew }

/-- The check granule of the group that holds the granule at `a`: the check bytes of its 16 codewords (R348). -/
def Memory.checkGranule (m : Memory) (a : Nat) : List Byte :=
  let g := a - a % 1024
  ((List.range 16).map fun i => leBytes 4 (Config.rsCheck (m.read (g + 64 * i) 64)).toNat).flatten

/-- The block's rind as stored (R216, R350, R374). -/
def Dev.rind (d : Dev) (a : Nat) : Nat :=
  if a < 0x010000000000 then ofLe (d.mem.view d.pkg (rindEntry a) 4)
  else (tget (BitVec.ofNat 32 zeroRind) d.pkg.crinds (a / 4096)).toNat

/-- The block's rind written. -/
def Dev.setRind (d : Dev) (a r : Nat) : Dev :=
  if a < 0x010000000000 then { d with mem := d.mem.write (rindEntry a) (leBytes 4 r) }
  else { d with pkg := { d.pkg with
    crinds := tset (BitVec.ofNat 32 zeroRind) d.pkg.crinds (a / 4096) (BitVec.ofNat 32 r) } }

/-- Bytes of a range as a whole number of a block: the 4 KiB block that holds `a`. -/
def blockOf (a : Nat) : Nat := a - a % 4096

/-- The invalid-mark drop at a vat that is not READY, logged (R39). DESIGN CHOICE (log entry 110): the record is its count,
for the spec names no counter of such drops. -/
def Pkg.vatDrop (p : Pkg) (v : Nat) : Pkg := p.event 0x4001 v 0x14 false 0 0 v

/-- A request dropped at a cave (R371). -/
def Pkg.caveDrop (p : Pkg) (a kind slate : Nat) : Pkg :=
  let s := stackOf a
  let first := p.getF F.MC_CAVE_STAT.DROPS s == 0
  let p := p.addF F.MC_CAVE_STAT.DROPS s 1
  if first then p.event 0x1840 (s / 4) 0x11 false s slate (kind * 4096 + gibOf a) else p

/-- A request dropped under a maintenance hold (R375): counted, and logged once per hold. -/
def Pkg.holdDrop (p : Pkg) (s kind : Nat) : Pkg :=
  let q := p.addF F.MC_MAINT.DROPS s 1
  if tget false p.holdLog s then q
  else ({ q with holdLog := tset false q.holdLog s true }).event 0x1846 (s / 4) 0x11 false s 0 (kind * 4096)

/-- Is the stack under a maintenance hold? -/
def Pkg.held (p : Pkg) (s : Nat) : Bool := p.flag F.MC_MAINT.HOLD s

/-- Does a read by a requester kind open the data at `a`: its vat is READY (R39) and no maintenance hold turns it away (R375)? -/
def Pkg.opens (p : Pkg) (kind a : Nat) : Bool :=
  match p.place a with
  | .user v | .reserved v => p.vatReady v && (kind == 6 || !p.held (stackOf a))
  | .cellar v => p.vatReady v
  | .nothing => false
  | _ => true

/-- What a read of a range delivered: bytes, whether the delivery is bad (R39, R360), and whether its rind is invalid
whatever is stored (R375). -/
structure Got where
  bytes : List Byte
  bad : Bool
  inv : Bool
  deriving DecidableEq, Repr

/-- A delivery of bytes with a valid rind where they have one. -/
def Got.plain (bs : List Byte) (bad : Bool) : Got := ⟨bs, bad, false⟩

/-- A read of a range by a requester kind: zeros and bad from a vat that is not READY (R39), data with an invalid rind under a
maintenance hold (R375), bad where a unit is uncorrectable (R360). -/
def Memory.fetch (m : Memory) (p : Pkg) (kind a n : Nat) : Got :=
  match p.place a with
  | .user v =>
    if !p.vatReady v then .plain (List.replicate n 0) true
    else if kind != 6 && p.held (stackOf a) then ⟨m.view p a n, false, true⟩
    else .plain (m.view p a n) (p.badRange a n)
  | .reserved v =>
    if !p.vatReady v then .plain (List.replicate n 0) true
    else if kind != 6 && p.held (stackOf a) then ⟨m.view p a n, false, true⟩
    else .plain (m.view p a n) (p.badRange a n)
  | .cellar v => if !p.vatReady v then .plain (List.replicate n 0) true else .plain (m.view p a n) (p.badRange a n)
  | .nothing => .plain (List.replicate n 0) true
  | _ => .plain (m.view p a n) (p.badRange a n)

/-- What a read of a range leaves behind: a drop at a vat that is not READY (R39) or under a maintenance hold (R375), or the
decode of what it touches (R355, R373). -/
def Pkg.noteRead (p : Pkg) (kind a n : Nat) : Pkg :=
  match p.place a with
  | .user v | .reserved v =>
    if !p.vatReady v then p.vatDrop v
    else if kind != 6 && p.held (stackOf a) then p.holdDrop (stackOf a) kind
    else p.decodeRange a n
  | .cellar v => if !p.vatReady v && n != 0 then p.vatDrop v else p.decodeRange a n
  | _ => p.decodeRange a n

/-- Outcome of a rind check (R218). -/
inductive RindOut where
  | valid | invalid | corrupt
  deriving DecidableEq, Repr

/-- The stored rind against the data of its block (R218). -/
def rindCheck (stored : Nat) (bs : List Byte) : RindOut :=
  let r := rindOf bs
  if stored == r then .valid else if stored == invalidMark r then .invalid else .corrupt

end Sys2Proof.Machine
end

