-- ==== Sys2Proof/Machine/Operands.lean ====
section
/-! DEFINITION. The operand forms of the slots: field layouts of every op (R161, R166, R170, R198, R206, R212, R230,
R239, R264, R321, R327, the MX layouts of 04), descriptors, footprints and scratch ranges. -/
namespace Sys2Proof.Machine

/-- Opcode of a slot. -/
def opcOf (b : Nat) : Nat := fld b 7 0

/-- A slot with its opcode replaced. -/
def withOpc (b opc : Nat) : Nat := b - b % 256 + opc

/-- A slot with the FOLD bit of opcode 11h that the command names (R153). -/
def withFold (b : Nat) (fold : Bool) : Nat := if bitOf b 8 == fold then b else b ^^^ 256

/-- The bits of a list of ranges. -/
def maskOf (rs : List (Nat × Nat)) : Nat :=
  rs.foldl (fun acc r => acc ||| ((2 ^ (r.1 + 1 - r.2) - 1) <<< r.2)) 0

/-- Does a slot set no bit outside the ranges its layout uses? -/
def onlyBits (b : Nat) (rs : List (Nat × Nat)) : Bool := b ||| maskOf rs == maskOf rs

/-- A scalar operand as the entry carries it; s0 reads as 0 (R57, R66). -/
def scal (sc : Tab Word) (r : Nat) : Nat := if r == 0 then 0 else (tget 0 sc r).toNat

/-! ### VE slot (R239) -/

structure VeOp where
  vd : Nat
  va : Nat
  vb : Nat
  vc : Nat
  pg : Nat
  pen : Bool
  zm : Bool
  bl : Nat
  bb : Bool
  sa : Nat
  sb : Nat
  sc : Nat
  fmt : Nat
  blk : Bool
  bsz : Bool
  fmt2 : Nat
  blk2 : Bool
  bsz2 : Bool
  pd : Nat
  sub : Nat
  init : Bool
  deriving DecidableEq, Repr

def veOp (b : Nat) : VeOp :=
  { vd := fld b 13 8, va := fld b 19 14, vb := fld b 25 20, vc := fld b 31 26, pg := fld b 34 32, pen := bitOf b 35,
    zm := bitOf b 36, bl := fld b 42 37, bb := bitOf b 43, sa := fld b 48 44, sb := fld b 53 49, sc := fld b 58 54,
    fmt := fld b 62 59, blk := bitOf b 63, bsz := bitOf b 64, fmt2 := fld b 68 65, blk2 := bitOf b 69,
    bsz2 := bitOf b 70, pd := fld b 73 71, sub := fld b 77 74, init := bitOf b 78 }

/-! ### MX slot (04) -/

structure LdwOp where
  km1 : Nat
  ssc : Nat
  ss : Nat
  sw : Nat
  fill : Bool
  trunc : Bool
  bsz : Bool
  blk : Bool
  fmt : Nat
  arr : Nat
  deriving DecidableEq, Repr

def ldwOp (b : Nat) : LdwOp :=
  { km1 := fld b 40 33, ssc := fld b 32 28, ss := fld b 27 23, sw := fld b 22 18, fill := bitOf b 17,
    trunc := bitOf b 16, bsz := bitOf b 15, blk := bitOf b 14, fmt := fld b 13 10, arr := fld b 9 8 }

structure MmaOp where
  mm1 : Nat
  ssc : Nat
  ss : Nat
  sa : Nat
  fill : Bool
  trunc : Bool
  bsz : Bool
  blk : Bool
  fmt : Nat
  swap : Bool
  acc : Bool
  bank : Nat
  amask : Nat
  deriving DecidableEq, Repr

def mmaOp (b : Nat) : MmaOp :=
  { mm1 := fld b 46 41, ssc := fld b 40 36, ss := fld b 35 31, sa := fld b 30 26, fill := bitOf b 25,
    trunc := bitOf b 24, bsz := bitOf b 23, blk := bitOf b 22, fmt := fld b 21 18, swap := bitOf b 17,
    acc := bitOf b 16, bank := fld b 15 13, amask := fld b 12 9 }

structure CmulOp where
  swap : Bool
  mm1 : Nat
  ssc2 : Nat
  ssc1 : Nat
  ssc0 : Nat
  ss : Nat
  sa2 : Nat
  sa1 : Nat
  sa0 : Nat
  fill : Bool
  bsz : Bool
  blk : Bool
  fmt : Nat
  acc : Bool
  bank : Nat
  gauss : Bool
  deriving DecidableEq, Repr

def cmulOp (b : Nat) : CmulOp :=
  { swap := bitOf b 62, mm1 := fld b 61 56, ssc2 := fld b 55 51, ssc1 := fld b 50 46, ssc0 := fld b 45 41,
    ss := fld b 40 36, sa2 := fld b 35 31, sa1 := fld b 30 26, sa0 := fld b 25 21, fill := bitOf b 20,
    bsz := bitOf b 18, blk := bitOf b 17, fmt := fld b 16 13, acc := bitOf b 12, bank := fld b 11 9,
    gauss := bitOf b 8 }

structure OutOp where
  rchk : Bool
  tid : Nat
  sr : Nat
  sclip : Nat
  ssb : Nat
  res : Bool
  clip : Bool
  bias : Bool
  scl : Bool
  rm1 : Nat
  sdc : Nat
  sds : Nat
  vd : Nat
  sd : Nat
  vreg : Bool
  bsz : Bool
  blk : Bool
  fmt : Nat
  bank : Nat
  arr : Nat
  deriving DecidableEq, Repr

def outOp (b : Nat) : OutOp :=
  { rchk := bitOf b 75, tid := fld b 74 67, sr := fld b 66 62, sclip := fld b 61 57, ssb := fld b 56 52,
    res := bitOf b 51, clip := bitOf b 50, bias := bitOf b 49, scl := bitOf b 48, rm1 := fld b 47 42,
    sdc := fld b 41 37, sds := fld b 36 32, vd := fld b 31 26, sd := fld b 25 21, vreg := bitOf b 20,
    bsz := bitOf b 19, blk := bitOf b 18, fmt := fld b 17 14, bank := fld b 12 10, arr := fld b 9 8 }

structure FoldOp where
  kt : Nat
  nt : Nat
  mm1 : Nat
  swc : Nat
  sws : Nat
  sw : Nat
  wfill : Bool
  ssc : Nat
  ss : Nat
  sa : Nat
  afill : Bool
  trunc : Bool
  bsz : Bool
  blk : Bool
  fmt : Nat
  acc : Bool
  bank : Nat
  deriving DecidableEq, Repr

def foldOp (b : Nat) : FoldOp :=
  { kt := fld b 61 60, nt := fld b 59 58, mm1 := fld b 57 52, swc := fld b 51 47, sws := fld b 46 42,
    sw := fld b 41 37, wfill := bitOf b 36, ssc := fld b 35 31, ss := fld b 30 26, sa := fld b 25 21,
    afill := bitOf b 20, trunc := bitOf b 19, bsz := bitOf b 18, blk := bitOf b 17, fmt := fld b 16 13,
    acc := bitOf b 12, bank := fld b 11 9 }

/-- K_tile of a format (R128). -/
def kTile (f : Nat) : Nat := if 6 ≤ f && f ≤ 8 then 128 else 64

/-! ### LD and ST slots (R206, R212, R230, R321, R327) -/

structure MoveOp where
  all : Bool
  hint : Nat
  ssc : Nat
  sd : Nat
  alt : Bool
  ssoff : Nat
  soff : Nat
  sdesc : Nat
  dsrc : Bool
  deriving DecidableEq, Repr

/-- LD.T, LD.PF, LD.INV, ST.T and the atomics place these fields alike: `sd` is SD or SS, `alt` is DST or SRC. -/
def moveOp (b : Nat) : MoveOp :=
  { all := bitOf b 46, hint := fld b 45 42, ssc := fld b 41 37, sd := fld b 36 32, alt := bitOf b 31,
    ssoff := fld b 30 26, soff := fld b 25 21, sdesc := fld b 20 16, dsrc := bitOf b 15 }

/-! ### SY slot (R264) -/

structure SyOp where
  n : Nat
  tc : Nat
  tgt : Nat
  stg : Nat
  sem : Nat
  serve : Nat
  deriving DecidableEq, Repr

def syOp (b : Nat) : SyOp :=
  { n := fld b 63 48, tc := fld b 33 32, tgt := fld b 31 30, stg := fld b 29 25, sem := fld b 21 16,
    serve := fld b 10 8 }

/-! ### Footprints as runs of bytes -/

/-- A run of bytes. -/
structure Run where
  addr : Nat
  len : Nat
  deriving DecidableEq, Repr

/-- The first byte of runs that lies at or beyond `size`. DESIGN CHOICE (log entry 121): first in the order of the elements. -/
def firstOut (size : Nat) : List Run → Option Nat
  | [] => none
  | r :: rs => if r.len != 0 && size < r.addr + r.len then some (max r.addr size) else firstOut size rs

/-- Scratch size in bytes of a core (R70). -/
def Pkg.scratch (p : Pkg) (k : Nat) : Nat := (p.core k).hdr.scratchWays * 131072

/-- The scratch-range check of R72: code and DETAIL. -/
def scratchCheck (size : Nat) (rs : List Run) : Option (Nat × Nat) :=
  (firstOut size rs).map fun o => (0x1810, o / 512 % 2 ^ 16)

/-- The code of a refused address for a core access, if refused (R43–R45): staging slots need a claim, CSR space the
one readable register. -/
def Pkg.addrCode (p : Pkg) (claims : Nat) (a : Nat) : Option Nat :=
  match p.place a with
  | .user _ => none
  | .cellar _ => none
  | .reserved _ => some 0x1802
  | .staging s => if bitOf claims s then none else some 0x1803
  | .trace => some 0x1803
  | .mailbox => some 0x1803
  | .csr => some 0x1803
  | .nothing => some 0x1801

/-- The 4 KiB-aligned pieces of a run, each within one block. -/
def pieces (r : Run) : List Run :=
  (unitsOf 4096 r.addr r.len).map fun b =>
    let lo := max r.addr b
    ⟨lo, min (r.addr + r.len) (b + 4096) - lo⟩

/-- The address check over a footprint: every byte of a piece stands in one place; the lowest code wins, with the
first byte it refuses (R44, R574). -/
def Pkg.addrCheck (p : Pkg) (claims : Nat) (rs : List Run) : Option (Nat × Nat) :=
  let bad := ((rs.map pieces).flatten.filterMap fun r =>
    (p.addrCode claims r.addr).map fun c => (c, r.addr / 2 ^ 32 % 2 ^ 16))
  bad.foldl (fun acc x => match acc with
    | none => some x
    | some y => if x.1 < y.1 then some x else acc) none

/-! ### Tensor descriptors (R198–R204) -/

structure Desc where
  base : Nat
  fmt : Nat
  blk : Bool
  bsz : Bool
  tid : Nat
  ndim : Nat
  bdim : Nat
  rind : Bool
  stream : Bool
  cave : Bool
  scale : Bool
  dims : List (Nat × Nat)
  sdesc : Nat
  zeroOk : Bool
  deriving DecidableEq, Repr

/-- A descriptor from its 64 bytes (R198, R199). -/
def descOf (bs : List Byte) : Desc :=
  let w (o n : Nat) := leAt bs o n
  let form := w 8 1
  let shape := w 10 1
  let attr := w 11 1
  { base := w 0 6, fmt := fld form 3 0, blk := bitOf form 4, bsz := bitOf form 5, tid := w 9 1,
    ndim := fld shape 2 0, bdim := fld shape 5 3, rind := bitOf attr 0, stream := bitOf attr 1,
    cave := bitOf attr 2, scale := bitOf attr 3,
    dims := (List.range 5).map fun i => (w (16 + 8 * i) 3, w (16 + 8 * i + 3) 5),
    sdesc := w 0x38 6,
    zeroOk := zeroAt bs 6 2 && fld form 7 6 == 0 && fld shape 7 6 == 0 && fld attr 7 4 == 0 && zeroAt bs 12 4 &&
      zeroAt bs 0x3E 2 }

/-- Size of dimension `i`, 1 beyond NDIM. -/
def Desc.size (d : Desc) (i : Nat) : Nat := if i < d.ndim then (d.dims.getD i (1, 0)).1 else 1

def Desc.stride (d : Desc) (i : Nat) : Nat := if i < d.ndim then (d.dims.getD i (1, 0)).2 else 0

/-- Bytes of one dimension-0 row (R96). -/
def Desc.row (d : Desc) : Nat := rowBytes d.fmt (d.size 0)

/-- The rows of the footprint in element order with offset value `o` (R200). -/
def Desc.runs (d : Desc) (o : Nat) : List Run :=
  let col (i : Nat) (f : Nat → List Nat) : List Nat := ((List.range (d.size i)).map fun j => (f (j * d.stride i))).flatten
  let starts := col 4 fun a4 => col 3 fun a3 => col 2 fun a2 => col 1 fun a1 => [a1 + a2 + a3 + a4]
  starts.map fun s => ⟨(d.base + o + s) % 2 ^ 64, d.row⟩

/-- Packed bytes of the footprint. -/
def Desc.bytes (d : Desc) : Nat := d.row * d.size 1 * d.size 2 * d.size 3 * d.size 4

/-- Byte extent of dimensions 0 to `i` (R214). -/
def Desc.extent (d : Desc) : Nat → Nat
  | 0 => d.row
  | i + 1 => (d.size (i + 1) - 1) * d.stride (i + 1) + d.extent i

/-- Does the footprint overlap itself (R214)? A reserved FMT has no row length to judge by. -/
def Desc.overlaps (d : Desc) : Bool :=
  d.fmt < 13 && (List.range (d.ndim - 1)).any fun i => d.stride (i + 1) < d.extent i

/-- The checks of R204 on one descriptor's own bytes: lowest reason. `dataScale` says that SCALE = 1 is refused. -/
def Desc.check (d : Desc) (dataScale : Bool) : Option Nat :=
  if !d.zeroOk then some 1
  else if d.ndim == 0 || 5 < d.ndim || d.ndim ≤ d.bdim then some 2
  else if (List.range 5).any (fun i => let e := d.dims.getD i (0, 0)
      if i < d.ndim then e.1 == 0 || 8388608 < e.1 else e.1 != 0 || e.2 != 0) then some 3
  else if (d.dims.getD 0 (0, 0)).2 != 0 then some 4
  else if (d.blk && d.sdesc == 0) || (!d.blk && d.sdesc != 0) then some 5
  else if dataScale && d.scale then some 7
  else none

/-- Does scale descriptor `s` meet R201 for data descriptor `d`? DESIGN CHOICE (log entry 125): one that breaks R198 or R199
only has the reason of a scale fault too. -/
def Desc.scaleOk (d s : Desc) : Bool :=
  s.fmt == 9 && !s.blk && !s.bsz && s.scale && s.ndim == d.ndim && s.sdesc == 0 && s.check false == none &&
    d.size d.bdim % blkLen d.bsz == 0 &&
    (List.range d.ndim).all fun i => s.size i == (if i == d.bdim then d.size i / blkLen d.bsz else d.size i)

end Sys2Proof.Machine
end

