-- ==== Sys2Proof/Machine/Flags.lean ====
section
/-! DEFINITION. The counters, sticky flags and records that ops leave behind: skips (R191–R196, R574), conversion
counts and flags (R118–R122, R243, R300, R304), scale-table recording (R288–R290). -/
namespace Sys2Proof.Machine

/-- Is an op dispatched in bracket `b` part of the bracket now open on core `k` (R122, R181)? -/
def Pkg.inBracket (p : Pkg) (k : Nat) (b : Option Nat) : Bool :=
  p.flag F.CORE_BRACKET.OPEN k && b == some (p.core k).fe.brkNo

/-- Does an op belong to the bracket last opened on core `k`, which its results join though it was abandoned since (R122,
R288, R304)? -/
def Pkg.ofBracket (p : Pkg) (k : Nat) (b : Option Nat) : Bool := b == some (p.core k).fe.brkNo

/-- The index that event records name for physical core `k`: its logical index. -/
def Pkg.logIdx (p : Pkg) (k : Nat) : Nat := ((p.logicalOf k).getD k) % 128

/-- A record into the debug trace ring (R572). -/
def Pkg.traceRec (p : Pkg) (ws : List Nat) : Pkg :=
  let n := p.getF F.LOG_TRACE_CFG.DBG_KIB 0 * 32
  if n == 0 || !p.flag F.LOG_TRACE_CTL.EN 0 then p
  else if p.flag F.LOG_TRACE_PTR.WRAPPED 0 && p.flag F.LOG_TRACE_CTL.STOP_FULL 0 then
    p.addF F.LOG_TRACE_PTR.DROPPED 0 1
  else
    let i := p.getF F.LOG_TRACE_PTR.NEXT 0
    let v := ws.foldr (fun w acc => w % 2 ^ 64 + acc * 2 ^ 64) 0
    let p := { p with trace := tset 0 p.trace i (BitVec.ofNat 256 v) }
    if i + 1 == n then (p.setF F.LOG_TRACE_PTR.NEXT 0 0).setF F.LOG_TRACE_PTR.WRAPPED 0 1
    else p.setF F.LOG_TRACE_PTR.NEXT 0 (i + 1)

/-- The counting of one skipped op and its record under the limit of R195; `kind` is the unit kind of R194, `w2` and
`w3` the last words of the skip record of R196. DESIGN CHOICE (log entry 124): a skip whose event record a full EVENT FIFO drops
is logged all the same, for the limit and for the trace. -/
def Pkg.skipRec (p : Pkg) (k kind slate code detail : Nat) (sticky : Bool) (w2 w3 : Nat) : Pkg :=
  let p := p.addF F.CORE_IFAULT.SKIPS k 1
  let p := if sticky then p.setF F.CORE_IFAULT.SKIP_STICKY k 1 else p
  let c := p.core k
  if c.fe.recs < 64 then
    let w0 := eventWord code (k / 128) kind false (p.logIdx k) slate detail
    let p := p.setCore k { c with fe := { c.fe with recs := c.fe.recs + 1 } }
    (p.pushFifo 0 [w0, timeWord p.time]).traceRec [w0, timeWord p.time, w2, w3]
  else p.addF F.CORE_IFAULT.SUPPRESSED k 1

/-- A skip of one slot's op (R191, R196): `eng` is the slot, `kind` the unit kind that logs. -/
def Pkg.skipOp (p : Pkg) (k : Nat) (eng : Eng) (kind bits slate idx : Nat) (brk : Option Nat) (code detail : Nat) : Pkg :=
  p.skipRec k kind slate code detail (p.inBracket k brk) (bits % 2 ^ 64)
    (eng.slot * 2 ^ 56 + idx % 2 ^ 24 * 2 ^ 32 + bits / 2 ^ 64 % 2 ^ 32)

/-- DETAIL of codes 0x0002, 0x0005, 0x0020–0x0025, 0x0210–0x0214, 0x0240–0x0252: slot and opcode. -/
def slotDetail (eng : Eng) (bits : Nat) : Nat := eng.slot * 256 + opcOf bits

/-- DETAIL of codes 0x0201 and 0x0202 (R123). -/
def fmtDetail (eng : Eng) (fmt : Nat) (blk bsz : Bool) : Nat :=
  eng.slot * 256 + fmt * 16 + b2n blk * 2 + b2n bsz

/-- DETAIL of codes 0x0230–0x0237: slot, low opcode bits and reason (R234). -/
def moveDetail (eng : Eng) (bits reason : Nat) : Nat := eng.slot * 256 + opcOf bits % 16 * 16 + reason

/-- Sum of two ops' counts; the higher rank stands (R300). -/
def Cnt.add (a b : Cnt) : Cnt :=
  ⟨a.ovf + b.ovf, if b.ovf == 0 then a.rank else if a.ovf == 0 then b.rank else max a.rank b.rank, a.nf + b.nf,
    a.unf + b.unf, a.rng + b.rng⟩

/-- The counts of one element: each counter at most once (R121). -/
def Cnt.one (ovf : Bool) (rank : Nat) (nf unf rng : Bool) : Cnt :=
  ⟨b2n ovf, if ovf then rank else 0, b2n nf, b2n unf, b2n rng⟩

def Cnt.sum (l : List Cnt) : Cnt := l.foldl Cnt.add Cnt.zero

/-- An op's counts land (R118, R120, R122, R304): the counters always, the flags and bracket counts only for an op of
the bracket. -/
def Pkg.land (p : Pkg) (k : Nat) (brk : Option Nat) (c : Cnt) : Pkg :=
  let p := p.addF F.CORE_CVT_CNT0.OVERFLOW k c.ovf
  let p := p.addF F.CORE_CVT_CNT0.NONFINITE k c.nf
  let p := p.addF F.CORE_CVT_CNT1.UNDERFLOW k c.unf
  let p := p.addF F.CORE_NUM_CNT.RANGE k c.rng
  if p.ofBracket k brk then
    let p := if c.ovf != 0 then
        (p.setF F.CORE_CVT_FLAGS.OVF_STICKY k 1).setF F.CORE_NUM_BRK2.OVF_RANK k
          (max (p.getF F.CORE_NUM_BRK2.OVF_RANK k) c.rank) else p
    let p := if c.nf != 0 then p.setF F.CORE_CVT_FLAGS.NF_STICKY k 1 else p
    let p := p.addF F.CORE_NUM_BRK0.B_OVERFLOW k c.ovf
    let p := p.addF F.CORE_NUM_BRK0.B_NONFINITE k c.nf
    let p := p.addF F.CORE_NUM_BRK1.B_UNDERFLOW k c.unf
    p.addF F.CORE_NUM_BRK1.B_RANGE k c.rng
  else p

/-- Scale-table entry `tid` of core `k`. -/
def Core.ent (c : Core) (tid : Nat) : ScEnt := tget ScEnt.empty c.sct tid

def Core.setEnt (c : Core) (tid : Nat) (e : ScEnt) : Core := { c with sct := tset ScEnt.empty c.sct tid e }

/-- A positive finite FP32 pattern (R289). -/
def posFinite (x : Nat) : Bool := 0 < x && x < 0x7F800000

/-- The largest counting history slot, 0 for none (R289): positive FP32 patterns order as their values. -/
def ScEnt.largest (e : ScEnt) : Nat :=
  maxOf ((e.hist.map fun h => h.2.toNat).filter posFinite)

/-- The ceiling exponent X_T, if the entry imposes one (R289). -/
def ScEnt.ceiling (e : ScEnt) : Option Int :=
  if !e.ceilEn || e.largest == 0 then none
  else
    match dec32 e.largest with
    | .fin _ m x => some (max (-127) (min 127 (flog2 m x + e.head + e.corr)))
    | _ => none

/-- A magnitude as CUR records it: rounded to FP32, the largest finite value beyond its range (R288). -/
def magBits (v : FV) : Nat :=
  match v with
  | .fin _ m e => (encFP 0 (.fin false m e)).bits
  | _ => 0

/-- CUR raised to a magnitude, by value: a negative CUR that CORE_SCT_DATA placed lies below every magnitude, a NaN is not
raised (DESIGN CHOICE, log entry 114). -/
def raiseCur (cur mag : Nat) : Nat := if (dec32 cur).lt (dec32 mag) then mag else cur

/-- The magnitude `mag` and the excess of an op recorded into an entry (R288, R290): only for an op of the bracket. -/
def Pkg.recordMag (p : Pkg) (k : Nat) (brk : Option Nat) (tid mag excess : Nat) : Pkg :=
  if p.ofBracket k brk then
    p.onCore k fun c =>
      let e := c.ent tid
      c.setEnt tid { e with cur := raiseCur e.cur mag, curExc := max e.curExc (min 255 excess), touched := true }
  else p

/-- The step-boundary update of one entry (R291). -/
def ScEnt.boundary (e : ScEnt) : ScEnt :=
  { e with hist := tset 0 e.hist e.hptr (BitVec.ofNat 32 e.cur), hptr := (e.hptr + 1) % 16,
           corr := if e.curExc == 0 then 0 else min 255 (e.curExc + 1), cur := 0, curExc := 0 }

/-- The step-boundary update of a whole scale table (R291): entries not listed hold nothing to push. -/
def Core.sctBoundary (c : Core) : Core :=
  { c with sct := (List.range 256).foldl (fun t i =>
      let e := tget ScEnt.empty c.sct i
      tset ScEnt.empty t i e.boundary) [] }

/-- CE_COUNT raised by an engine of unit kind `kind` (R67); the kind is kept when the count reaches CE_THRESH (R83,
R573). -/
def Pkg.ceCount (p : Pkg) (k kind n : Nat) : Pkg :=
  let p := p.addF F.CORE_FAULT.CE_COUNT k n
  if max 1 (p.getF F.CORE_FAULT_CFG.CE_THRESH 0) ≤ p.getF F.CORE_FAULT.CE_COUNT k && !thas p.ceBy k then
    { p with ceBy := tins p.ceBy k kind }
  else p

/-- ARRAY_FAULTS + UE_COUNT (R83). -/
def Pkg.faultCount (p : Pkg) (k : Nat) : Nat :=
  p.getF F.CORE_FAULT.ARRAY_FAULTS k + p.getF F.CORE_FAULT.UE_COUNT k

/-- The unit kind and slate of the op whose fault brought the count to THRESH are kept (R83, R573). -/
def Pkg.noteFault (p : Pkg) (k kind slate : Nat) : Pkg :=
  if max 1 (p.getF F.CORE_FAULT_CFG.THRESH 0) ≤ p.faultCount k && !thas p.faultBy k then
    { p with faultBy := tins p.faultBy k (kind, slate) }
  else p

end Sys2Proof.Machine
end

