-- ==== Sys2Proof/Machine/Scratch.lean ====
section
/-! DEFINITION. The scratch partition with its line taint (R72, R219), vector and predicate registers with their taint
(R235, R251), the free values of an op, and the results of VE and MX ops on their way (R62, R146, R238, R242). -/
namespace Sys2Proof.Machine

/-- `n` values of a table from key `a` on, the table's first key not below `a`. -/
def tabTake {α : Type} (d : α) : Nat → Nat → Tab α → List α
  | 0, _, _ => []
  | n + 1, a, [] => d :: tabTake d n (a + 1) []
  | n + 1, a, (k, b) :: t => if k == a then b :: tabTake d n (a + 1) t else d :: tabTake d n (a + 1) ((k, b) :: t)

/-- `n` values from key `a` on. -/
def trange {α : Type} (d : α) (t : Tab α) (a n : Nat) : List α := tabTake d n a (t.dropWhile fun c => c.1 < a)

/-- The listed cells of values at keys from `a` on. -/
def tabCells {α : Type} [DecidableEq α] (d : α) : Nat → List α → Tab α
  | _, [] => []
  | a, b :: bs => if b = d then tabCells d (a + 1) bs else (a, b) :: tabCells d (a + 1) bs

/-- Values written at keys from `a` on. -/
def tput {α : Type} [DecidableEq α] (d : α) (t : Tab α) (a : Nat) (bs : List α) : Tab α :=
  (t.takeWhile fun c => c.1 < a) ++ tabCells d a bs ++ (t.dropWhile fun c => c.1 < a + bs.length)

/-- Bytes of scratch. -/
def Core.scrRead (c : Core) (a n : Nat) : List Byte := trange 0 c.scr a n

def Core.scrPut (c : Core) (a : Nat) (bs : List Byte) : Core := { c with scr := tput 0 c.scr a bs }

/-- Is any scratch line of the runs tainted? -/
def Core.scrTainted (c : Core) (rs : List Run) : Bool :=
  rs.any fun r => r.len != 0 && c.scrT.any fun t => t.2 && r.addr / 512 ≤ t.1 && t.1 ≤ (r.addr + r.len - 1) / 512

/-- Runs that follow each other joined. -/
def joinRuns : List Run → List Run
  | [] => []
  | r :: rs =>
    match joinRuns rs with
    | s :: t => if r.addr + r.len == s.addr then ⟨r.addr, r.len + s.len⟩ :: t else r :: s :: t
    | [] => [r]

/-- Does one run of the joined runs cover the whole line `l`, or do all of them together? -/
def lineCovered (rs : List Run) (l : Nat) : Bool :=
  rs.any (fun r => r.addr ≤ l * 512 && l * 512 + 512 ≤ r.addr + r.len) ||
    (List.range 512).all fun i => rs.any fun r => r.addr ≤ l * 512 + i && l * 512 + i < r.addr + r.len

/-- The scratch lines that runs touch. -/
def scrLines (rs : List Run) : List Nat :=
  dedup ((rs.map fun r => (unitsOf 512 r.addr r.len).map (· / 512)).flatten)

/-- Scratch lines become tainted; loads in flight remember it (R219). -/
def Core.scrTaint (c : Core) (lines : List Nat) : Core :=
  { c with scrT := lines.foldl (fun t l => tset false t l true) c.scrT,
           flight := c.flight.map fun f => match f.kind with
             | .load x => { f with kind := .load { x with tainted := x.tainted ++ lines } }
             | _ => f }

/-- Scratch lines that runs of an untainted write cover whole lose their taint, but for those in `keep` (R219). -/
def Core.scrClean (c : Core) (rs : List Run) (keep : List Nat) : Core :=
  let rs := joinRuns (rs.filter (·.len != 0))
  { c with scrT := (scrLines rs).foldl (fun t l =>
      if tget false t l && !keep.contains l && lineCovered rs l then tset false t l false else t) c.scrT }

/-- The taint of the scratch lines that a write touches (R219): set by a tainted source, cleared where an untainted one
covers all 512 bytes. -/
def Core.scrMark (c : Core) (rs : List Run) (taint : Bool) : Core :=
  let rs := rs.filter (·.len != 0)
  if taint then c.scrTaint (scrLines rs) else c.scrClean rs []

/-- Bytes written over runs in order. -/
def Core.scrWriteRuns (c : Core) : List Run → List Byte → Core
  | [], _ => c
  | r :: rs, bs => (c.scrPut r.addr (bs.take r.len)).scrWriteRuns rs (bs.drop r.len)

/-! ### Vector and predicate registers -/

/-- Lane values of a 256-byte register. -/
def lanesOf (x : Nat) : List Nat := (List.range 64).map fun l => x >>> (32 * l) % 2 ^ 32

/-- A register from its lanes. -/
def ofLanes (l : List Nat) : BitVec 2048 := BitVec.ofNat 2048 (packRow 0 l)

def Core.vreg (c : Core) (n : Nat) : Nat := (tget 0 c.v n).toNat

def Core.preg (c : Core) (n : Nat) : Nat := (tget 0 c.p n).toNat

def Core.setV (c : Core) (n : Nat) (x : BitVec 2048) : Core := { c with v := tset 0 c.v n x }

def Core.setP (c : Core) (n : Nat) (x : Nat) : Core := { c with p := tset 0 c.p n (BitVec.ofNat 64 x) }

def Pkg.vTaint (p : Pkg) (k n : Nat) : Bool := bitOf (p.reg .CORE_VE_TAINT k).toNat n

def Pkg.pTaint (p : Pkg) (k n : Nat) : Bool := bitOf (p.getF F.CORE_VE_STAT.PTAINT k) n

def Pkg.setVTaint (p : Pkg) (k n : Nat) (t : Bool) : Pkg :=
  p.setF ⟨.CORE_VE_TAINT, n, n, .ro, false, 0⟩ k (b2n t)

def Pkg.setPTaint (p : Pkg) (k n : Nat) (t : Bool) : Pkg :=
  p.setF F.CORE_VE_STAT.PTAINT k (putFld (p.getF F.CORE_VE_STAT.PTAINT k) n n (b2n t))

/-- A free value of `w` bits, and the package with one more free value taken. -/
def Pkg.fresh (p : Pkg) (w : Nat) : Nat × Pkg := (Config.freeValue p.free % 2 ^ w, { p with free := p.free + 1 })

/-! ### Results on their way (R62, R238, R242) -/

/-- Key of an engine in per-engine tables. -/
def Eng.key : Eng → Nat
  | .fe => 0 | .ve => 1 | .mx => 2 | .ld => 3 | .st => 4 | .sy => 5

/-- The issue cc of an engine's last entry. -/
def Core.ccOf (c : Core) (e : Eng) : Nat := tget 0 c.ccAt e.key

/-- A result joins those on their way, behind the ones of its engine that are written no later. -/
def lateInsert (x : Late) : List Late → List Late
  | [] => [x]
  | y :: t => if y.eng == x.eng && x.due < y.due then x :: y :: t else y :: lateInsert x t

def Core.defer (c : Core) (e : Eng) (due : Nat) (a : LateAct) : Core := { c with late := lateInsert ⟨e, due, a⟩ c.late }

/-- Lanes of a register replaced. -/
def mergeLanes (lanes : BitVec 64) (old new : Nat) : BitVec 2048 :=
  ofLanes ((List.range 64).map fun l => if lanes.getLsbD l then (lanesOf new).getD l 0 else (lanesOf old).getD l 0)

/-- A result is written, each register as one unit. -/
def Pkg.landOne (p : Pkg) (k : Nat) (x : Late) : Pkg :=
  match x.act with
  | .vreg n lanes val taint keep =>
    let t := taint || (keep && p.vTaint k n)
    (p.onCore k fun c => c.setV n (mergeLanes lanes (c.vreg n) val.toNat)).setVTaint k n t
  | .preg n lanes val taint keep =>
    let t := taint || (keep && p.pTaint k n)
    (p.onCore k fun c => c.setP n ((val &&& lanes) ||| (BitVec.ofNat 64 (c.preg n) &&& ~~~lanes)).toNat).setPTaint k n t
  | .scr runs bytes taint =>
    let rs : List Run := runs.map fun r => ⟨r.1, r.2⟩
    p.onCore k fun c => (c.scrWriteRuns rs bytes).scrMark rs taint

/-- Counts land, and with them the recording into the scale table (R120, R288). -/
def Pkg.landCnt (p : Pkg) (k : Nat) (x : LateCnt) : Pkg :=
  let p := match x.rcd with
    | some (tid, mag, excess) => p.recordMag k x.brk tid mag excess
    | none => p
  p.land k x.brk x.cnt

/-- A matrix op commits (R150–R152): its rows enter their banks; a bank is tainted by a pass that failed again, by a tainted
source and, unless ACC = 0, by its old taint; its counts land. -/
def Pkg.landMx (p : Pkg) (k : Nat) (y : LateMx) : Pkg :=
  let x := y.run
  let p := p.onCore k fun c => { c with acc := x.rows.foldl (fun t q => tset 0 t q.1 q.2) c.acc }
  let old := p.getF F.CORE_MX_TAINT.TAINT k
  let new := x.banks.foldl (fun w i =>
    putFld w i i (b2n (y.failed.contains i || x.taint || (!x.fresh && bitOf old i)))) old
  (p.setF F.CORE_MX_TAINT.TAINT k new).land k y.brk x.cnt

/-- The matrix ops whose commit `sel` names by its cc enter their banks, in their order. -/
def Pkg.landMxs (p : Pkg) (k : Nat) (sel : Nat → Bool) : Pkg :=
  let xs := (p.core k).lateMx.filter fun y => sel y.run.due
  let p := p.onCore k fun c => { c with lateMx := c.lateMx.filter fun y => !sel y.run.due }
  xs.foldl (fun p y => p.landMx k y) p

/-- The results that `sel` names by engine and cc are written, in their order, and their counts land. -/
def Pkg.landLate (p : Pkg) (k : Nat) (sel : Eng → Nat → Bool) : Pkg :=
  let xs := (p.core k).late.filter fun x => sel x.eng x.due
  let cs := (p.core k).lateCnt.filter fun x => sel x.eng x.due
  let p := p.onCore k fun c =>
    { c with late := c.late.filter fun x => !sel x.eng x.due, lateCnt := c.lateCnt.filter fun x => !sel x.eng x.due }
  cs.foldl (fun p x => p.landCnt k x) (xs.foldl (fun p x => p.landOne k x) p)

/-- Every result on its way is written: what waits for the completion of the core's ops finds them so (R64, R269). -/
def Pkg.landAll (p : Pkg) (k : Nat) : Pkg := (p.landLate k fun _ _ => true).landMxs k fun _ => true

/-- The results of one engine are written; of every engine, for the front end. -/
def Pkg.landEng (p : Pkg) (k : Nat) (e : Eng) : Pkg :=
  let p := p.landLate k fun eng _ => e == .fe || eng == e
  if e == .fe || e == .mx then p.landMxs k fun _ => true else p

/-- An entry of engine `e` issues `wait` cc after the first cc that R60 allows, and takes that cc: its engine's results due by
then are written. Those of other engines stay on their way, for no rule orders it behind them (DESIGN CHOICE, log entry 24). -/
def Pkg.issueAt (p : Pkg) (k : Nat) (e : Eng) (wait : Nat) : Pkg :=
  let p := p.onCore k fun c => { c with ccAt := tset 0 c.ccAt e.key (c.ccOf e + wait),
                                        ccFree := tset 0 c.ccFree e.key (max (tget 0 c.ccFree e.key) (c.ccOf e + wait + 1)) }
  let now := (p.core k).ccOf e
  let p := p.landLate k fun eng due => eng == e && due ≤ now
  if e == .mx then p.landMxs k fun due => due ≤ now else p

/-- Counts of an op of engine `e` that land at `due` with its result. -/
def Pkg.landAt (p : Pkg) (k : Nat) (e : Eng) (due : Nat) (brk : Option Nat) (cnt : Cnt)
    (rcd : Option (Nat × Nat × Nat) := none) : Pkg :=
  p.onCore k fun c => { c with lateCnt := c.lateCnt ++ [⟨e, due, brk, cnt, rcd⟩] }

end Sys2Proof.Machine
end

