-- ==== Sys2Proof/Machine/SyncOps.lean ====
section
/-! DEFINITION. The shared operations of engine queues, gates and semaphores (R54–R60, R261–R283). -/
namespace Sys2Proof.Machine

/-- The queue of an engine other than the front end and the synchronization engine. -/
def Core.queue (c : Core) : Eng → List Entry
  | .ve => c.qVe | .mx => c.qMx | .ld => c.qLd | .st => c.qSt | _ => []

def Core.setQueue (c : Core) (e : Eng) (q : List Entry) : Core :=
  match e with
  | .ve => { c with qVe := q }
  | .mx => { c with qMx := q }
  | .ld => { c with qLd := q }
  | .st => { c with qSt := q }
  | _ => c

/-- The head of an engine's queue leaves it; the queue pointer of an empty queue keeps its index (R65). The engine's issue
clock stands at the first cc that the gap and the occupancy of the entry before allow (R60, R242); an entry, a gate too,
takes 1 cc (R60, R266). -/
def Core.popQ (c : Core) (e : Eng) : Core :=
  match c.queue e with
  | [] => c
  | h :: t =>
    { c.setQueue e t with
      lastIdx := tset 0 c.lastIdx e.key h.idx
      ccAt := tset 0 c.ccAt e.key (max (c.ccOf e + h.gap) (tget 0 c.ccFree e.key))
      ccFree := tset 0 c.ccFree e.key (max (c.ccOf e + h.gap) (tget 0 c.ccFree e.key) + 1) }

/-- Is an engine held at a gate? -/
def Core.heldAt (c : Core) (e : Eng) : Bool := c.waits.any fun w => w.eng == e

/-- Are all five queues empty? -/
def Core.queuesEmpty (c : Core) : Bool :=
  c.qVe.isEmpty && c.qMx.isEmpty && c.qLd.isEmpty && c.qSt.isEmpty && c.qSy.isEmpty

/-- Is a flight op exempt from the completion that gates and boundaries wait for: an LD.PF, complete once its last
request has left (R208)? -/
def Flight.isPf (f : Flight) : Bool :=
  match f.kind with
  | .load x => x.pf
  | _ => false

/-- Is every write of every issued op complete (R182)? -/
def Core.writesDone (c : Core) : Bool := c.flight.all fun f => f.isPf

/-- An entry of the SY queue leaves it, its action being complete (R268). -/
def Core.endSy (c : Core) (id : Nat) : Core :=
  match c.qSy.find? (·.id == id) with
  | some e => { c with qSy := c.qSy.filter (·.id != id), lastIdx := tset 0 c.lastIdx Eng.sy.key e.idx }
  | none => c

/-- The gate of a waiter is passed: the waiter goes, the served engine goes on, the SY entry is complete. -/
def Core.passGate (c : Core) (w : Waiter) : Core :=
  let c := { c with waits := c.waits.filter (· != w) }
  let c := if w.eng == .fe then { c with fe := { c.fe with gate := none } } else c.popQ w.eng
  c.endSy w.gate

/-- Value of semaphore `n`. -/
def Core.semVal (c : Core) (n : Nat) : Nat := (tget 0 c.sem n).toNat

def Core.setSem (c : Core) (n v : Nat) : Core := { c with sem := tset 0 c.sem n (BitVec.ofNat 16 v) }

/-- Is it the turn of the SY entry at a gate: are all earlier entries of its served engine complete (R268)? -/
def Core.inTurn (c : Core) (e : Eng) (gate : Nat) : Bool := c.qSy.all fun x => x.serve != e || x.nop || gate ≤ x.id

/-- The pending wait on a semaphore is evaluated (R274) when it is its turn (R268): at least N subtracts N and is
satisfied. -/
def Core.evalWait (c : Core) (n : Nat) : Core :=
  match c.waits.find? fun w => w.kind == .wait && w.sem == n with
  | some w =>
    if w.arg ≤ c.semVal n && c.inTurn w.eng w.gate then (c.setSem n (c.semVal n - w.arg)).passGate w else c
  | none => c

/-- The wait that holds an engine is evaluated. -/
def Core.evalEng (c : Core) (e : Eng) : Core :=
  match c.waits.find? fun w => w.kind == .wait && w.eng == e with
  | some w => c.evalWait w.sem
  | none => c

/-- A signal added at physical core `k` (R274, R275): held while the core is under swap (R88), discarded whole on
overflow. -/
def Pkg.semAdd (p : Pkg) (k : Nat) (s : Sig) : Pkg :=
  let c := p.core k
  if c.st == .swap then p.setCore k { c with held := c.held ++ [s] }
  else if 65535 < c.semVal s.sem + s.n then
    (p.addF F.CORE_SY_STAT.SIG_OVERFLOW k 1).event 0x0803 (k / 128) 6 false (p.logIdx k) s.slate
      (b2n (s.srcPkg != p.pkgId) * 2 ^ 15 + s.src * 64 + s.sem)
  else p.setCore k (c.setSem s.sem (c.semVal s.sem + s.n))

/-- A signal that is alone in its cc: added, and the pending wait evaluated (R274). -/
def Pkg.semSignal (p : Pkg) (k : Nat) (s : Sig) : Pkg :=
  let q := p.semAdd k s
  if (p.core k).st == .swap then q else q.onCore k (·.evalWait s.sem)

/-- Where a signal to a logical core lands: dropped at a vat that is not READY or at a logical index no physical core
carries (R39, R80, R273). -/
def Pkg.signalWith (p : Pkg) (id : Nat) (s : Sig) (f : Pkg → Nat → Sig → Pkg) : Pkg :=
  if !p.vatReady (id / 128) then p.vatDrop (id / 128)
  else
    match p.physOf id with
    | some k => f p k s
    | none => p.vatDrop (id / 128)

/-- A signal to a logical core. -/
def Pkg.signalTo (p : Pkg) (id : Nat) (s : Sig) : Pkg := p.signalWith id s Pkg.semSignal

/-- The summary record of suppressed skips, and a fresh count (R195). -/
def Pkg.skipSummary (p : Pkg) (k slate : Nat) : Pkg :=
  let n := p.getF F.CORE_IFAULT.SUPPRESSED k
  let p := p.onCore k fun c => { c with fe := { c.fe with recs := 0 } }
  if n == 0 then p
  else (p.event 0x0004 (k / 128) 1 false (p.logIdx k) slate n).setF F.CORE_IFAULT.SUPPRESSED k 0

/-- The open bracket of a core is abandoned (R184, R224, R281): its take is never committed. -/
def Pkg.abandon (p : Pkg) (k : Nat) : Pkg :=
  let p := p.setF F.CORE_BRACKET.OPEN k 0
  let p := p.setF F.CORE_BRACKET.CLOSING k 0
  p.onCore k fun c => { c with take := [] }

/-- A running core halts with a cause (R184, R281, R475): no engine issues, dispatch stops, waits are abandoned.
DESIGN CHOICE (log entry 123): CORE_MX_TONE keeps the last policy until the next load. -/
def Pkg.haltCore (p : Pkg) (k cause : Nat) : Pkg :=
  if (p.core k).st != .run then p
  else
    let p := ((p.landAll k).abandon k).skipSummary k 0
    p.onCore k fun c => { c with st := .halt, halt := cause, waits := [],
                                 ldWait := none, fe := { c.fe with hold := .free, gate := none, sc := none, miss := none } }

/-- Every running core of the package halts. -/
def Pkg.haltAll (p : Pkg) (cause : Nat) : Pkg :=
  (p.cores.map (·.1)).foldl (fun q k => q.haltCore k cause) p

end Sys2Proof.Machine
end

