-- ==== Sys2Proof/Machine/CollOps.lean ====
section
/-! DEFINITION. The shared operations of collective groups and calls (R408–R431) and of layer-group validity (R293). -/
namespace Sys2Proof.Machine

/-- Collective group `g` beyond its registers. -/
def Pkg.collGrp (p : Pkg) (g : Nat) : CollGrp := tget CollGrp.init p.coll g

def Pkg.setColl (p : Pkg) (g : Nat) (x : CollGrp) : Pkg := { p with coll := tset CollGrp.init p.coll g x }

/-- Package ID at a ring position. -/
def Pkg.member (p : Pkg) (g pos : Nat) : Nat := p.getF F.COLL_GRP_MEMBER.PKG_ID (g * 256 + pos)

/-- Is the ID a director core of a present vat? -/
def Pkg.isDirector (p : Pkg) (id : Nat) : Bool := p.isCore id && isDirIdx (id % 128)

/-- Is the collective group valid (R408)? -/
def Pkg.collValid (p : Pkg) (g : Nat) : Bool :=
  p.isDirector (p.getF F.COLL_GRP_CFG.DIRECTOR g) &&
  p.getF F.COLL_GRP_CFG.OWN_POS g ≤ p.getF F.COLL_GRP_CFG.NM1 g &&
  p.member g (p.getF F.COLL_GRP_CFG.OWN_POS g) == p.pkgId

/-- The active mask in force for the next call (R409). -/
def Pkg.collMask (p : Pkg) (g : Nat) : Nat :=
  (p.reg .COLL_GRP_ACTIVE0 g).toNat + (p.reg .COLL_GRP_ACTIVE1 g).toNat * 2 ^ 64 +
    (p.reg .COLL_GRP_ACTIVE2 g).toNat * 2 ^ 128 + (p.reg .COLL_GRP_ACTIVE3 g).toNat * 2 ^ 192

/-- The active ring positions of a mask, ascending (R410). -/
def Pkg.positions (p : Pkg) (g mask : Nat) : List Nat :=
  (List.range (p.getF F.COLL_GRP_CFG.NM1 g + 1)).filter (bitOf mask ·)

/-- The successor of the own position (R410). -/
def Pkg.successor (p : Pkg) (g mask : Nat) : Nat :=
  let own := p.getF F.COLL_GRP_CFG.OWN_POS g
  let ps := p.positions g mask
  match ps.find? (own < ·) with
  | some q => q
  | none => ps.headD own

/-- The recorder: the member of rank 0 (R410). -/
def Pkg.recorder (p : Pkg) (g mask : Nat) : Nat := (p.positions g mask).headD 0

/-- The group whose open call a core runs. -/
def Pkg.callOf (p : Pkg) (core : Nat) : Option (Nat × Call) :=
  p.coll.findSome? fun x => match x.2.call with
    | some c => if c.core == core then some (x.1, c) else none
    | none => none

/-- The staging blocks of a range of staging addresses. -/
def stagingBlocks (a n : Nat) : List Nat :=
  let lo := max a 0x020000000000
  let hi := min (a + n) 0x020008000000
  unitsOf 4096 lo (hi - lo)

/-- The invalid mark written over every block of a staging range (R430). -/
def Pkg.spoilStaging (p : Pkg) (m : Memory) (a n : Nat) : Pkg :=
  { p with crinds := (stagingBlocks a n).foldl (fun t b =>
      tset (BitVec.ofNat 32 zeroRind) t (b / 4096) (BitVec.ofNat 32 (invalidMark (rindOf (m.read b 4096))))) p.crinds }

/-- A call becomes ABORTED (R430): staging spoiled, RECV_SEM signalled by EXPECT − ARRIVED. -/
def Pkg.callAborts (p : Pkg) (m : Memory) (g : Nat) (cause : Nat) (raiser : Bool) : Pkg :=
  match (p.collGrp g).call with
  | none => p
  | some c =>
    if c.aborted then p
    else
      let p := p.setColl g { p.collGrp g with
        call := some { c with aborted := true, cause := cause, raiser := raiser }
        late := (p.collGrp g).late.map fun l => { l with raised := true } }
      let p := p.setF F.COLL_GRP_STATE.STATE g 2
      let p := p.spoilStaging m c.stg c.stgLen
      let n := c.expect - p.getF F.COLL_GRP_STATE.ARRIVED g
      if n == 0 then p
      else p.signalTo c.core ⟨0, p.pkgId, 0, .fe, c.core, p.getF F.COLL_GRP_CFG.RECV_SEM g, n, 0, 0, 0, true⟩

/-- An abort raised by this member for sequence number `seq` (R429): logged, counted, sent to every other active
member. -/
def Pkg.raiseAbort (p : Pkg) (g seq mask cause who : Nat) : Pkg :=
  let p := p.event 0x2020 0 0x21 false g 0 (cause * 2 ^ 14 + who % 2 ^ 12)
  let p := p.addF F.COLL_STAT.RAISED 0 1
  let own := p.getF F.COLL_GRP_CFG.OWN_POS g
  ((p.positions g mask).filter (· != own)).foldl
    (fun q pos => q.send .abort (q.member g pos) [g, seq, cause]) p

/-- Raise an abort of the open call and let it act. -/
def Pkg.abortOpen (p : Pkg) (m : Memory) (g cause who : Nat) : Pkg :=
  match (p.collGrp g).call with
  | none => p
  | some c =>
    if c.aborted then p else (p.raiseAbort g c.seq c.mask cause who).callAborts m g cause true

/-- Raise an abort of the last call, which this member closed cleanly before it found the difference (R429): once. -/
def Pkg.abortClosed (p : Pkg) (g cause who : Nat) : Pkg :=
  match (p.collGrp g).late with
  | some l =>
    if l.raised then p
    else (p.raiseAbort g l.seq l.mask cause who).setColl g { p.collGrp g with late := some { l with raised := true } }
  | none => p

/-- Raise an abort of the next call (R422, R429): it is marked to open ABORTED. -/
def Pkg.abortNext (p : Pkg) (g cause who : Nat) : Pkg :=
  match (p.collGrp g).mark with
  | some _ => p
  | none =>
    let p := p.raiseAbort g (p.getF F.COLL_GRP_STATE.SEQ_NEXT g) (p.collMask g) cause who
    p.setColl g { p.collGrp g with mark := some (cause * 2 + 1) }

/-- A call ends (R417, R419): the group returns to IDLE, and ARRIVED counts toward the next call. -/
def Pkg.callEnds (p : Pkg) (g : Nat) : Pkg :=
  let x := p.collGrp g
  let p := p.setColl g { x with call := none }
  (p.setF F.COLL_GRP_STATE.STATE g 0).setF F.COLL_GRP_STATE.ARRIVED g x.earlyN

/-- The hub aborts the open calls of the directors of a vat under reset, and their groups return to IDLE (R419). -/
def Pkg.abortVat (p : Pkg) (m : Memory) (v : Nat) : Pkg :=
  (p.coll.map (·.1)).foldl (fun q g =>
    match (q.collGrp g).call with
    | some c =>
      if c.core / 128 == v then
        let q := q.abortOpen m g 1 q.pkgId
        q.callEnds g
      else q
    | none => q) p

/-! ### Layer groups (R293) -/

/-- Is bit `b` of a layer group's 384-bit mask set? -/
def Pkg.memberBit (p : Pkg) (g b : Nat) : Bool :=
  let r : Reg := match b / 64 with
    | 0 => .NUM_GRP_MASK0 | 1 => .NUM_GRP_MASK1 | 2 => .NUM_GRP_MASK2 | 3 => .NUM_GRP_MASK3
    | 4 => .NUM_GRP_MASK4 | _ => .NUM_GRP_MASK5
  bitOf (p.reg r g).toNat (b % 64)

/-- The members of a layer group as logical core IDs, ascending. -/
def Pkg.members (p : Pkg) (g : Nat) : List Nat :=
  ((List.range 384).filter (p.memberBit g ·)).filterMap fun b =>
    let id := b / 96 * 128 + b % 96
    if p.isCore id then some id else none

/-- Is the layer group valid (R293)? -/
def Pkg.grpValid (p : Pkg) (g : Nat) : Bool :=
  p.isDirector (p.getF F.NUM_GRP_DIR.DIRECTOR g) && !(p.members g).isEmpty

/-- Is the core a member of the layer group? -/
def Pkg.isMember (p : Pkg) (g id : Nat) : Bool :=
  id % 128 < 96 && p.isCore id && p.memberBit g (id / 128 * 96 + id % 128)

/-- Is a round open in the group's collector? -/
def LGroup.isOpen (x : LGroup) : Bool := x.layer.isSome

/-- The collectors' rounds, held reports and pending retakes discarded by a vat reset (R299): of every group that the
vat's directors hold, and of every group with an open round and a member in the vat. -/
def Pkg.discardRounds (p : Pkg) (v : Nat) : Pkg :=
  { p with groups := p.groups.filter fun x =>
      !(p.getF F.NUM_GRP_DIR.DIRECTOR x.1 / 128 == v) &&
      !(x.2.isOpen && (p.members x.1).any fun c => c / 128 == v) }

end Sys2Proof.Machine
end

