-- ==== Sys2Proof/Machine/SwapOps.lean ====
section
/-! DEFINITION. The copy of a core swap and the change of the core table (R80, R85, R86, R88–R90). -/
namespace Sys2Proof.Machine

/-- The core table of a logical core names physical core `k` (R80); logged as code 0x4011 (R88). -/
def Pkg.remap (p : Pkg) (logical k : Nat) : Pkg :=
  let p := { p with coreMap := tset (logical % 128) p.coreMap logical (k % 128) }
  p.event 0x4011 (logical / 128) 1 false (logical % 128) 0 (k % 128 * 256 + logical % 128)

/-- Is the core at the point of R85: IDLE, HALT, or drained and held behind its step boundary, for the swap or for the
rejoin of R453? -/
def Core.swapPoint (c : Core) : Bool :=
  c.st == .idle || c.st == .halt || (c.st == .run && c.queuesEmpty && c.writesDone && (match c.fe.hold with
    | .boundary => true
    | .rejoin _ => true
    | _ => false))

/-- The ops of a halted core whose requests other units still perform. -/
def Flight.outlives (f : Flight) : Bool :=
  match f.kind with
  | .mx _ | .load _ => false
  | _ => true

/-- The ops of `c` whose requests other units still perform, with their requests and credits, put into a core that starts anew. -/
def Core.inherit (new c : Core) : Core :=
  let fl := c.flight.filter (·.outlives)
  let mine (r : FabReq) : Bool := fl.any (·.no == r.no)
  { new with issueNo := c.issueNo, flight := fl, spent := c.spent, unsent := c.unsent.filter mine, fab := c.fab.filter mine }

/-- What the spare takes from the retiring core (R86): scalar and predicate registers, semaphores, scale table,
front-end pointer, program header; the fill partition, instruction cache and other stores start empty. -/
def Core.carry (c : Core) : Core :=
  { (Core.init .swap).inherit c with
    halt := c.halt, hdr := c.hdr, s := c.s, p := c.p, sem := c.sem, sct := c.sct
    fe := { Fe.init with
      ptr := c.fe.ptr, seq := c.fe.seq, loss := c.fe.loss, lossStep := c.fe.lossStep
      hold := match c.fe.hold with
        | .rejoin n => .rejoin n
        | _ => .free }
    lastIdx := c.lastIdx }

/-- Queued requests and press ops of physical core `r` belong to core `k` from now on. -/
def Pkg.retarget (p : Pkg) (r k : Nat) : Pkg :=
  let f (x : MemReq) : MemReq := { x with op := x.op.map fun o => if o.1 == r then (k, o.2) else o }
  let g (o : PressOp) : PressOp := if o.phys == r then { o with phys := k } else o
  let p := { p with pchs := p.pchs.map fun x => (x.1, { x.2 with q := x.2.q.map f, held := x.2.held.map f }) }
  (List.range 4).foldl (fun p v =>
    let x := p.vat v
    p.setVat v { x with pressQ := x.pressQ.map g, press := x.press.map fun y => { y with op := g y.op } }) p

/-- The pending swap has reached its point (R85, R86, R88): both cores are in SWAP, and signals to the logical core are held. -/
def Pkg.swapStart (p : Pkg) : Pkg :=
  match p.swap with
  | none => p
  | some w =>
    match p.physOf w.logical with
    | none => p
    | some r =>
      let c := p.core r
      if w.running || !c.swapPoint || !p.vatReady (w.logical / 128) || (p.core w.spare).st != .spare then p
      else
        let p := p.setCore w.spare c.carry
        let p := p.setReg .CORE_STEP w.spare (p.reg .CORE_STEP r)
        let p := p.setReg .CORE_BRACKET w.spare (p.reg .CORE_BRACKET r)
        let p := p.setF F.CORE_VE_STAT.PTAINT w.spare (p.getF F.CORE_VE_STAT.PTAINT r)
        let p := p.setReg .CORE_TC_CFG w.spare (p.reg .CORE_TC_CFG r)
        let p := p.setReg .CORE_WDOG w.spare (p.reg .CORE_WDOG r)
        let p := (p.setCore r { c with st := .swap, flight := [], unsent := [], fab := [], waits := [] }).retarget r w.spare
        { p with swap := some { w with running := true, st := c.st } }

/-- CORE_SWAP_DONE (R86, R88, R90): the spare takes the core's state, the held signals are delivered in order, the table
changes and the old core is RETIRED. -/
def Pkg.swapDone (p : Pkg) : Pkg :=
  match p.swap with
  | none => p
  | some w =>
    if !w.running || (p.vat (w.logical / 128)).st == .quiesce then p
    else
      match p.physOf w.logical with
      | none => p
      | some r =>
        let held := (p.core r).held
        let p := p.setCore r (Core.init .retired)
        let p := p.onCore w.spare fun c => { c with st := w.st }
        let p := { p with swap := none }
        let p := (p.setF F.CORE_SWAP.PENDING 0 0).setF F.CORE_SWAP.RESULT 0 1
        held.foldl (fun q s => q.semSignal w.spare s) (p.remap w.logical w.spare)

/-- A core that halts with an uncorrectable error while its swap is pending is swapped at once (R89). -/
def Pkg.swapAtOnce (p : Pkg) (k : Nat) : Pkg :=
  match p.swap with
  | some w => if p.physOf w.logical == some k && !w.running then (p.swapStart).swapDone else p
  | none => p

end Sys2Proof.Machine
end

