-- ==== Sys2Proof/Machine/Contain.lean ====
section
/-! DEFINITION. Vat-reset requests (R38, R40), reports of uncorrectable data and containment (R360, R373, R469–R476). -/
namespace Sys2Proof.Machine

/-- PRESS_DIG_CTL.ENTRIES: the largest entry count of any vat. -/
def Pkg.countEntries (p : Pkg) : Pkg :=
  p.setF F.PRESS_DIG_CTL.ENTRIES 0 (maxOf ((List.range 4).map fun v => (p.vat v).digs.length))

/-- TOP_VAT_STATE.RESETS of a vat raised by 1, saturating at 255 (R14, R40). -/
def Pkg.countReset (p : Pkg) (v : Nat) : Pkg :=
  let w := p.getF F.TOP_VAT_STATE.RESETS 0
  let n := fld w (8 * v + 7) (8 * v)
  p.setF F.TOP_VAT_STATE.RESETS 0 (putFld w (8 * v + 7) (8 * v) (min 255 (n + 1)))

/-- A vat reset is requested (R38, R40): counted; a vat that is not READY ignores it; else the vat enters QUIESCE, open
collector rounds are discarded (R299), the open calls of its directors abort (R419), and a reset that no sit-out ordered is
reported to the top lead (R451). -/
def Pkg.requestReset (p : Pkg) (m : Memory) (v cause : Nat) (scan : Bool) : Pkg :=
  if !p.hasVat v then p
  else
    let p := p.countReset v
    if (p.vat v).st != .ready then p
    else
      let p := p.setVat v { p.vat v with st := .quiesce, cause := cause, scan := scan, since := p.time }
      let p := (p.discardRounds v).abortVat m v
      let p := { p with lead := { p.lead with told := false } }
      if cause == 2 then p else p.send .vatReset (p.getF F.CLAP_ROLE.TOP_ID 0) [p.pkgId, v, cause]

/-- A block listed as uncorrectable (R471): once, at most 64, then FULL. -/
def Pkg.listUe (p : Pkg) (v blk : Nat) : Pkg :=
  let x := p.vat v
  if x.ues.contains blk then p
  else if x.ues.length < 64 then
    (p.setVat v { x with ues := x.ues ++ [blk] }).setF F.REL_UE.COUNT v (x.ues.length + 1)
  else (p.setF F.REL_UE.FULL v 1).event 0x4043 v 0x33 false 0 0 0

/-- Is TRM-1 compatible containment in force (R469)? -/
def Pkg.compat (p : Pkg) : Bool := p.flag F.REL_CFG.MODE 0

/-- A report of uncorrectable data to containment in native mode (R470, R471): the vat concerned is reset with cause
0x3; a vat that is out of READY gets no second reset; the block is listed. -/
def Pkg.report (p : Pkg) (m : Memory) (v src : Nat) (blk : Option Nat) : Pkg :=
  if p.compat then p
  else
    let p := match blk with
      | some b => p.listUe v b
      | none => p
    if (p.vat v).st != .ready then p
    else
      let p := (p.event 0x4040 v 0x33 false 0 0 (src * 4096 + v)).addF F.REL_STAT.CONTAIN_RESETS 0 1
      p.requestReset m v 3 false

/-- A bad delivery consumed in TRM-1 compatible containment (R475): every core halts, logged, reported to the top
lead. -/
def Pkg.consume (p : Pkg) (v src : Nat) : Pkg :=
  if !p.compat then p
  else
    let p := (p.haltAll 3).event 0x4041 v 0x33 false 0 0 (src * 4096 + v)
    (p.addF F.REL_STAT.POISON 0 1).send .poisonReport (p.getF F.CLAP_ROLE.TOP_ID 0) [p.pkgId]

/-- One uncorrectable unit counted and logged with `s14` as its source (R360, R373, R412). -/
def Pkg.ueCount (p : Pkg) (s14 u : Nat) : Pkg :=
  let a := u * 8
  match p.place a with
  | .cellar v => (p.addF F.MC_CELLAR_ERR.UE v 1).event 0x1845 v 0x12 false 0 0 (a % 0x10000000 / 4096)
  | .staging s =>
    let p := match p.slotVat s with
      | some v => p.addF F.MC_CELLAR_ERR.UE v 1
      | none => p
    p.event 0x1845 0 0x15 false 0 0 (s * 256)
  | .user v | .reserved v =>
    (p.addF F.MC_ERR.UE (pchKey a) 1).event 0x1841 v 0x11 false (stackOf a) 0 (s14 * 2 ^ 14 + pchKey a % 64)
  | _ => p

/-- The vat that answers for an address: its window's, vat 0 for hub memory. -/
def vatOfAddr (a : Nat) : Nat :=
  if a < 0x010000000000 then a / 0x4000000000
  else if a < 0x020000000000 then (a - 0x010000000000) / 0x100000000 else 0

/-- The vat concerned by uncorrectable data at an address (R470), and the source that its records name: a read that names its
memory's controller (0x1) names a cellar's (0x4) or the staging SRAM's (0x5) there (R491). -/
def Pkg.concerned (p : Pkg) (a src : Nat) : Option Nat × Nat :=
  match p.place a with
  | .cellar v => (some v, if src == 1 then 4 else src)
  | .staging s => (p.slotVat s, if src == 1 then 5 else src)
  | .user v | .reserved v => (some v, src)
  | _ => (none, src)

/-- One uncorrectable unit reported to containment (R470): a block of memory or of a cellar is listed (R471), a staging block
is rewritten instead. -/
def Pkg.ueReport (p : Pkg) (m : Memory) (src u : Nat) : Pkg :=
  let a := u * 8
  match p.concerned a src with
  | (some v, s) => p.report m v s (if a < 0x020000000000 then some (blockOf a) else none)
  | (none, _) => p

/-- One uncorrectable unit met (R360, R373, R412): counted, logged with `s14` as its source, reported with `src`. -/
def Pkg.ueMet (p : Pkg) (m : Memory) (u s14 src : Nat) : Pkg := (p.ueCount s14 u).ueReport m src u

/-- Every uncorrectable unit of a range met by a read: their records (of smaller kinds) stand before those of containment (R567). -/
def Pkg.ueRange (p : Pkg) (m : Memory) (a n src : Nat) : Pkg :=
  let us := p.badIn a n
  us.foldl (fun q u => q.ueReport m src u) (us.foldl (·.ueCount 0 ·) p)

/-- The package's account of a requester kind's read of a range that came back bad through uncorrectable granules: R360
counts and reports, R475 consumption. A read that no vat serves (R39) or that a maintenance hold turns away (R375) opens no
data. -/
def Pkg.badDelivery (p : Pkg) (m : Memory) (kind a n src : Nat) : Pkg :=
  if p.opens kind a && p.badRange a n then
    let x := p.concerned a src
    (p.ueRange m a n src).consume (x.1.getD 0) x.2
  else p

/-- A reported staging block is rewritten with zeros and the invalid mark (R471). -/
def Dev.rewriteStaging (d : Dev) (b : Nat) : Dev :=
  let zs := List.replicate 4096 (0 : Byte)
  let d := { d with mem := d.mem.write b zs }
  let d := { d with pkg := d.pkg.unflaw ((List.range 512).map (b / 8 + ·)) }
  d.setRind b (invalidMark zeroRind)

/-- As `Pkg.badDelivery`, with the rewriting of reported staging blocks in native containment. -/
def Dev.badDelivery (d : Dev) (kind a n src : Nat) : Dev :=
  if d.pkg.opens kind a && d.pkg.badRange a n then
    let bs := match d.pkg.place a with
      | .staging _ => if d.pkg.compat then [] else unitsOf 4096 a n
      | _ => []
    let d' : Dev := { d with pkg := d.pkg.badDelivery d.mem kind a n src }
    bs.foldl (fun x b => x.rewriteStaging b) d'
  else d

/-- An uncorrectable error in a core store met by a reading op (R69, R470, R475): the core halts before the op issues,
with HALT_CAUSE 0x5; a swap that is pending for it proceeds at once, and the containment action goes ahead (R89). In TRM-1 compatible
containment every core of the package then halts with cause 0x3, the failing one included (R475; DEDUCED, log entry 149). -/
def Pkg.coreUe (p : Pkg) (m : Memory) (k kind slate store : Nat) : Pkg :=
  let l := p.logicalOf k
  let p := p.haltCore k 5
  let p := (p.addF F.CORE_FAULT.UE_COUNT k 1).noteFault k kind slate
  let p := (p.event 0x4015 (k / 128) kind true (k % 128) slate store).swapAtOnce k
  let p := (p.report m (k / 128) 6 none).consume (k / 128) 6
  if p.compat then p.onCore ((l.bind p.physOf).getD k) fun c => if c.st == .halt then { c with halt := 3 } else c else p

end Sys2Proof.Machine
end

