-- ==== Sys2Proof/Machine/PortOps.lean ====
section
/-! DEFINITION. The shared operations of the Aedun ports: state, width, bandwidth, routing tables and path choice
(R379–R401). -/
namespace Sys2Proof.Machine

/-- Port `n` beyond its registers. -/
def Pkg.port (p : Pkg) (n : Nat) : Port := tget Port.init p.net.ports n

def Pkg.setPort (p : Pkg) (n : Nat) (x : Port) : Pkg :=
  { p with net := { p.net with ports := tset Port.init p.net.ports n x } }

/-- PORT_STATUS.STATE. -/
def Pkg.portState (p : Pkg) (n : Nat) : Nat := p.getF F.PORT_STATUS.STATE n

/-- Width of a port; 0 when it is not UP (R389, R395). -/
def Pkg.portWidth (p : Pkg) (n : Nat) : Nat :=
  match p.portState n with
  | 4 => 4 | 5 => 2 | 6 => 1 | _ => 0

/-- State code of a width (PORT_STATUS.STATE). -/
def widthState (w : Nat) : Nat := if w == 4 then 4 else if w == 2 then 5 else if w == 1 then 6 else 7

/-- Width code of event DETAIL fields (R407). -/
def widthCode (w : Nat) : Nat := if w == 4 then 2 else if w == 2 then 1 else 0

/-- Width for a number of healthy lanes (R385). -/
def widthOf (healthy : Nat) : Nat := if 4 ≤ healthy then 4 else if 2 ≤ healthy then 2 else healthy

/-- Healthy lanes of the weaker direction, a failed lane counting as healthy until it is handled (R385, R386). -/
def Pkg.healthy (p : Pkg) (n : Nat) : Nat :=
  min (5 - popCount 5 (p.port n).rxOut) (5 - popCount 5 (p.port n).txOut)

/-- Is the port optical (R403)? -/
def Pkg.optical (p : Pkg) (n : Nat) : Bool :=
  15 ≤ n && n < 18 && p.fuse.guest && bitOf (p.getF F.PORT_GUEST.OPTICAL 0) (n - 15)

/-- The lanes in use in the receive direction: the lowest-numbered healthy ones (R385), until the switch at the agreed
boundary the old ones (R386). -/
def Pkg.rxLanes (p : Pkg) (n : Nat) : List Nat :=
  ((List.range 5).filter fun l => !bitOf (p.port n).rxOut l).take (p.portWidth n)

/-- Bandwidth per direction in GB/s (R379, R380). -/
def bandwidth (rate w : Nat) : Nat := if rate == 2 then 50 * w else if rate == 1 then 25 * w else 0

/-- The TC0 bucket after its refill: 2 % of the port's bandwidth, 16 KiB deep (R400). -/
def Pkg.tc0Tokens (p : Pkg) (n : Nat) : Nat :=
  min 819200 ((p.port n).tokens + p.getF F.PORT_STATUS.BW n * (p.time - (p.port n).refill))

/-- The port takes a state; BW follows its width, the TC0 bucket what it gained before. -/
def Pkg.setPortState (p : Pkg) (n st : Nat) : Pkg :=
  let p := p.setPort n { p.port n with tokens := p.tc0Tokens n, refill := p.time }
  let p := p.setF F.PORT_STATUS.STATE n st
  p.setF F.PORT_STATUS.BW n (bandwidth (p.getF F.PORT_STATUS.RATE n) (p.portWidth n))

/-- An event of a port (R407). -/
def Pkg.portEvent (p : Pkg) (code n detail : Nat) : Pkg := p.event code 0 0x20 false n 0 detail

/-! ### Routing (R393–R397) -/

/-- Instance of a routing-table entry: table and entry. -/
def rtInst (table entry : Nat) : Nat := table * 256 + entry

/-- The entry toward package `d` (R393). -/
def Pkg.routeEntry (p : Pkg) (d : Nat) : Nat :=
  if d / 16 == p.pkgId / 16 then (p.reg .PORT_RT_DATA (rtInst 0 (d % 16))).toNat
  else (p.reg .PORT_RT_DATA (rtInst 1 (d / 16))).toNat

/-- A path slot of an entry: enabled, port, base weight (R394). -/
def slotOf (e i : Nat) : Bool × Nat × Nat :=
  (bitOf e (10 * i + 9), fld e (10 * i + 8) (10 * i + 4), fld e (10 * i + 3) (10 * i))

/-- The slots of an entry with non-zero effective weight, as port and weight (R395). -/
def Pkg.paths (p : Pkg) (e : Nat) : List (Nat × Nat) :=
  if !bitOf e 63 then []
  else (List.range 4).filterMap fun i =>
    let s := slotOf e i
    let w := s.2.2 * p.portWidth s.2.1
    if s.1 && w != 0 then some (s.2.1, w) else none

/-- Does the routing table reach package `d` from here? -/
def Pkg.reaches (p : Pkg) (d : Nat) : Bool := d == p.pkgId || !(p.paths (p.routeEntry d)).isEmpty

/-- The key of a flow: source core and engine (8 × core + engine), their package, destination and class (R395). -/
def flowKey (src eng dst tc : Nat) : Nat := ((src * 4096 + dst) * 4 + tc) * 2 ^ 16 + eng

/-- The path that a hash picks in proportion to the weights. -/
def pickPath : List (Nat × Nat) → Nat → Option Nat
  | [], _ => none
  | (port, w) :: t, h => if h < w then some port else pickPath t (h - w)

/-- The port that an unacknowledged packet of the flow is on, if any. -/
def Pkg.flowPort (p : Pkg) (src eng dst tc : Nat) : Option Nat :=
  (p.net.ports.find? fun x => (x.2.kept ++ x.2.out).any fun f =>
    f.src == src && f.eng == eng && f.dst == dst && f.tc == tc).map (·.1)

/-- The egress port of a packet (R395): its flow's while a packet of the flow is unacknowledged, else the hash's
choice. -/
def Pkg.egress (p : Pkg) (src eng dst tc : Nat) : Option Nat :=
  let ps := p.paths (p.routeEntry dst)
  match p.flowPort src eng dst tc with
  | some n => if ps.isEmpty then none else some n
  | none => pickPath ps (Config.flowHash (flowKey src eng dst tc) % ps.foldl (fun a x => a + x.2) 0)

/-- A drop without a route, counted, and logged once per 1,000 (R396). -/
def Pkg.noRoute (p : Pkg) (dst : Nat) : Pkg :=
  let n := p.net.noEntry
  let p := { p with net := { p.net with noEntry := n + 1 } }
  let p := p.addF F.PORT_RT_STAT.NO_ENTRY 0 1
  if n % 1000 == 0 then p.portEvent 0x2009 0 dst else p

/-- A drop at the hop limit, counted, and logged once per 1,000 (R397). -/
def Pkg.hopDrop (p : Pkg) (dst : Nat) : Pkg :=
  let n := p.net.hopDrops
  let p := { p with net := { p.net with hopDrops := n + 1 } }
  let p := p.addF F.PORT_RT_STAT.HOP_DROPS 0 1
  if n % 1000 == 0 then p.portEvent 0x2008 0 dst else p

end Sys2Proof.Machine
end

