-- ==== Sys2Proof/Machine/ContOps.lean ====
section
/-! DEFINITION. The replica membership in force at a step (R445, R448, R451, R453). -/
namespace Sys2Proof.Machine

/-- Is an order in force at step `t`? -/
def Order.inForce (o : Order) (t : Nat) : Bool := o.step ≤ t

def Pkg.onLead (p : Pkg) (f : Lead → Lead) : Pkg := { p with lead := f p.lead }

/-- A new parent of the clapper: the exchange begins anew. -/
def Pkg.newParent (p : Pkg) (port : Nat) : Pkg :=
  (p.setF F.CLAP_STAT.PARENT 0 port).onLead fun l => { l with t1 := none, missed := 0, leaderless := false }

/-- A write of CLAP_CFG: the parent of a wheel lead follows LEAD_PORT, of one that took over STBY_PORT (R434, R442). -/
def Pkg.clapCfgSettle (p : Pkg) : Pkg :=
  if p.getF F.CLAP_ROLE.ROLE 0 != 1 then p
  else
    let port := p.getF (if p.getF F.CLAP_ROLE_CFG.LEAD_ID 0 == p.pkgId then F.CLAP_CFG.LEAD_PORT else F.CLAP_CFG.STBY_PORT) 0
    if port == p.getF F.CLAP_STAT.PARENT 0 then p else p.newParent port

/-- An order among those of lower and equal steps (R448). -/
def orderInsert (o : Order) : List Order → List Order
  | [] => [o]
  | x :: t => if o.step < x.step then o :: x :: t else x :: orderInsert o t

/-- The orders in force at step `t` in the order of their steps, those of one step in the order of issue (R448). -/
def Pkg.byStep (p : Pkg) (t : Nat) : List Order := (p.orders.filter (·.inForce t)).foldl (fun l o => orderInsert o l) []

/-- The replicas out of the rings at step `t`. -/
def Pkg.outAt (p : Pkg) (t : Nat) : List Nat :=
  (p.byStep t).foldl (fun out o =>
    match o.kind with
    | .expel => if out.contains o.replica then out else o.replica :: out
    | .sitout => if out.contains o.replica then out else o.replica :: out
    | .rejoin => out.filter (· != o.replica)
    | .stop => out) []

/-- The replicas in their rejoin step at `t`. -/
def Pkg.joiningAt (p : Pkg) (t : Nat) : List Nat :=
  let out := p.outAt t
  dedup ((p.orders.filter fun o => o.kind == .rejoin && o.step == t && !out.contains o.replica).map (·.replica))

/-- Active and contributing replicas at step `t` (R445). -/
def Pkg.contAt (p : Pkg) (t : Nat) : Nat × Nat :=
  let n := p.getF F.CLAP_CONT_SELF.REPLICAS_M1 0 + 1
  let a := n - (p.outAt t).length
  (a, a - (p.joiningAt t).length)

/-- The latest step whose membership is in force here: of the orders applied and of the director cores in RUN. -/
def Pkg.appliedStep (p : Pkg) : Nat :=
  max (maxOf ((p.orders.filter (·.logged)).map (·.step)))
    (maxOf ((p.cores.filter fun c => isDirKey c.1 && c.2.st == .run).map fun c => (p.reg .CORE_STEP c.1).toNat))

/-- CLAP_CONT_STATE as a director core at step `t` reads it (R445). -/
def Pkg.contWord (p : Pkg) (t : Nat) : Nat :=
  let x := p.contAt t
  putFld (putFld (p.reg .CLAP_CONT_STATE 0).toNat 60 52 x.1) 51 43 x.2

end Sys2Proof.Machine
end

