-- ==== Sys2Proof/Machine/MemOps.lean ====
section
/-! DEFINITION. Writes of addressed memory and of rinds, with what drops them (R39, R356, R371, R375). -/
namespace Sys2Proof.Machine

/-- One unit's share of a write of memory (R356): written whole it holds no error any more; a part is merged after the unit
was decoded, and dropped when it is uncorrectable, which is reported as a partial write (R470). -/
def Dev.writeUnit (d : Dev) (u : Nat) (a : Nat) (bs : List Byte) : Dev :=
  let lo := max a (u * 8)
  let hi := min (a + bs.length) (u * 8 + unitLen u)
  let part := (bs.drop (lo - a)).take (hi - lo)
  if part.length == unitLen u then { mem := d.mem.write lo part, pkg := d.pkg.unflaw [u] }
  else if d.pkg.decode u == .lost then
    let d' : Dev := { d with pkg := d.pkg.ueMet d.mem u 2 3 }
    match d.pkg.place (u * 8) with
    | .staging _ => if d.pkg.compat then d' else d'.rewriteStaging (blockOf (u * 8))
    | _ => d'
  else
    let p := d.pkg.decodeUnit u
    let kept := (tget [] p.skew u).filter fun s => !(symBytes u [s]).any fun x => lo ≤ x.1 && x.1 < hi
    { mem := d.mem.write lo part, pkg := { p with skew := setSyms p.skew u kept } }

/-- Bytes written to addressed memory, whatever they are; units with errors follow R356. -/
def Dev.put (d : Dev) (a : Nat) (bs : List Byte) : Dev :=
  if d.pkg.flaws.isEmpty && d.pkg.skew.isEmpty then { d with mem := d.mem.write a bs }
  else
    (unitsOf (if a < 0x010000000000 then 64 else 8) a bs.length).foldl (fun d b => d.writeUnit (b / 8) a bs) d

/-- The block's rind written: in the rind table a part of a granule (R350, R356). -/
def Dev.putRind (d : Dev) (a r : Nat) : Dev :=
  if a < 0x010000000000 then d.put (rindEntry a) (leBytes 4 r) else d.setRind a r

/-- What becomes of the rind after a whole block was written. -/
def Dev.rindAfter (d : Dev) (a : Nat) (bs : List Byte) : RindAct → Dev
  | .keep => d
  | .correct => d.putRind (blockOf a) (rindOf bs)
  | .invalid => d.putRind (blockOf a) (invalidMark (rindOf (d.mem.view d.pkg (blockOf a) 4096)))

/-- One write request of requester kind `kind` (R364): dropped at a vat that is not READY (R39), under a maintenance
hold (R375) and at a cave (R371), else performed with its rind. -/
def Dev.store (d : Dev) (kind slate a : Nat) (bs : List Byte) (ra : RindAct) : Dev :=
  match d.pkg.place a with
  | .user v =>
    if !d.pkg.vatReady v then { d with pkg := d.pkg.vatDrop v }
    else if kind != 6 && d.pkg.held (stackOf a) then { d with pkg := d.pkg.holdDrop (stackOf a) kind }
    else if kind != 6 && d.pkg.inCave a then { d with pkg := d.pkg.caveDrop a kind slate }
    else (d.put a bs).rindAfter a bs ra
  | .reserved v =>
    if !d.pkg.vatReady v then { d with pkg := d.pkg.vatDrop v }
    else if kind != 6 && d.pkg.held (stackOf a) then { d with pkg := d.pkg.holdDrop (stackOf a) kind }
    else (d.put a bs).rindAfter a bs ra
  | .cellar v =>
    if !d.pkg.vatReady v then { d with pkg := d.pkg.vatDrop v } else (d.put a bs).rindAfter a bs ra
  | .staging _ => (d.put a bs).rindAfter a bs ra
  | _ => d

/-- Does a check of the block at `a` meet an uncorrectable rind-table granule (R350, R360)? -/
def Pkg.rindBad (p : Pkg) (a : Nat) : Bool := decide (a < 0x010000000000) && p.badRange (rindEntry a) 4

/-- What the read of the block's stored rind leaves behind (R350, R355, R360). -/
def Dev.noteRind (d : Dev) (kind a src : Nat) : Dev :=
  if a < 0x010000000000 then
    match d.pkg.place a with
    | .user v => if d.pkg.vatReady v && (kind == 6 || !d.pkg.held (stackOf a)) then
        ({ d with pkg := d.pkg.decodeRange (rindEntry a) 4 } : Dev).badDelivery kind (rindEntry a) 4 src else d
    | _ => d
  else d

/-- The rind alone written, dropped as a write of its block is (R223, R371). -/
def Dev.storeRind (d : Dev) (kind slate a r : Nat) : Dev :=
  match d.pkg.place a with
  | .user v =>
    if !d.pkg.vatReady v then { d with pkg := d.pkg.vatDrop v }
    else if kind != 6 && d.pkg.held (stackOf a) then { d with pkg := d.pkg.holdDrop (stackOf a) kind }
    else if kind != 6 && d.pkg.inCave a then { d with pkg := d.pkg.caveDrop a kind slate }
    else d.putRind (blockOf a) r
  | .cellar v => if !d.pkg.vatReady v then { d with pkg := d.pkg.vatDrop v } else d.putRind (blockOf a) r
  | _ => d

end Sys2Proof.Machine
end

