-- ==== Sys2Proof/Machine/Checks.lean ====
section
/-! DEFINITION. The checks made when a bundle is dispatched (R166, R172, R191–R193, R239, R264–R265, R574): for each
slot, the first failing class of R574 gives code and DETAIL. -/
namespace Sys2Proof.Machine

/-- Code and DETAIL of a refused op. -/
abbrev Bad := Option (Nat × Nat)

/-- The lower code of two failures of one class; the first on a tie (R574). -/
def Bad.low (a b : Bad) : Bad :=
  match a, b with
  | none, y => y
  | x, none => x
  | some x, some y => if y.1 < x.1 then some y else some x

/-- The first failure of a list in class order. -/
def Bad.first : List Bad → Bad
  | [] => none
  | some x :: _ => some x
  | none :: t => Bad.first t

/-- A failure when a condition holds. -/
def Bad.when (c : Bool) (code detail : Nat) : Bad := if c then some (code, detail) else none

/-! ### SC slot (R166, R170–R172, R414) -/

/-- Is the encoding of an SC slot legal? -/
def scLegal (b : Nat) : Bool :=
  let o := opcOf b
  if o == 0 then onlyBits b []
  else if 1 ≤ o && o ≤ 0x0C then onlyBits b [(22, 0)]
  else if 0x10 ≤ o && o ≤ 0x13 || o == 0x17 then onlyBits b [(63, 32), (17, 0)]
  else if 0x14 ≤ o && o ≤ 0x16 then onlyBits b [(37, 32), (17, 0)]
  else if o == 0x20 then onlyBits b [(63, 32), (7, 0)]
  else if o == 0x21 then onlyBits b [(63, 32), (20, 16), (15, 11), (10, 8), (7, 0)] && fld b 10 8 ≤ 5
  else if o == 0x22 then onlyBits b [(15, 11), (7, 0)]
  else if o == 0x30 then onlyBits b [(55, 32), (7, 0)]
  else if o == 0x31 then onlyBits b [(47, 32), (12, 0)]
  else if o == 0x32 || o == 0x33 then onlyBits b [(7, 0)]
  else if o == 0x34 then onlyBits b [(17, 13), (7, 0)]
  else if o == 0x35 then onlyBits b [(12, 0)]
  else if o == 0x38 then onlyBits b [(16, 0)] && fld b 16 13 ≤ 6
  else if o == 0x39 then onlyBits b [(22, 18), (16, 13), (7, 0)] && fld b 16 13 ≤ 6
  else false

/-- Target of a branch at index `idx` (R172), as an integer. -/
def branchTarget (b idx : Nat) (sc : Tab Word) : Int :=
  if opcOf b == 0x22 then (scal sc (fld b 15 11) : Int) else (idx : Int) + toSigned 32 (fld b 63 32)

/-- The dispatch check of an SC slot at bundle index `idx`: encoding, SC.COPEN on a core that is no director (`dir`; R415, class 3
of R574), branch range, SC.WRSR of a register other than LOSS. -/
def scCheck (dir : Bool) (text : Nat) (b idx : Nat) (sc : Tab Word) : Bad :=
  let d := slotDetail .fe b
  let o := opcOf b
  Bad.first [Bad.when (!scLegal b) 2 d, Bad.when (o == 0x34 && !dir) 0x27 d,
    Bad.when (0x20 ≤ o && o ≤ 0x22 && (let t := branchTarget b idx sc; t < 0 || (text : Int) ≤ t)) 5 d,
    Bad.when (o == 0x39 && fld b 16 13 != 6) 0x25 d]

/-- Is the op one of those that must stand alone in their bundle (R176, R414)? -/
def aloneOp (o : Nat) : Bool := 0x30 ≤ o && o ≤ 0x35

/-! ### VE slot (R236–R241, R248–R249, R256–R258) -/

/-- The bits an op of the VE slot uses; none for a reserved opcode. Each group names its fields in the order of R239.
BSZ and BSZ2 of VE.CVT count as used fields with BLK or BLK2 = 0 too, where R98 gives them no effect: DESIGN CHOICE (log entry
150). -/
def veBits (b : Nat) : Option (List (Nat × Nat)) :=
  let o := opcOf b
  let op := (7, 0)
  let vd := (13, 8)
  let va := (19, 14)
  let vb := (25, 20)
  let vc := (31, 26)
  let pr := (36, 32)
  let bb := (43, 37)
  let sa := (48, 44)
  if o == 0 then some []
  else if (0x60 ≤ o && o ≤ 0x62) || o == 0x64 || o == 0x65 || (0x70 ≤ o && o ≤ 0x75) || o == 0x77 then
    some [op, vd, va, vb, pr, bb]
  else if o == 0x63 then some [op, vd, va, vb, vc, pr, bb]
  else if 0x66 ≤ o && o ≤ 0x69 then some [op, vd, va, pr]
  else if o == 0x78 || o == 0x79 then some [op, va, vb, pr, bb, (73, 71), (77, 74)]
  else if o == 0x7A then some [op, (16, 14), (22, 20), pr, (73, 71), (77, 74)]
  else if o == 0x7C || o == 0x7D then some [op, vd, pr, sa]
  else if o == 0x7E then some [op, va, (42, 37), sa]
  else if o == 0x80 then
    some ([op, vd, va, sa, (70, 59)] ++ (if bitOf b 69 then [vb] else []) ++ (if bitOf b 63 then [vc] else []))
  else if 0x84 ≤ o && o ≤ 0x87 then some [op, vd, va, pr]
  else if o == 0x90 then some [op, pr, (58, 44), (73, 71)]
  else if o == 0x91 then some [op, vd, va, vc, pr, sa, (78, 78)]
  else if o == 0x92 then some [op, vd, va, vc, pr, (42, 37), sa, (78, 78)]
  else if o == 0x93 then some [op, vd, va, vb, pr, bb, (78, 78)]
  else if o == 0xA0 then some [op, vd, pr, sa]
  else if o == 0xA1 then some [op, va, sa]
  else if o == 0xA2 then some [op, vd, va, pr, sa]
  else none

/-- Does the op have an operand vb that BB can broadcast (R237)? -/
def veHasVb (o : Nat) : Bool :=
  (0x60 ≤ o && o ≤ 0x65) || (0x70 ≤ o && o ≤ 0x75) || (0x77 ≤ o && o ≤ 0x79) || o == 0x93

/-- Must ZM be 0 (R236)? -/
def veNoZm (o : Nat) : Bool := o == 0x77 || (0x84 ≤ o && o ≤ 0x87) || (0x91 ≤ o && o ≤ 0x93)

/-- Is the encoding of a VE slot legal? -/
def veLegal (b : Nat) : Bool :=
  let o := opcOf b
  let x := veOp b
  match veBits b with
  | none => false
  | some rs =>
    onlyBits b rs &&
    (!(veNoZm o) || !x.zm) && (o != 0x77 || x.pen) &&
    (!(veHasVb o) || x.bb || x.bl == 0) &&
    (o != 0x78 || x.sub ≤ 6) && (o != 0x79 || x.sub ≤ 7) && (o != 0x7A || x.sub ≤ 6)

/-- The format check of VE.CVT (R100, R248): the lower code, the target's fields on a tie, then INT64. -/
def cvtCheck (b : Nat) : Bad :=
  let x := veOp b
  let one (f : Nat) (blk bsz : Bool) : Bad :=
    let c := fmtCheck f blk
    Bad.when (c != 0) c (fmtDetail .ve f blk bsz)
  Bad.first [(one x.fmt x.blk x.bsz).low (one x.fmt2 x.blk2 x.bsz2),
    Bad.when (x.fmt == fmtINT64 || x.fmt2 == fmtINT64) 0x240 (slotDetail .ve b)]

/-- Is an FP32 pattern positive, finite and normal (R257)? -/
def posNormal (x : Nat) : Bool := 0x00800000 ≤ x && x < 0x7F800000

/-- The dispatch check of a VE slot; `size` is the scratch size. -/
def veCheck (size : Nat) (b : Nat) (sc : Tab Word) : Bad :=
  let d := slotDetail .ve b
  let o := opcOf b
  let x := veOp b
  let w (r : Nat) := scal sc r % 2 ^ 32
  let a := w x.sa
  Bad.first [Bad.when (!veLegal b) 2 d,
    if o == 0x80 then cvtCheck b else none,
    if o == 0x90 then
      Bad.when (8388607 < w x.sa || 8388607 < w x.sb || 8388608 < w x.sc) 0x242 d
    else if o == 0x91 then Bad.when (!posNormal a) 0x243 d
    else if o == 0x92 then Bad.when (8388607 < a + 63) 0x242 d
    else if o == 0xA0 || o == 0xA1 then
      (Bad.when (!alignedTo 4 a) 0x241 d).low (scratchCheck size [⟨a, 256⟩])
    else none]

/-! ### MX slot (R128, R138–R143, R153, R155) -/

/-- A stride register: s0 selects the packed stride (R139). -/
def strideOf (sc : Tab Word) (r packed : Nat) : Nat := if r == 0 then packed else scal sc r

/-- Rows of a tile: `n` runs of `len` bytes at a stride. -/
def rowRuns (base stride n len : Nat) : List Run := (List.range n).map fun i => ⟨base + i * stride, len⟩

/-- The bytes that an MX op reads from scratch or the fill partition (R139, R140). -/
def ldwRuns (x : LdwOp) (sc : Tab Word) : List Run :=
  let n := x.km1 + 1
  let len := rowBytes x.fmt 64
  rowRuns (scal sc x.sw) (strideOf sc x.ss len) n len ++
    (if x.blk then [⟨scal sc x.ssc, ceilDiv n (blkLen x.bsz) * 64⟩] else [])

/-- One activation source of MX.MMA and MX.CMUL. -/
def actRuns (fmt : Nat) (blk bsz : Bool) (rows base stride scale : Nat) : List Run :=
  let len := rowBytes fmt (kTile fmt)
  rowRuns base stride rows len ++
    (if blk then [⟨scale, rows * (kTile fmt / blkLen bsz)⟩] else [])

def mmaRuns (x : MmaOp) (sc : Tab Word) : List Run :=
  actRuns x.fmt x.blk x.bsz (x.mm1 + 1) (scal sc x.sa) (strideOf sc x.ss (rowBytes x.fmt (kTile x.fmt))) (scal sc x.ssc)

def cmulRuns (x : CmulOp) (sc : Tab Word) : List Run :=
  let st := strideOf sc x.ss (rowBytes x.fmt (kTile x.fmt))
  let one (a s : Nat) := actRuns x.fmt x.blk x.bsz (x.mm1 + 1) (scal sc a) st (scal sc s)
  one x.sa0 x.ssc0 ++ one x.sa1 x.ssc1 ++ (if x.gauss then one x.sa2 x.ssc2 else [])

/-- The weight source of the fold form (R153). -/
def foldWRuns (x : FoldOp) (sc : Tab Word) : List Run :=
  let n := 64 * (x.nt + 1)
  let k := kTile x.fmt * (x.kt + 1)
  let len := rowBytes x.fmt n
  rowRuns (scal sc x.sw) (strideOf sc x.sws len) k len ++
    (if x.blk then [⟨scal sc x.swc, k / blkLen x.bsz * n⟩] else [])

/-- The activation source of the fold form. -/
def foldARuns (x : FoldOp) (sc : Tab Word) : List Run :=
  let k := kTile x.fmt * (x.kt + 1)
  let len := rowBytes x.fmt k
  rowRuns (scal sc x.sa) (strideOf sc x.ss len) (x.mm1 + 1) len ++
    (if x.blk then [⟨scal sc x.ssc, (x.mm1 + 1) * (k / blkLen x.bsz)⟩] else [])

/-- What MX.OUT reads from scratch: scale vector, bias vector, residual rows. -/
def outReads (x : OutOp) (sc : Tab Word) : List Run :=
  (if x.scl then [⟨scal sc x.ssb, 256⟩] else []) ++
    (if x.bias then [⟨scal sc x.ssb + 256, 256⟩] else []) ++
    (if x.res then [⟨scal sc x.sr, 256 * (x.rm1 + 1)⟩] else [])

/-- What MX.OUT writes to scratch (DST = 0). -/
def outWrites (x : OutOp) (sc : Tab Word) : List Run :=
  if x.vreg then []
  else
    let len := rowBytes x.fmt 64
    rowRuns (scal sc x.sd) (strideOf sc x.sds len) (x.rm1 + 1) len ++
      (if x.blk then [⟨scal sc x.sdc, (x.rm1 + 1) * (64 / blkLen x.bsz)⟩] else [])

/-- Is the encoding of an MX slot legal (R138)? -/
def mxLegal (b : Nat) : Bool :=
  let o := opcOf b
  if o == 0 then onlyBits b []
  else if o == 0x10 then onlyBits b [(40, 0)]
  else if o == 0x11 then (if bitOf b 8 then onlyBits b [(61, 0)] else onlyBits b [(46, 0)])
  else if o == 0x12 then onlyBits b [(62, 0)]
  else if o == 0x13 then onlyBits b [(75, 14), (12, 0)]
  else if o == 0x14 then onlyBits b [(17, 0)]
  else false

/-- The format an MX op names: FMT, BLK, BSZ. -/
def mxFmt (b : Nat) : Nat × Bool × Bool :=
  let o := opcOf b
  if o == 0x10 then let x := ldwOp b; (x.fmt, x.blk, x.bsz)
  else if o == 0x11 then
    if bitOf b 8 then let x := foldOp b; (x.fmt, x.blk, x.bsz) else let x := mmaOp b; (x.fmt, x.blk, x.bsz)
  else if o == 0x12 then let x := cmulOp b; (x.fmt, x.blk, x.bsz)
  else if o == 0x13 then let x := outOp b; (x.fmt, x.blk, x.bsz)
  else (0, false, false)

/-- The source check of an MX op: scratch range, or addresses of a fill source. -/
def Pkg.mxSource (p : Pkg) (size claims : Nat) (fill : Bool) (rs : List Run) : Bad :=
  if fill then p.addrCheck claims rs else scratchCheck size rs

/-- The range class of an MX op. DESIGN CHOICE (log entry 122): VD + RM1 above 63 is judged where MX.OUT writes vectors. -/
def Pkg.mxRange (p : Pkg) (size claims : Nat) (b : Nat) (sc : Tab Word) : Bad :=
  let d := slotDetail .mx b
  let o := opcOf b
  if o == 0x10 then
    let x := ldwOp b
    (Bad.when (kTile x.fmt < x.km1 + 1) 0x214 d).low (p.mxSource size claims x.fill (ldwRuns x sc))
  else if o == 0x11 then
    if bitOf b 8 then
      let x := foldOp b
      (Bad.when (7 < x.bank + x.nt / 2) 0x214 d).low
        ((p.mxSource size claims x.wfill (foldWRuns x sc)).low (p.mxSource size claims x.afill (foldARuns x sc)))
    else
      let x := mmaOp b
      (Bad.when (x.amask == 0) 0x214 d).low (p.mxSource size claims x.fill (mmaRuns x sc))
  else if o == 0x12 then
    let x := cmulOp b
    p.mxSource size claims x.fill (cmulRuns x sc)
  else if o == 0x13 then
    let x := outOp b
    (Bad.when (x.vreg && (x.blk || x.fmt == fmtINT64 || 63 < x.vd + x.rm1)) 0x214 d).low
      (scratchCheck size (outReads x sc ++ outWrites x sc))
  else none

/-- The dispatch check of an MX slot on a core (`dir`: a director core). -/
def Pkg.mxCheck (p : Pkg) (dir : Bool) (size claims : Nat) (b : Nat) (sc : Tab Word) : Bad :=
  let d := slotDetail .mx b
  let o := opcOf b
  let (f, blk, bsz) := mxFmt b
  let fc := fmtCheck f blk
  Bad.first [Bad.when (!mxLegal b) 2 d,
    Bad.when (if dir then o == 0x10 || o == 0x12 || (o == 0x11 && !bitOf b 8) else o == 0x11 && bitOf b 8) 0x213 d,
    Bad.when (dir && o == 0x13 && 2 ≤ (outOp b).arr) 0x212 d,
    if 0x10 ≤ o && o ≤ 0x13 then
      (Bad.when (fc != 0) fc (fmtDetail .mx f blk bsz)).low
        (Bad.when (o != 0x13 && (f == 11 || f == 12) || o == 0x12 && (f == 0 || f == 10)) 0x210 d)
    else none,
    p.mxRange size claims b sc]

/-! ### LD slot (R205, R206) -/

/-- Is the encoding of an LD slot legal? -/
def ldLegal (b : Nat) : Bool :=
  let o := opcOf b
  if o == 0 then onlyBits b []
  else if o == 0x40 then onlyBits b [(45, 15), (7, 0)]
  else if o == 0x41 then onlyBits b [(45, 42), (30, 15), (7, 0)]
  else if o == 0x42 then onlyBits b [(46, 46), (30, 15), (7, 0)]
  else false

def ldCheck (b : Nat) : Bad := Bad.when (!ldLegal b) 2 (slotDetail .ld b)

/-! ### ST slot (R211, R212, R230–R233, R320–R327, R420–R421) -/

/-- Is the encoding of an ST slot legal, with its destination register's Zero bits? -/
def stLegal (b : Nat) (sc : Tab Word) : Bool :=
  let o := opcOf b
  let dst := scal sc (fld b 45 41)
  if o == 0 then onlyBits b []
  else if o == 0x50 then onlyBits b [(41, 15), (7, 0)]
  else if o == 0x51 then
    onlyBits b [(47, 41), (25, 15), (7, 0)] && (fld b 47 46 == 1 || fld b 47 46 == 2) && dst < 2 ^ 60
  else if o == 0x52 then onlyBits b [(45, 36), (31, 26), (7, 0)] && dst < 2 ^ 60
  else if 0x58 ≤ o && o ≤ 0x5A then onlyBits b [(36, 31), (25, 15), (7, 0)]
  else if o == 0x5B then onlyBits b [(20, 16), (7, 0)]
  else false

/-- Lies a range in staging slots that a claim mask names? -/
def Pkg.claimedRange (p : Pkg) (claims a n : Nat) : Bool :=
  (unitsOf 0x400000 a n).all fun s =>
    match p.place s with
    | .staging k => bitOf claims k
    | _ => false

/-- The lowest reason for which ST.CX is skipped (R421). -/
def Pkg.cxReason (p : Pkg) (k size claims : Nat) (b : Nat) (sc : Tab Word) : Option Nat :=
  let dst := scal sc (fld b 45 41)
  let n := scal sc (fld b 40 36)
  let src := scal sc (fld b 30 26)
  if !isDirKey k then some 1
  else
    match p.callOf k with
    | none => some 1
    | some (g, c) =>
      if dst / 2 ^ 48 != p.member g (p.successor g c.mask) then some 2
      else if n == 0 || 1024 < n then some 3
      else if (if bitOf b 31 then
            !(p.userRange src (n * 4096) || (p.claimedRange claims src (n * 4096)))
          else size < src + n * 4096) || !alignedTo 4096 dst then some 4
      else none

/-- The dispatch check of an ST slot; `inB` says that a bracket is open. -/
def Pkg.stCheck (p : Pkg) (k size claims : Nat) (inB : Bool) (b : Nat) (sc : Tab Word) : Bad :=
  let d := slotDetail .st b
  let o := opcOf b
  let sr := scal sc (fld b 20 16)
  Bad.first [Bad.when (!stLegal b sc) 2 d,
    if o == 0x51 then Bad.when (!alignedTo 4096 (scal sc (fld b 45 41))) 0x235 (moveDetail .st b 3)
    else if o == 0x52 then (p.cxReason k size claims b sc).map fun r => (0x253, moveDetail .st b r)
    else if o == 0x5B then Bad.when (!alignedTo 128 sr || !p.isUser sr) 0x251 d
    else none,
    Bad.when (inB && o == 0x51) 0x236 (moveDetail .st b 0),
    Bad.when (inB && 0x58 ≤ o && o ≤ 0x5B) 0x252 d]

/-! ### SY slot (R262–R265, R278) -/

/-- Is the encoding of an SY slot legal? -/
def syLegal (b : Nat) : Bool :=
  let o := opcOf b
  let x := syOp b
  let sv := 1 ≤ x.serve && x.serve ≤ 5
  if o == 0 then onlyBits b []
  else if o == 0xC0 then
    onlyBits b [(63, 48), (33, 25), (21, 16), (10, 0)] && sv && x.n != 0 && x.tc != 3 && x.tgt != 3 &&
      (x.tgt != 0 || x.stg == 0)
  else if o == 0xC1 || o == 0xC2 then onlyBits b [(63, 48), (21, 16), (10, 0)] && sv && x.n != 0
  else if o == 0xC3 then onlyBits b [(29, 25), (10, 0)] && sv
  else if o == 0xC4 then onlyBits b [(16, 16), (10, 0)] && sv
  else false

/-- SEM_OWNER of a semaphore in a header (R187). -/
def ownerOf (owners n : Nat) : Nat := owners / 8 ^ n % 8

/-- The register of SY.SIG that names the target: core ID and package ID (R265). -/
def sigCore (w : Nat) : Nat := w % 512
def sigPkg (w : Nat) : Nat := w / 2 ^ 48 % 4096

/-- The dispatch check of an SY slot. -/
def Pkg.syCheck (p : Pkg) (owners : Nat) (b : Nat) (sc : Tab Word) : Bad :=
  let o := opcOf b
  let x := syOp b
  let w := scal sc x.stg
  let d := slotDetail .sy b
  let local_ := x.tgt == 1 || (x.tgt == 2 && sigPkg w == p.pkgId)
  let absent := o == 0xC0 && local_ && !p.isCore (sigCore w)
  let stray := o == 0xC0 && x.tgt != 0 && (if x.tgt == 1 then 512 ≤ w else w != sigCore w + sigPkg w * 2 ^ 48)
  Bad.first [Bad.when (!syLegal b) 2 d,
    Bad.when absent 3 (5 * 2 ^ 13 +
      (if p.hasVat (sigCore w / 128) then sigCore w else 2 ^ 11 + sigCore w / 128)),
    (Bad.when (o == 0xC1 && ownerOf owners x.sem != x.serve) 0x801 (x.serve * 2 ^ 13 + x.sem)).low
      (Bad.when (stray || (o == 0xC0 && x.tc != 0 && (x.tgt != 2 || x.serve != 5)) ||
          (o == 0xC4 && bitOf b 16 && x.serve != 5)) 0x804
        (x.serve * 2 ^ 13 + (if o == 0xC0 then x.tgt else 0) * 2 ^ 11 + (if o == 0xC0 then x.sem else 0)))]

end Sys2Proof.Machine
end

