-- ==== Sys2Proof/Machine/MemQueue.lean ====
section
/-! DEFINITION. The queues of the pseudo-channels and what serves them (R359, R363–R369). -/
namespace Sys2Proof.Machine

/-- Requester kind of a core's request to an address (R364). The spec names no kind for an atomic: DESIGN CHOICE (log entry 147), that
of its issuing core. -/
def kindOf (k a : Nat) : Nat :=
  if a < 0x020000000000 && vatOfAddr a != k / 128 then 3 else if isDirKey k then 1 else 0

/-- Bank of a request. -/
def Pkg.bankOf (p : Pkg) (r : MemReq) : Nat := (p.rowOf r.addr).1

/-- Does a request of length `n` at `a`, of whole blocks or of granules, touch data that one at `a'` touches (R363)? -/
def touchSame (a n : Nat) (whole : Bool) (a' n' : Nat) (whole' : Bool) : Bool :=
  blockOf a == blockOf a' &&
    (whole || whole' || (a / 64 ≤ (a' + n' - 1) / 64 && a' / 64 ≤ (a + n - 1) / 64))

/-- Must `b` wait behind the older `a` (R363)? -/
def MemReq.blocks (a b : MemReq) : Bool := touchSame a.addr a.len a.rind b.addr b.len b.rind

/-- Do two requests come from one engine (R368)? -/
def MemReq.sameEngine (a b : MemReq) : Bool := a.id == b.id && a.op.map (·.1) == b.op.map (·.1)

/-- Does the bank of a request hold 16 slots (R363, R368)? -/
def Pkg.bankFull (p : Pkg) (x : Pch) (r : MemReq) : Bool := 16 ≤ (x.q.filter fun y => p.bankOf y == p.bankOf r).length

/-- Can a request be accepted: a slot free, fewer than 16 on its bank, none of its engine held before it (R363, R368)? -/
def Pkg.canAccept (p : Pkg) (x : Pch) (held : List MemReq) (r : MemReq) : Bool :=
  x.q.length < 64 && !p.bankFull x r && !held.any (·.sameEngine r)

/-- Held requests enter the queue as far as they can be accepted, oldest first; with them the number of those that now, as
their engine's first there, meet a full bank for the first time (R368). -/
def Pkg.enterHeld (p : Pkg) (x : Pch) (n : Nat) : List MemReq → List MemReq → Pch × Nat
  | kept, [] => ({ x with held := kept }, n)
  | kept, r :: t =>
    if p.canAccept x kept r then p.enterHeld { x with q := x.q ++ [{ r with since := p.time, hit := false }] } n kept t
    else
      let hit := p.bankFull x r && !kept.any (·.sameEngine r)
      p.enterHeld x (n + b2n (hit && !r.hit)) (kept ++ [{ r with hit := r.hit || hit }]) t

/-- Do writes go first in priority mode (R365): from WR_HIGH writes until fewer than WR_LOW are left? -/
def Pkg.drains (p : Pkg) (c : Nat) (x : Pch) : Bool :=
  let n := (x.q.filter (·.write)).length
  if p.getF F.MC_MODE.WR_HIGH (c / 64) ≤ n then true else if n < p.getF F.MC_MODE.WR_LOW (c / 64) then false else x.drain

/-- Pseudo-channel `c` with a changed queue `x`: held requests enter (R368), and the drain of writes follows (R365). -/
def Pkg.settleQueue (p : Pkg) (c : Nat) (x : Pch) : Pkg :=
  let y := p.enterHeld x 0 [] x.held
  (p.addF F.MC_BANK_STAT.CAP_HITS c y.2).setPch c { y.1 with drain := p.drains c y.1 }

/-- MEM_REQUEST_ACCEPT (R363, R368): the request enters its pseudo-channel's queue, or the fabric holds it. -/
def Pkg.memAccept (p : Pkg) (r : MemReq) : Pkg :=
  match p.place r.addr with
  | .user _ | .reserved _ =>
    let c := pchKey r.addr
    p.settleQueue c { p.pch c with held := (p.pch c).held ++ [r] }
  | _ => p

/-- A request was served: it leaves the queue of pseudo-channel `c`, its wait is recorded (R369), held ones may enter. -/
def Pkg.served (p : Pkg) (c : Nat) (r : MemReq) : Pkg :=
  let p := p.setF F.MC_BANK_STAT.MAX_WAIT c (max (p.getF F.MC_BANK_STAT.MAX_WAIT c) (min (2 ^ 32 - 1) (p.time - r.since)))
  p.settleQueue c { p.pch c with q := (p.pch c).q.erase r }

/-- The requests that may be served: bank ready, no row under copy, and behind no older request to the same data (R359, R363). -/
def readyReqs (ok : MemReq → Bool) : List MemReq → List MemReq → List MemReq
  | _, [] => []
  | old, r :: t =>
    let rest := readyReqs ok (r :: old) t
    if ok r && !old.any (·.blocks r) then r :: rest else rest

/-- The pick of priority mode (R365). -/
def pickPriority (now age : Nat) (drain : Bool) (rs : List MemReq) : Option MemReq :=
  let first (f : MemReq → Bool) : Option MemReq := rs.find? f
  [first fun r => age < now - r.since,
   if drain then first (·.write) else none,
   first fun r => !r.write && (r.kind == 7 || r.kind == 1),
   first fun r => !r.write && r.kind != 6,
   first fun r => r.write && r.kind != 6,
   first fun _ => true].findSome? id

/-- Register of bucket `n` of a stack. -/
def bucketReg (n : Nat) : Reg :=
  match n with
  | 0 => .MC_BUCKET0 | 1 => .MC_BUCKET1 | 2 => .MC_BUCKET2 | 3 => .MC_BUCKET3
  | 4 => .MC_BUCKET4 | 5 => .MC_BUCKET5 | 6 => .MC_BUCKET6 | _ => .MC_BUCKET7

/-- BURST and RATE of partition `n` (R366). -/
def Pkg.bucket (p : Pkg) (s n : Nat) : Nat × Nat :=
  let w := (p.reg (bucketReg n) s).toNat
  (max 64 (fld w 31 16), fld w 15 0)

/-- Partition of a requester kind. -/
def Pkg.partition (p : Pkg) (s kind : Nat) : Nat := fld (p.getF F.MC_PART_MAP.PART s) (4 * kind + 2) (4 * kind)

/-- Data granules a request moves: its charge (R366). -/
def MemReq.charge (r : MemReq) : Nat := if r.rind then 64 else (unitsOf 64 r.addr r.len).length

/-- Tokens of a partition at the present time, in thousandths. -/
def Pkg.tokens (p : Pkg) (c n : Nat) : Nat :=
  let x := p.pch c
  let b := p.bucket (c / 64) n
  match tfind x.tokens n with
  | some t => min (b.1 * 1000) (t + b.2 * (p.time - x.refill))
  | none => b.1 * 1000

/-- The buckets of a stack brought up to the present time, before one of its MC_BUCKETn is written (R366). -/
def Pkg.settleTokens (p : Pkg) (s : Nat) : Pkg :=
  ((List.range 64).map (64 * s + ·)).foldl (fun q c =>
    q.setPch c { q.pch c with tokens := (List.range 8).foldl (fun t n => tins t n (p.tokens c n)) [], refill := p.time }) p

/-- The pick of regulator mode, and the partition that pays (R366). -/
def Pkg.pickRegulated (p : Pkg) (c : Nat) (rs : List MemReq) : Option (MemReq × Option Nat) :=
  let s := c / 64
  let oldest (n : Nat) : Option MemReq := rs.find? fun r => p.partition s r.kind == n
  let order := (List.range 8).map fun i => ((p.pch c).rr + 1 + i) % 8
  match order.findSome? fun n => match oldest n with
    | some r => if r.charge * 1000 ≤ p.tokens c n then some (r, some n) else none
    | none => none with
  | some x => some x
  | none => if p.flag F.MC_MODE.SHARE s then rs.head?.map fun r => (r, none) else none

/-- The scheduler's pick of pseudo-channel `c` while the banks of `ready` are ready, and the partition that pays (R363, R365,
R366). -/
def Pkg.pick (p : Pkg) (c ready : Nat) : Option (MemReq × Option Nat) :=
  let s := c / 64
  let x := p.pch c
  let rs := readyReqs (fun r => bitOf ready (p.bankOf r) && !p.underCopy r.addr r.len) [] x.q
  if p.flag F.MC_MODE.MODE s then p.pickRegulated c rs
  else (pickPriority p.time (16 * max 1 (p.getF F.MC_MODE.AGE_MAX s)) (p.drains c x) rs).map fun r => (r, none)

/-- A picked request is served, the partition paying its charge (R366). -/
def Pkg.serveReq (p : Pkg) (c : Nat) (r : MemReq) (pays : Option Nat) : Pkg :=
  let x := p.pch c
  let x := match pays with
    | some n =>
      let toks := (List.range 8).foldl (fun t i => tins t i (p.tokens c i - (if i == n then r.charge * 1000 else 0))) []
      { x with tokens := toks, refill := p.time, rr := n }
    | none => x
  (p.setPch c x).served c r

/-- The next request of pseudo-channel `c` while the banks of `ready` are ready; `write` says which service runs. The
request leaves the queue. -/
def Pkg.serveNext (p : Pkg) (c ready : Nat) (write : Bool) : Option (MemReq × Pkg) :=
  match p.pick c ready with
  | none => none
  | some (r, pays) => if r.write != write then none else some (r, p.serveReq c r pays)

/-- A given request of a queue is served, if the scheduler would pick it while only its bank is ready. -/
def Pkg.serveThis (p : Pkg) (r : MemReq) : Option Pkg :=
  let c := pchKey r.addr
  match p.pick c (2 ^ p.bankOf r) with
  | some (y, pays) => if y == r then some (p.serveReq c r pays) else none
  | none => none

/-- Is the data at `a` of another pseudo-channel busy for an atomic's element that reaches there: its row under copy (R359), or an
older queued request of another op to the same data (R363)? -/
def Pkg.touchBusy (p : Pkg) (k no a n : Nat) (whole : Bool) : Bool :=
  p.underCopy a n || (decide (a < 0x010000000000) &&
    (p.pch (pchKey a)).q.any fun r => r.op != some (k, no) && touchSame r.addr r.len r.rind a n whole)

/-- A request that a command performs in one step, of `n` bytes at `a` within one block: it is the one that waits in its
queue for this access, or enters the queue now, and is served; none while the controller would not serve it (R359, R363, R365, R366),
and then the command does nothing yet (DEDUCED, log entry 142). Places other than a stack of a READY vat have no queue. -/
def Pkg.direct (p : Pkg) (kind : Nat) (write rind : Bool) (a n : Nat) : Option Pkg :=
  match p.place a with
  | .user v | .reserved v =>
    if !p.vatReady v then some p
    else
      let x := p.pch (pchKey a)
      match x.q.find? fun r => r.op.isNone && r.kind == kind && r.write == write && r.addr == a with
      | some r => p.serveThis r
      | none =>
        let r : MemReq := ⟨0x10000 + kind, kind, write, a, n, rind, 0, p.time, [], none, false⟩
        if p.canAccept x x.held r then (p.memAccept r).serveThis r else none
  | _ => some p

/-- Several requests performed in one step, one after another. -/
def Pkg.directs (p : Pkg) (kind : Nat) (write rind : Bool) : List (Nat × Nat) → Option Pkg
  | [] => some p
  | (a, n) :: t =>
    match p.direct kind write rind a n with
    | some q => q.directs kind write rind t
    | none => none

end Sys2Proof.Machine
end

