-- ==== Sys2Proof/Machine/Fabric.lean ====
section
/-! DEFINITION. The fabric between the engines and the memory: routes between dies, credits, requests under way (R18, R28, R29,
R32–R34, R210, R229). -/
namespace Sys2Proof.Machine

/-- Modules of an edge (R18); 0 for an absent edge. -/
def Pkg.edgeModules (p : Pkg) (e : Nat) : Nat :=
  if e < 4 then (if p.hasVat e then 16 else 0)
  else if e < 8 then (if p.hasVat (e - 4) && p.hasVat ((e - 3) % 4) then 12 else 0)
  else if e == 8 && p.fuse.guest then 4 else 0

/-! ### Routes (R28) -/

/-- The edge that joins two neighbour vats. -/
def neighbourEdge (a b : Nat) : Nat := if (a + 1) % 4 == b then 4 + a else 4 + b

/-- The edges that traffic from die `a` to die `b` crosses, in order: always the same (R28). Vats 0–3, hub 4, guest die
5. -/
def dieRoute (a b : Nat) : List Nat :=
  if a == b then []
  else if a < 4 && b < 4 then
    (if (a + 2) % 4 == b then [a, b] else [neighbourEdge a b])
  else if a < 4 then (if b == 5 then [a, 8] else [a])
  else if b < 4 then (if a == 5 then [8, b] else [b])
  else [8]

/-- Key of a module, of a module end, and of a lane of a module end. -/
def modKey (e m : Nat) : Nat := e * 32 + m
def endInst (e m en : Nat) : Nat := modKey e m * 2 + en
def d2dLane (e m en lane : Nat) : Nat := endInst e m en * 128 + lane

def Pkg.d2dMod (p : Pkg) (e m : Nat) : D2dMod := tget D2dMod.init p.d2d (modKey e m)

def Pkg.setMod (p : Pkg) (e m : Nat) (x : D2dMod) : Pkg := { p with d2d := tset D2dMod.init p.d2d (modKey e m) x }

/-- Does the module carry traffic? -/
def D2dMod.works (x : D2dMod) : Bool := x.st == 0 || x.st == 1

/-- Does every edge of a route carry traffic? -/
def Pkg.routeUp (p : Pkg) (a b : Nat) : Bool :=
  (dieRoute a b).all fun e => (List.range (p.edgeModules e)).any fun m => let x := (p.d2dMod e m).st; x == 0 || x == 1

/-! ### Credits and requests under way -/

/-- The addresses at which requests of an op are outstanding; a press update stands for its number. -/
def FKind.requests : FKind → List Nat
  | .mx _ => []
  | .load x => x.units.map (·.1)
  | .store ws => ws.map (·.addr)
  | .xfer _ _ bs => bs.map (·.addr)
  | .cx _ _ _ _ _ bs => bs.map (·.addr)
  | .atomic x => x.blocks.map (·.blk)
  | .press _ op => [op]

/-- Do the requests of an op go to memory or a cellar, and not to the hub's ports or a vat's press queue? -/
def FKind.toMemory : FKind → Bool
  | .load _ => true
  | .store _ => true
  | .atomic _ => true
  | _ => false

def Core.flightOf (c : Core) (no : Nat) : Option Flight := c.flight.find? (·.no == no)

/-- Requests of an engine that are outstanding. -/
def Core.outstanding (c : Core) (e : Eng) : Nat :=
  ((c.flight.filter (·.eng == e)).map fun f => f.kind.requests.length).foldl (· + ·) 0

/-- Does an engine hold a credit (R32)? -/
def Core.hasCredit (c : Core) (e : Eng) : Bool := tget 0 c.spent e.key < creditDepth

/-- A credit of an engine is spent. -/
def Core.spend (c : Core) (e : Eng) : Core := { c with spent := tset 0 c.spent e.key (tget 0 c.spent e.key + 1) }

/-- A credit of an engine comes back. -/
def Core.unspend (c : Core) (e : Eng) : Core := { c with spent := tset 0 c.spent e.key (tget 0 c.spent e.key - 1) }

/-- Requests of an op that wait for their credits: those of loads and stores travel in TC2 (R229). -/
def Core.want (c : Core) (e : Eng) (no : Nat) (as : List Nat) : Core := { c with unsent := c.unsent ++ as.map (⟨e, no, ·, 2⟩) }

/-- The words of a block message: class, sending core, flight number, address, rind, group, sequence number, digest,
count of the op's blocks, bytes as one number. -/
def XBlk.words (x : XBlk) (tc core no : Nat) (more : List Nat) : List Nat :=
  [tc, core, no, x.addr, x.rind] ++ more ++ [ofLe x.data]

/-- A request leaves its engine: to memory it enters the fabric; a block for another package goes to the hub with its message
(R230, R420). -/
def Pkg.leaves (p : Pkg) (k : Nat) (r : FabReq) : Pkg :=
  let me := (p.logicalOf k).getD k
  match (p.core k).flightOf r.no with
  | none => p
  | some f =>
    match f.kind with
    | .xfer pkg tc bs =>
      match bs.find? fun x => pkg != p.pkgId && x.addr == r.addr with
      | some x => p.send .xfBlock pkg (x.words tc me r.no [])
      | none => p
    | .cx pkg g seq digest count bs =>
      match bs.find? fun x => pkg != p.pkgId && x.addr == r.addr with
      | some x => p.send .cxBlock pkg (x.words 1 me r.no [g, seq, digest, count])
      | none => p
    | kind => if kind.toMemory then p.onCore k fun c => { c with fab := c.fab ++ [r] } else p

/-- The waiting requests of an engine leave it one by one, each for a credit (R32), at most `n` of them. -/
def Pkg.pump (p : Pkg) (k : Nat) (e : Eng) : Nat → Pkg
  | 0 => p
  | n + 1 =>
    let c := p.core k
    match c.unsent.find? (·.eng == e) with
    | none => p
    | some r =>
      if c.hasCredit e then ((p.setCore k { c.spend e with unsent := c.unsent.erase r }).leaves k r).pump k e n else p

/-- The requests of an op issue: each leaves for a credit, those behind wait for theirs. -/
def Pkg.sendReqs (p : Pkg) (k : Nat) (e : Eng) (no : Nat) (as : List Nat) : Pkg :=
  let p := p.onCore k (·.want e no as)
  p.pump k e (p.core k).unsent.length

/-- CREDIT_RETURN (R32): a fabric credit of an engine comes back. -/
def Pkg.creditReturn (p : Pkg) (k : Nat) (e : Eng) : Pkg :=
  let p := p.onCore k (·.unspend e)
  p.pump k e (p.core k).unsent.length

/-- No more credits are out than requests that left and were not performed: the fabric gave back those of the others (R32). -/
def Core.capSpent (c : Core) (e : Eng) : Core :=
  let out := c.outstanding e - (c.unsent.filter (·.eng == e)).length
  { c with spent := tset 0 c.spent e.key (min (tget 0 c.spent e.key) out) }

/-- A flight op of a core changed, or removed when `y` is none. -/
def Core.setFlight (c : Core) (no : Nat) (y : Option FKind) : Core :=
  let c : Core := match y with
    | some y => { c with flight := c.flight.map fun f => if f.no == no then { f with kind := y } else f }
    | none => { c with flight := c.flight.filter (·.no != no) }
  (c.capSpent .ld).capSpent .st

/-- The waiting requests of a core's engines leave as far as credits came back. -/
def Pkg.pumpAll (p : Pkg) (k : Nat) : Pkg :=
  let n := (p.core k).unsent.length
  (p.pump k .ld n).pump k .st n

/-- The request of op `no` of core `k` at `a` as its pseudo-channel takes it (R210, R364, R368); an atomic's covers its block
(DESIGN CHOICE, log entry 131), and its kind is that of its issuing core (DESIGN CHOICE, log entry 147). -/
def Pkg.opMemReq (p : Pkg) (k : Nat) (e : Eng) (no a : Nat) : Option MemReq :=
  match (p.core k).flightOf no with
  | none => none
  | some f =>
    let mk (write rind : Bool) (n : Nat) : MemReq := ⟨e.key, kindOf k a, write, a, n, rind, f.slate, p.time, [], some (k, no), false⟩
    match f.kind with
    | .load x => (x.units.find? (·.1 == a)).map fun u => mk false u.2 (if u.2 then 4096 else 512)
    | .store ws => (ws.find? (·.addr == a)).map fun w => mk true (w.rind != .keep) w.data.length
    | .atomic x => (x.blocks.find? (·.blk == a)).map fun _ => mk true x.rind 4096
    | _ => none

/-- What an engine sent to a die, up to and with the request `r`, reaches it in order (R29, R363): a pseudo-channel of a READY vat
takes what is for a stack. -/
def Pkg.reachAll (p : Pkg) (k : Nat) (r : FabReq) : List FabReq → Pkg
  | [] => p
  | x :: t =>
    if x.eng == r.eng && x.tc == r.tc && dieOf x.addr == dieOf r.addr then
      let q := p.onCore k fun c => { c with fab := c.fab.erase x }
      let q := match (if x.addr < 0x010000000000 && p.vatReady (dieOf x.addr) then p.opMemReq k x.eng x.no x.addr else none) with
        | some y => q.memAccept y
        | none => q
      if x == r then q else q.reachAll k r t
    else p.reachAll k r t

/-- The request of op `no` of an engine at `a` as its performance finds it (R28, R32, R39, R210, R363–R368): the package once it has
come, or none while it may not be performed: no credit sent it, no route carries it, the fabric holds it, or the controller would
not serve it; the command then does nothing yet (DEDUCED, log entry 142). A vat that is not READY holds nothing up (R39). -/
def Pkg.comes (p : Pkg) (k : Nat) (e : Eng) (no a : Nat) : Option Pkg :=
  let r : FabReq := ⟨e, no, a, 2⟩
  if (p.core k).unsent.contains r then none
  else if (p.core k).fab.contains r && !p.routeUp (k / 128) (dieOf a) then none
  else
    let q := if (p.core k).fab.contains r then p.reachAll k r (p.core k).fab else p
    if 0x010000000000 ≤ a || !q.vatReady (dieOf a) then some q
    else
      let mine (y : MemReq) : Bool := y.op == some (k, no) && y.addr == a
      let x := q.pch (pchKey a)
      if x.held.any mine then none
      else match x.q.find? mine with
        | some y => q.serveThis y
        | none => some q

end Sys2Proof.Machine
end

