-- ==== Sys2Proof/Machine/FrontEnd.lean ====
section
/-! DEFINITION. The front end: bundles, dispatch into the engine queues, presentation of an op to its engine, the
instruction cache, branch resolution and NOP entries (R55–R65, R77, R161–R176, R191–R197, R266–R267). -/
namespace Sys2Proof.Machine

/-- The six slots of a bundle as dispatched; `none` for a slot whose PRESENT bit is 0 (R161, R163). -/
structure Slots where
  sc : Option Nat
  ve : Option Nat
  mx : Option Nat
  ld : Option Nat
  st : Option Nat
  sy : Option Nat
  deriving DecidableEq, Repr

def Slots.empty : Slots := ⟨none, none, none, none, none, none⟩

/-- A bundle that presents one slot. -/
def Slots.one (e : Eng) (b : Nat) : Slots :=
  match e with
  | .fe => { Slots.empty with sc := some b }
  | .ve => { Slots.empty with ve := some b }
  | .mx => { Slots.empty with mx := some b }
  | .ld => { Slots.empty with ld := some b }
  | .st => { Slots.empty with st := some b }
  | .sy => { Slots.empty with sy := some b }

/-- The slots of a bundle's 512 bits (R161). -/
def slotsOf (b : Nat) : Slots :=
  let pr (i hi lo : Nat) : Option Nat := if bitOf b i then some (fld b hi lo) else none
  { sc := pr 16 127 64, ve := pr 17 223 128, mx := pr 18 319 224, ld := pr 19 383 320, st := pr 20 447 384,
    sy := pr 21 511 448 }

/-- Does an SY op's gate stand ahead of the op of its bundle (R266)? -/
def gateAhead (b : Nat) : Bool := let o := opcOf b; o == 0xC1 || o == 0xC3 || o == 0xC4

/-- The engine an SY slot serves, if its SERVE field names one and the slot is no NOP. -/
def syServes (b : Nat) : Option Eng := if opcOf b == 0 then none else Eng.ofServe (syOp b).serve

/-- Entries a bundle places in the queue of an engine (R55). -/
def Slots.need (s : Slots) (e : Eng) : Nat :=
  let own := match e with
    | .ve => b2n s.ve.isSome
    | .mx => b2n s.mx.isSome
    | .ld => b2n s.ld.isSome
    | .st => b2n s.st.isSome
    | .sy => b2n s.sy.isSome
    | .fe => 0
  let gate := match s.sy with
    | some b => b2n (syServes b == some e && e != .fe)
    | none => 0
  own + gate

/-- Has every queue room for what the bundle places (R55)? -/
def Core.room (c : Core) (s : Slots) : Bool :=
  [Eng.ve, .mx, .ld, .st].all (fun e => (c.queue e).length + s.need e ≤ 64) && c.qSy.length + s.need .sy ≤ 64

/-- An entry joins the queue of an engine with its gap (R59). -/
def Core.push (c : Core) (e : Eng) (x : Entry) : Core :=
  let gap := min 1023 (c.fe.seq - tget 0 c.lastSeq e.key)
  { c.setQueue e (c.queue e ++ [{ x with gap := gap }]) with lastSeq := tset 0 c.lastSeq e.key c.fe.seq }

/-- The bracket an op dispatched now belongs to (R122). -/
def Pkg.brkNow (p : Pkg) (k : Nat) : Option Nat :=
  if p.flag F.CORE_BRACKET.OPEN k then some (p.core k).fe.brkNo else none

/-- One engine slot dispatched: checked, then an op entry, or a NOP entry for a NOP or a skipped op (R163, R191). -/
def Pkg.placeSlot (p : Pkg) (k : Nat) (e : Eng) (slate idx : Nat) (brk : Option Nat) (chk : Bad) (b : Nat) : Pkg :=
  let x : Entry := ⟨.op, b, slate, idx, 0, (p.core k).s, brk⟩
  match chk with
  | some (code, det) =>
    (p.skipOp k e e.kind b slate idx brk code det).onCore k fun c => c.push e { x with kind := .nop }
  | none => p.onCore k fun c => c.push e { x with kind := if opcOf b == 0 then .nop else .op }

/-- The gate of an SY op placed in the served engine's queue: a NOP for a skipped op (R191, R266). -/
def Pkg.placeGate (p : Pkg) (k : Nat) (e : Eng) (slate idx : Nat) (brk : Option Nat) (id : Nat) (nop : Bool) : Pkg :=
  p.onCore k fun c => c.push e ⟨if nop then .nop else .gate id, 0, slate, idx, 0, [], brk⟩

/-- The dispatch of a bundle's slots at index `idx` (R55–R57, R164, R192, R266): SC, VE, MX, LD, ST, SY in order. -/
def Pkg.dispatchSlots (p : Pkg) (k slate idx : Nat) (s : Slots) : Pkg :=
  let c := p.core k
  let sc := c.s
  let size := p.scratch k
  let brk := p.brkNow k
  let p := p.setCore k { c with fe := { c.fe with ptr := c.fe.ptr + 1, seq := c.fe.seq + 1 } }
  let p := match s.sc with
    | none => p
    | some b =>
      match scCheck (isDirKey k) c.hdr.bundles b idx sc with
      | some (code, det) => p.skipOp k .fe 1 b slate idx brk code det
      | none =>
        if opcOf b == 0 then p
        else p.onCore k fun c => { c with fe := { c.fe with sc := some ⟨.op, b, slate, idx, 0, sc, brk⟩ } }
  let ok := match s.sy with
    | some b => p.syCheck c.hdr.owners b sc
    | none => none
  let id := c.gateNo
  let gate (e : Eng) (ahead : Bool) (p : Pkg) : Pkg :=
    match s.sy with
    | some b =>
      if syServes b == some e && gateAhead b == ahead then p.placeGate k e slate idx brk id ok.isSome else p
    | none => p
  let slot (e : Eng) (b : Option Nat) (chk : Nat → Bad) (p : Pkg) : Pkg :=
    let p := gate e true p
    let p := match b with
      | some b => p.placeSlot k e slate idx brk (chk b) b
      | none => p
    gate e false p
  let p := slot .ve s.ve (fun b => veCheck size b sc) p
  let p := slot .mx s.mx (fun b => p.mxCheck (isDirKey k) size c.hdr.claims b sc) p
  let p := slot .ld s.ld ldCheck p
  let p := slot .st s.st (fun b => p.stCheck k size c.hdr.claims brk.isSome b sc) p
  match s.sy with
  | none => p
  | some b =>
    let p := match ok with
      | some (code, det) => p.skipOp k .sy 6 b slate idx brk code det
      | none => p
    let nop := ok.isSome || opcOf b == 0
    p.onCore k fun c =>
      let gap := min 1023 (c.fe.seq - tget 0 c.lastSeq Eng.sy.key)
      let e : SyEnt := ⟨id, (syServes b).getD .sy, b, slate, idx, gap, sc, brk, nop, none⟩
      let fg := if !nop && syServes b == some .fe && gateAhead b then some id else c.fe.gate
      { c with qSy := c.qSy ++ [e], lastSeq := tset 0 c.lastSeq Eng.sy.key c.fe.seq, gateNo := id + 1,
               fe := { c.fe with gate := fg } }

/-- The front end is free to dispatch. -/
def Core.feFree (c : Core) : Bool := c.fe.hold == .free && c.fe.gate.isNone && c.fe.sc.isNone && c.fe.miss.isNone

/-- An op presented to an engine. -/
inductive Took where
  | no
  | skip (p : Pkg)
  | go (e : Entry) (p : Pkg)

/-- An op reaches issue (R60, R192): it is the head of its engine's queue or, with the queue empty and the front end
free, it is dispatched as a bundle of its own at the front-end pointer and issues; a skip at dispatch issues as a
NOP. -/
def Pkg.take (p : Pkg) (k : Nat) (e : Eng) (bits : Nat) : Took :=
  let c := p.core k
  if c.st != .run || c.heldAt e then .no
  else
    match c.queue e with
    | h :: _ => if h.kind == .op && h.bits == bits then .go h (p.onCore k (·.popQ e)) else .no
    | [] =>
      if !c.feFree then .no
      else
        let q := p.dispatchSlots k 0 c.fe.ptr (Slots.one e bits)
        match (q.core k).queue e with
        | h :: _ => if h.kind == .op then .go h (q.onCore k (·.popQ e)) else .skip (q.onCore k (·.popQ e))
        | [] => .no

/-- An SC op reaches execution: it is the op of the bundle last dispatched, or is dispatched as a bundle of its own. -/
def Pkg.takeSc (p : Pkg) (k : Nat) (bits : Nat) : Took :=
  let c := p.core k
  let clr (q : Pkg) : Pkg := q.onCore k fun c => { c with fe := { c.fe with sc := none } }
  if c.st != .run then .no
  else
    match c.fe.sc with
    | some h => if h.bits == bits then .go h (clr p) else .no
    | none =>
      if !c.feFree then .no
      else
        let q := p.dispatchSlots k 0 c.fe.ptr (Slots.one .fe bits)
        match (q.core k).fe.sc with
        | some h => .go h (clr q)
        | none => .skip q

/-- A stalled op goes back to the head of its queue; its gap has passed. -/
def Pkg.putBack (p : Pkg) (k : Nat) (eng : Eng) (e : Entry) : Pkg :=
  p.onCore k fun c => c.setQueue eng ({ e with gap := 0 } :: c.queue eng)

/-- A skip at the head of the queue (R191, R192). -/
def Pkg.skipHead (p : Pkg) (k : Nat) (eng : Eng) (e : Entry) (code det : Nat) : Pkg :=
  p.skipOp k eng eng.kind e.bits e.slate e.idx e.brk code det

/-- A write of scalar register `r`; s0 ignores writes (R66). -/
def Core.setS (c : Core) (r v : Nat) : Core := if r == 0 then c else { c with s := tset 0 c.s r (BitVec.ofNat 64 v) }

/-! ### Instruction cache (R77, R78) -/

/-- The line of the bundle at index `i`. -/
def Core.lineOf (c : Core) (i : Nat) : Nat := (c.hdr.text + 64 * i) / 512

/-- A bundle's 512 bits from its instruction-cache line. -/
def bundleIn (line : BitVec 4096) (a : Nat) : Nat := fld line.toNat (a % 512 / 64 * 512 + 511) (a % 512 / 64 * 512)

/-- A line enters the instruction cache; a full set loses its least recently used line. -/
def Core.icInsert (c : Core) (ln : Nat) (data : BitVec 4096) : Core :=
  let ic := if thas c.ic ln || c.ic.length < 8 then c.ic
    else
      let same := c.ic.filter fun x => Config.icacheSet x.1 % 64 == Config.icacheSet ln % 64
      if same.length < 8 then c.ic
      else
        let old := same.foldl (fun acc x => match acc with
          | none => some x
          | some y => if x.2.use < y.2.use then some x else some y) none
        match old with
        | some y => tdel c.ic y.1
        | none => c.ic
  { c with ic := tins ic ln ⟨data, c.tick⟩, tick := c.tick + 1 }

/-- BUNDLE_DISPATCH (R55, R161–R176, R195): the front end of a core dispatches the bundle at its pointer. A line that
is absent, or that meets an uncorrectable error (R68), makes it wait for the line. -/
def Pkg.bundleDispatch (p : Pkg) (k : Nat) (err : SramErr) : Pkg :=
  let c := p.core k
  if c.st != .run || !c.feFree then p
  else if c.hdr.bundles ≤ c.fe.ptr then
    (p.event 0x0006 (k / 128) 1 false (p.logIdx k) 0 0).onCore k fun c =>
      { c with fe := { c.fe with hold := .ending 0 } }
  else
    let a := c.hdr.text + 64 * c.fe.ptr
    let miss (p : Pkg) : Pkg := p.onCore k fun c => { c with fe := { c.fe with miss := some (a / 512) } }
    match tfind c.ic (a / 512), err with
    | none, _ => miss p
    | some _, .line _ => (miss (p.ceCount k 1 1)).onCore k fun c => { c with ic := tdel c.ic (a / 512) }
    | some l, err =>
      let p := if err == .corrected then p.ceCount k 1 1 else p
      let c := { c with ic := tins c.ic (a / 512) { l with use := c.tick }, tick := c.tick + 1 }
      let b := bundleIn l.data a
      let slate := fld b 15 0
      let zero := fld b 63 28 != 0 || fld b 23 22 != 0
      let s := slotsOf b
      let alone := match s.sc with
        | some x => aloneOp (opcOf x) && fld b 21 16 != 1
        | none => false
      let empty (p : Pkg) : Pkg := p.setCore k { c with fe := { c.fe with ptr := c.fe.ptr + 1, seq := c.fe.seq + 1 } }
      let inB := p.flag F.CORE_BRACKET.OPEN k
      if fld b 27 24 != 1 || zero then
        (empty p).skipRec k 1 slate 0x0001 (b2n zero * 16 + fld b 27 24) inB (fld b 63 0) (fld b 95 64)
      else if alone then
        (empty p).skipRec k 1 slate 0x0024 (slotDetail .fe (s.sc.getD 0)) inB (s.sc.getD 0) (c.fe.ptr % 2 ^ 24 * 2 ^ 32)
      else if !c.room s then p
      else (p.setCore k c).dispatchSlots k slate c.fe.ptr s

/-- Does fetch stop behind what the front end dispatched: a branch not yet resolved (R58, R173), or the end (R184)? -/
def Core.fetchStops (c : Core) : Bool :=
  (match c.fe.hold with
    | .branch _ => true
    | .ending _ => true
    | _ => false) ||
  (match c.fe.sc with
    | some e => let o := opcOf e.bits; o == 0x20 || o == 0x21 || o == 0x22 || o == 0x33
    | none => false)

/-- ICACHE_LINE_ARRIVE (R68, R77, R361): the line the front end waits for, or (`ahead`) the next sequential line,
arrives from memory. A bad delivery of an awaited line halts the core with HALT_CAUSE 0x5; one fetched ahead is not
kept. -/
def Pkg.icacheArrive (p : Pkg) (m : Memory) (k : Nat) (ahead : Bool) : Pkg :=
  let c := p.core k
  let next := c.lineOf c.fe.ptr + 1
  let want := if ahead then
      (if c.fe.miss.isNone && !c.fetchStops && !thas c.ic next && next * 512 < c.hdr.text + 64 * c.hdr.bundles
        then some next else none)
    else c.fe.miss
  match want with
  | none => p
  | some ln =>
    if c.st != .run then p
    else
      match p.direct 7 false false (ln * 512) 512 with
      | none => p
      | some p =>
      let got := m.fetch p 7 (ln * 512) 512
      let p := (p.noteRead 7 (ln * 512) 512).badDelivery m 7 (ln * 512) 512 7
      if got.bad then (if ahead then p else p.haltCore k 5)
      else p.onCore k fun c =>
        let c := c.icInsert ln (BitVec.ofNat 4096 (ofLe got.bytes))
        if ahead then c else { c with fe := { c.fe with miss := none } }

/-- BRANCH_RESOLVE (R58, R173): fetch goes on at the bundle the branch chose. -/
def Pkg.branchResolve (p : Pkg) (k : Nat) : Pkg :=
  let c := p.core k
  match c.fe.hold with
  | .branch t => if c.st == .run then p.setCore k { c with fe := { c.fe with ptr := t, hold := .free } } else p
  | _ => p

/-- NOP (R163, R191): the NOP entry at the head of an engine's queue issues; a NOP slot of the front end, or one
presented to an empty queue, is a bundle of its own. -/
def Pkg.nop (p : Pkg) (k : Nat) (e : Eng) (bits : Nat) : Pkg :=
  let c := p.core k
  let present : Pkg :=
    if !c.feFree then p
    else
      let q := p.dispatchSlots k 0 c.fe.ptr (Slots.one e bits)
      if e == .sy then q.onCore k fun c => c.endSy (c.gateNo - 1) else q.onCore k (·.popQ e)
  if c.st != .run || c.heldAt e then p
  else
    match e with
    | .fe => present
    | .sy =>
      match c.qSy.find? (·.nop) with
      | some x => p.onCore k (·.endSy x.id)
      | none => if c.qSy.isEmpty then present else p
    | e =>
      match c.queue e with
      | h :: _ => if h.kind == .nop then p.onCore k (·.popQ e) else p
      | [] => present

end Sys2Proof.Machine
end

