-- ==== Sys2Proof/Machine/Vector.lean ====
section
/-! DEFINITION. The ops of the vector engine (R235–R259). -/
namespace Sys2Proof.Machine

/-- Is lane `l` active (R236)? -/
def Core.active (c : Core) (x : VeOp) (l : Nat) : Bool := !x.pen || bitOf (c.preg x.pg) l

/-- Result latency of a VE op in cc (R242). -/
def veLatency (opc : Nat) : Nat :=
  match opc with
  | 0x63 => 5
  | 0x80 => 6 | 0xA0 => 6 | 0xA1 => 6
  | 0x85 => 8 | 0x86 => 8
  | 0x84 => 10
  | 0x66 => 12 | 0x67 => 12 | 0x68 => 12 | 0x69 => 12 | 0x87 => 12 | 0xA2 => 12
  | 0x92 => 24
  | 0x93 => 30
  | 0x91 => 40
  | 0x7E => 0
  | _ => 4

/-- Occupancy of a VE op in cc (R242). -/
def veOccupancy (opc : Nat) : Nat :=
  match opc with
  | 0xA2 => 8 | 0x92 => 4 | 0x93 => 2 | 0x91 => 2 | _ => 1

/-- The vector registers that a VE op writes. -/
def veVregs (opc : Nat) (x : VeOp) : List Nat :=
  match opc with
  | 0x78 => [] | 0x79 => [] | 0x7A => [] | 0x90 => [] | 0x7E => [] | 0xA1 => []
  | 0x80 => if x.blk then [x.vd, x.vc] else [x.vd]
  | 0x91 => [x.vd, x.vc] | 0x92 => [x.vd, x.vc]
  | _ => [x.vd]

/-- The predicate registers that a VE op writes. -/
def vePregs (opc : Nat) (x : VeOp) : List Nat :=
  match opc with
  | 0x78 => [x.pd] | 0x79 => [x.pd] | 0x7A => [x.pd] | 0x90 => [x.pd] | _ => []

/-- Does a VE op keep the old value of an inactive lane (R236)? The others write every lane. -/
def veKeeps (opc : Nat) (x : VeOp) : Bool :=
  x.pen && !x.zm && !(opc == 0x77 || opc == 0x80 || (0x84 ≤ opc && opc ≤ 0x87) || (0x91 ≤ opc && opc ≤ 0x93))

/-- The counts of a VE op, and what it records, land when its result is written (R120, R288). -/
def Pkg.landVe (p : Pkg) (k opc : Nat) (brk : Option Nat) (cnt : Cnt) (rcd : Option (Nat × Nat × Nat) := none) : Pkg :=
  p.landAt k .ve ((p.core k).ccOf .ve + veLatency opc) brk cnt rcd

/-- An op that issued on `q` and computed `r`: its register results are not written yet, they are on their way with
the op's result latency (R238, R242). -/
def Pkg.veDefer (q r : Pkg) (k opc : Nat) (x : VeOp) : Pkg :=
  let c := q.core k
  let n := r.core k
  let due := c.ccOf .ve + veLatency opc
  let keep := veKeeps opc x
  let lanes := BitVec.ofNat 64 (if keep then c.preg x.pg else 2 ^ 64 - 1)
  let late := (veVregs opc x).foldl (fun l i =>
    lateInsert ⟨.ve, due, .vreg i lanes (BitVec.ofNat 2048 (n.vreg i)) (r.vTaint k i) keep⟩ l) n.late
  let late := (vePregs opc x).foldl (fun l i =>
    lateInsert ⟨.ve, due, .preg i lanes (BitVec.ofNat 64 (n.preg i)) (r.pTaint k i) keep⟩ l) late
  let p := r.setCore k { n with v := c.v, p := c.p, late := late,
                                ccFree := tset 0 n.ccFree Eng.ve.key (c.ccOf .ve + veOccupancy opc) }
  (p.setReg .CORE_VE_TAINT k (q.reg .CORE_VE_TAINT k)).setF F.CORE_VE_STAT.PTAINT k (q.getF F.CORE_VE_STAT.PTAINT k)

/-- A VE op issues `wait` cc after the first cc that R60 allows (R69, R192, R242): an uncorrectable error in a store it
reads halts the core before issue; a head check skips it; else it computes with `f`, and its results are on their
way. -/
def Pkg.veIssueChk (p : Pkg) (m : Memory) (k opc bits : Nat) (err : SramErr) (wait : Nat) (head : Entry → Pkg → Bad)
    (f : Entry → Pkg → Pkg) : Pkg :=
  match p.take k .ve (withOpc bits opc) with
  | .no => p
  | .skip q => q
  | .go e q =>
    let q := q.issueAt k .ve wait
    match err with
    | .store s => (q.putBack k .ve e).coreUe m k 2 e.slate s.toNat
    | err =>
      let q := if err == .corrected then q.ceCount k 2 1 else q
      match head e q with
      | some (code, det) => q.skipHead k .ve e code det
      | none => q.veDefer (f e q) k opc (veOp e.bits)

def Pkg.veIssue (p : Pkg) (m : Memory) (k opc bits : Nat) (err : SramErr) (wait : Nat) (f : Entry → Pkg → Pkg) : Pkg :=
  p.veIssueChk m k opc bits err wait (fun _ _ => none) f

/-- Operand vb of lane `l` (R237). -/
def vbLane (x : VeOp) (vb : List Nat) (l : Nat) : Nat := vb.getD (if x.bb then x.bl else l) 0

/-- Does the governing predicate taint the result (R251)? -/
def Pkg.pgTaint (p : Pkg) (k : Nat) (x : VeOp) : Bool := x.pen && p.pTaint k x.pg

/-- Lanes written to vd under predicate and ZM (R236, R251); a write that keeps old lanes joins the taint that the register has when
it lands. -/
def Pkg.veWrite (p : Pkg) (k : Nat) (x : VeOp) (new : List Nat) (taint : Bool) : Pkg :=
  let c := p.core k
  let old := lanesOf (c.vreg x.vd)
  let res := (List.range 64).map fun l =>
    if c.active x l then new.getD l 0 else if x.zm then 0 else old.getD l 0
  let t := taint || p.pgTaint k x
  (p.setCore k (c.setV x.vd (ofLanes res))).setVTaint k x.vd t

/-- A whole register written (reductions, VE.OSM, VE.TOPK, VE.KLD, VE.SEL, VE.CVT). -/
def Pkg.veWriteAll (p : Pkg) (k n : Nat) (new : List Nat) (taint : Bool) : Pkg :=
  (p.onCore k fun c => c.setV n (ofLanes new)).setVTaint k n taint

/-- Bits written to p(PD) under predicate and ZM. -/
def Pkg.veWriteP (p : Pkg) (k : Nat) (x : VeOp) (bit : Nat → Bool) (taint : Bool) : Pkg :=
  let c := p.core k
  let old := c.preg x.pd
  let w := (List.range 64).foldl (fun acc l =>
    let b := if c.active x l then bit l else if x.zm then false else bitOf old l
    acc + b2n b * 2 ^ l) 0
  let t := taint || p.pgTaint k x
  (p.setCore k (c.setP x.pd w)).setPTaint k x.pd t

/-! ### Lane-wise ops -/

/-- One FP32 result (R243): the exact value `v` rounded once; counted when every operand was finite. -/
def fpLane (ops : List FV) (v : FV) : Nat × Cnt :=
  let e := encFP 0 v
  if ops.all (·.isFin) then (e.bits, Cnt.one e.ovf 3 (!v.isFin) false false) else (e.bits, Cnt.zero)

/-- A lane-wise op of `n` vector operands. -/
def Pkg.veLanes (p : Pkg) (m : Memory) (k opc bits : Nat) (err : SramErr) (wt n : Nat)
    (f : Nat → Nat → Nat → Nat × Cnt) : Pkg :=
  p.veIssue m k opc bits err wt fun e p =>
    let x := veOp e.bits
    let c := p.core k
    let va := lanesOf (c.vreg x.va)
    let vb := lanesOf (c.vreg x.vb)
    let vc := lanesOf (c.vreg x.vc)
    let rs := (List.range 64).map fun l =>
      if c.active x l then f (va.getD l 0) (vbLane x vb l) (vc.getD l 0) else (0, Cnt.zero)
    let t := p.vTaint k x.va || (2 ≤ n && p.vTaint k x.vb) || (3 ≤ n && p.vTaint k x.vc)
    (p.veWrite k x (rs.map (·.1)) t).landVe k opc e.brk (Cnt.sum (rs.map (·.2)))

/-- An FP32 op of two operands. -/
def Pkg.veFp2 (p : Pkg) (m : Memory) (k opc bits : Nat) (err : SramErr) (wt : Nat) (f : FV → FV → FV) : Pkg :=
  p.veLanes m k opc bits err wt 2 fun a b _ =>
    let x := dec32 a
    let y := dec32 b
    fpLane [x, y] (f x y)

/-- An FP32 special function of one operand (R244). -/
def Pkg.veFp1 (p : Pkg) (m : Memory) (k opc bits : Nat) (err : SramErr) (wt : Nat) (f : FV → FV) : Pkg :=
  p.veLanes m k opc bits err wt 1 fun a _ _ => let x := dec32 a; fpLane [x] (f x)

/-- An integer or bitwise op (R245). -/
def Pkg.veInt (p : Pkg) (m : Memory) (k opc bits : Nat) (err : SramErr) (wt : Nat) (f : Nat → Nat → Nat) : Pkg :=
  p.veLanes m k opc bits err wt 2 fun a b _ => (f a b % 2 ^ 32, Cnt.zero)

def Pkg.veAdd (p : Pkg) (m : Memory) (k b : Nat) (r : SramErr) (wt : Nat) : Pkg := p.veFp2 m k 0x60 b r wt FV.add
def Pkg.veSub (p : Pkg) (m : Memory) (k b : Nat) (r : SramErr) (wt : Nat) : Pkg := p.veFp2 m k 0x61 b r wt FV.sub
def Pkg.veMul (p : Pkg) (m : Memory) (k b : Nat) (r : SramErr) (wt : Nat) : Pkg := p.veFp2 m k 0x62 b r wt FV.mul
def Pkg.veMax (p : Pkg) (m : Memory) (k b : Nat) (r : SramErr) (wt : Nat) : Pkg := p.veFp2 m k 0x64 b r wt FV.max
def Pkg.veMin (p : Pkg) (m : Memory) (k b : Nat) (r : SramErr) (wt : Nat) : Pkg := p.veFp2 m k 0x65 b r wt FV.min

def Pkg.veFma (p : Pkg) (m : Memory) (k b : Nat) (r : SramErr) (wt : Nat) : Pkg :=
  p.veLanes m k 0x63 b r wt 3 fun a b c =>
    let x := dec32 a
    let y := dec32 b
    let z := dec32 c
    fpLane [x, y, z] ((x.mul y).add z)

def Pkg.veRcp (p : Pkg) (m : Memory) (k b : Nat) (r : SramErr) (wt : Nat) : Pkg := p.veFp1 m k 0x66 b r wt recipV
def Pkg.veRsqrt (p : Pkg) (m : Memory) (k b : Nat) (r : SramErr) (wt : Nat) : Pkg := p.veFp1 m k 0x67 b r wt rsqrtV
def Pkg.veExp2 (p : Pkg) (m : Memory) (k b : Nat) (r : SramErr) (wt : Nat) : Pkg := p.veFp1 m k 0x68 b r wt exp2V
def Pkg.veLog2 (p : Pkg) (m : Memory) (k b : Nat) (r : SramErr) (wt : Nat) : Pkg := p.veFp1 m k 0x69 b r wt log2V

def Pkg.veIadd (p : Pkg) (m : Memory) (k b : Nat) (r : SramErr) (wt : Nat) : Pkg := p.veInt m k 0x70 b r wt fun x y => x + y
def Pkg.veIsub (p : Pkg) (m : Memory) (k b : Nat) (r : SramErr) (wt : Nat) : Pkg := p.veInt m k 0x71 b r wt fun x y => x + (2 ^ 32 - y)
def Pkg.veImul (p : Pkg) (m : Memory) (k b : Nat) (r : SramErr) (wt : Nat) : Pkg := p.veInt m k 0x72 b r wt fun x y => x * y
def Pkg.veAnd (p : Pkg) (m : Memory) (k b : Nat) (r : SramErr) (wt : Nat) : Pkg := p.veInt m k 0x73 b r wt fun x y => x &&& y
def Pkg.veOr (p : Pkg) (m : Memory) (k b : Nat) (r : SramErr) (wt : Nat) : Pkg := p.veInt m k 0x74 b r wt fun x y => x ||| y
def Pkg.veXor (p : Pkg) (m : Memory) (k b : Nat) (r : SramErr) (wt : Nat) : Pkg := p.veInt m k 0x75 b r wt fun x y => x ^^^ y

/-- VE.SEL: the selector is p(PG); every lane is written (R236, R251). -/
def Pkg.veSel (p : Pkg) (m : Memory) (k b : Nat) (r : SramErr) (wt : Nat) : Pkg :=
  p.veIssue m k 0x77 b r wt fun e p =>
    let x := veOp e.bits
    let c := p.core k
    let va := lanesOf (c.vreg x.va)
    let vb := lanesOf (c.vreg x.vb)
    let res := (List.range 64).map fun l => if bitOf (c.preg x.pg) l then va.getD l 0 else vbLane x vb l
    p.veWriteAll k x.vd res (p.vTaint k x.va || p.vTaint k x.vb || p.pTaint k x.pg)

/-! ### Compares and predicates (R241) -/

/-- An FP32 condition. -/
def fcmp (sub : Nat) (a b : FV) : Bool :=
  match sub with
  | 0 => a.eqv b
  | 1 => !(a.eqv b)
  | 2 => a.lt b
  | 3 => a.lt b || a.eqv b
  | 4 => b.lt a
  | 5 => b.lt a || a.eqv b
  | _ => a.isNaN || b.isNaN

/-- An INT32 condition. -/
def icmp (sub a b : Nat) : Bool :=
  match sub with
  | 0 => a == b
  | 1 => a != b
  | 2 => toSigned 32 a < toSigned 32 b
  | 3 => toSigned 32 a ≤ toSigned 32 b
  | 4 => toSigned 32 b < toSigned 32 a
  | 5 => toSigned 32 b ≤ toSigned 32 a
  | 6 => a < b
  | _ => b ≤ a

/-- A predicate function. -/
def plog (sub : Nat) (a b : Bool) : Bool :=
  match sub with
  | 0 => a && b
  | 1 => a || b
  | 2 => a != b
  | 3 => a && !b
  | 4 => !a
  | 5 => true
  | _ => false

/-- A compare into p(PD). -/
def Pkg.veCmp (p : Pkg) (m : Memory) (k opc bits : Nat) (r : SramErr) (wt : Nat) (f : Nat → Nat → Nat → Bool) : Pkg :=
  p.veIssue m k opc bits r wt fun e p =>
    let x := veOp e.bits
    let c := p.core k
    let va := lanesOf (c.vreg x.va)
    let vb := lanesOf (c.vreg x.vb)
    p.veWriteP k x (fun l => f x.sub (va.getD l 0) (vbLane x vb l)) (p.vTaint k x.va || p.vTaint k x.vb)

def Pkg.veFcmp (p : Pkg) (m : Memory) (k b : Nat) (r : SramErr) (wt : Nat) : Pkg :=
  p.veCmp m k 0x78 b r wt fun s x y => fcmp s (dec32 x) (dec32 y)

def Pkg.veIcmp (p : Pkg) (m : Memory) (k b : Nat) (r : SramErr) (wt : Nat) : Pkg := p.veCmp m k 0x79 b r wt icmp

/-- VE.PLOG (R241). For every SUB it takes the taint of p(VA) and p(VB), also where the result needs neither or one: DESIGN CHOICE
(log entry 150). -/
def Pkg.vePlog (p : Pkg) (m : Memory) (k b : Nat) (r : SramErr) (wt : Nat) : Pkg :=
  p.veIssue m k 0x7A b r wt fun e p =>
    let x := veOp e.bits
    let c := p.core k
    let pa := x.va % 8
    let pb := x.vb % 8
    p.veWriteP k x (fun l => plog x.sub (bitOf (c.preg pa) l) (bitOf (c.preg pb) l)) (p.pTaint k pa || p.pTaint k pb)

/-! ### Lane sources and the scalar side (R240, R250, R253) -/

/-- Low 32 bits of a scalar operand. -/
def sc32 (e : Entry) (r : Nat) : Nat := scal e.sc r % 2 ^ 32

def Pkg.veIota (p : Pkg) (m : Memory) (k b : Nat) (r : SramErr) (wt : Nat) : Pkg :=
  p.veIssue m k 0x7C b r wt fun e p =>
    let x := veOp e.bits
    p.veWrite k x ((List.range 64).map fun l => (sc32 e x.sa + l) % 2 ^ 32) false

def Pkg.veBcast (p : Pkg) (m : Memory) (k b : Nat) (r : SramErr) (wt : Nat) : Pkg :=
  p.veIssue m k 0x7D b r wt fun e p =>
    let x := veOp e.bits
    p.veWrite k x (List.replicate 64 (sc32 e x.sa)) false

/-- VE.XS: a tainted register gives the canonical NaN, counted (R253). -/
def Pkg.veXs (p : Pkg) (m : Memory) (k b : Nat) (r : SramErr) (wt : Nat) : Pkg :=
  p.veIssue m k 0x7E b r wt fun e p =>
    let x := veOp e.bits
    if p.vTaint k x.va then
      let p := p.onCore k fun c => c.setS x.sa 0x7FC00000
      (p.addF F.CORE_VE_STAT.XS_TAINT k 1).land k e.brk (Cnt.one false 0 true false false)
    else p.onCore k fun c => c.setS x.sa ((lanesOf (c.vreg x.va)).getD x.bl 0)

/-! ### Conversion (R248) -/

/-- The decoded source elements of VE.CVT. -/
def cvtSource (x : VeOp) (va vb : Nat) : List FV :=
  (List.range 64).map fun i =>
    decScaled x.fmt2 x.blk2 (vb >>> (8 * (i / blkLen x.bsz2)) % 256) (elemAt x.fmt2 va i)

/-- Counts of converted elements into format `f`; an integer target counts no underflow (R118). -/
def encCnt (f : Nat) (es : List Enc) : Cnt :=
  Cnt.sum (es.map fun e => Cnt.one e.ovf (ladderRank f) e.nf (e.unf && !fmtIsInt f) false)

/-- Target elements of a row of values: packed elements, packed scales, counts, excess (R107–R117, R290). -/
structure RowEnc where
  data : Nat
  scales : Nat
  cnt : Cnt
  excess : Nat
  deriving DecidableEq, Repr

/-- Conversion of a row of values into a target format. -/
def encRow (f : Nat) (blk bsz : Bool) (ceil : Option Int) (vs : List FV) : RowEnc :=
  if blk then
    let bs := (chunksOf (blkLen bsz) vs.length vs).map (encBlock f ceil)
    let es := (bs.map (·.elems)).flatten
    ⟨packRow f (es.map (·.bits)), packRow fmtINT8 (bs.map (·.code)), encCnt f es, maxOf (bs.map (·.excess))⟩
  else
    let es := vs.map (encF f)
    ⟨packRow f (es.map (·.bits)), 0, encCnt f es, 0⟩

def Pkg.veCvt (p : Pkg) (m : Memory) (k b : Nat) (r : SramErr) (wt : Nat) : Pkg :=
  p.veIssue m k 0x80 b r wt fun e p =>
    let x := veOp e.bits
    let c := p.core k
    let sa := sc32 e x.sa
    let tid := sa % 256
    let vs := cvtSource x (c.vreg x.va) (c.vreg x.vb)
    let ceil := if bitOf sa 8 then (c.ent tid).ceiling else none
    let o := encRow x.fmt x.blk x.bsz ceil vs
    let t := p.vTaint k x.va || (x.blk2 && p.vTaint k x.vb)
    let p := p.setCore k (c.setV x.vd (BitVec.ofNat 2048 o.data))
    let p := p.setVTaint k x.vd t
    let p := if x.blk then
        (p.onCore k fun c => c.setV x.vc (BitVec.ofNat 2048 o.scales)).setVTaint k x.vc t else p
    p.landVe k 0x80 e.brk o.cnt (if bitOf sa 8 then some (tid, magBits (maxMag vs), o.excess) else none)

/-! ### Reductions (R246) -/

/-- A partial result with the overflow it met. -/
abbrev Part := FV × Bool

/-- FP32 addition of partial results, saturating. -/
def partAdd (a b : Part) : Part :=
  let v := a.1.add b.1
  let e := encFP 0 v
  (dec32 e.bits, a.2 || b.2 || (a.1.isFin && b.1.isFin && e.ovf))

/-- The fixed pairwise tree over 64 partial results. -/
def treeParts (op : Part → Part → Part) : Nat → List Part → Part
  | 0, l => l.headD (.nan, false)
  | n + 1, l =>
    treeParts op n ((chunksOf 2 l.length l).map fun
      | [a, b] => op a b
      | a :: _ => a
      | [] => (.nan, false))

/-- A reduction of va with an identity for inactive lanes. -/
def Pkg.veReduce (p : Pkg) (m : Memory) (k opc bits : Nat) (r : SramErr) (wt : Nat) (ident : FV) (lane : FV → Part)
    (op : Part → Part → Part) : Pkg :=
  p.veIssue m k opc bits r wt fun e p =>
    let x := veOp e.bits
    let c := p.core k
    let va := lanesOf (c.vreg x.va)
    let xs := (List.range 64).map fun l => if c.active x l then lane (dec32 (va.getD l 0)) else (ident, false)
    let y := treeParts op 6 xs
    let w := (encFP 0 y.1).bits
    (p.veWriteAll k x.vd (List.replicate 64 w) (p.vTaint k x.va || p.pgTaint k x)).landVe k opc e.brk
      (Cnt.one y.2 3 false false false)

def Pkg.veRsum (p : Pkg) (m : Memory) (k b : Nat) (r : SramErr) (wt : Nat) : Pkg :=
  p.veReduce m k 0x84 b r wt (.fin true 0 0) (fun v => (v, false)) partAdd

def Pkg.veRmax (p : Pkg) (m : Memory) (k b : Nat) (r : SramErr) (wt : Nat) : Pkg :=
  p.veReduce m k 0x85 b r wt (.inf true) (fun v => (v, false)) fun a b => (a.1.max b.1, false)

def Pkg.veRmin (p : Pkg) (m : Memory) (k b : Nat) (r : SramErr) (wt : Nat) : Pkg :=
  p.veReduce m k 0x86 b r wt (.inf false) (fun v => (v, false)) fun a b => (a.1.min b.1, false)

def Pkg.veRssq (p : Pkg) (m : Memory) (k b : Nat) (r : SramErr) (wt : Nat) : Pkg :=
  p.veReduce m k 0x87 b r wt (.fin true 0 0)
    (fun v => let e := encFP 0 (v.mul v); (dec32 e.bits, v.isFin && e.ovf)) partAdd

/-! ### Attention and distillation (R256–R259) -/

def Pkg.veCmask (p : Pkg) (m : Memory) (k b : Nat) (r : SramErr) (wt : Nat) : Pkg :=
  p.veIssue m k 0x90 b r wt fun e p =>
    let x := veOp e.bits
    let sa := sc32 e x.sa
    let sb := sc32 e x.sb
    let w := sc32 e x.sc
    p.veWriteP k x (fun l => let j := sb + l; j ≤ sa && (w == 0 || sa - j < w) && j ≤ 8388607) false

/-- A value with what its computation has met: overflow, non-finite result from finite operands. -/
structure Trk where
  v : FV
  ovf : Bool
  nf : Bool
  deriving DecidableEq, Repr

def Trk.of (v : FV) : Trk := ⟨v, false, false⟩

/-- One rounded operation under R243 and R244. -/
def Trk.op (ops : List Trk) (v : FV) : Trk :=
  let e := encFP 0 v
  let fin := ops.all (·.v.isFin)
  ⟨dec32 e.bits, ops.any (·.ovf) || (fin && e.ovf), ops.any (·.nf) || (fin && !v.isFin)⟩

def Trk.cnt (t : Trk) : Cnt := Cnt.one t.ovf 3 t.nf false false

def Trk.bits (t : Trk) : Nat := (encFP 0 t.v).bits

/-- EXP2((a − b) × T). -/
def expStep (a b t : FV) : Trk :=
  let d := Trk.op [Trk.of a, Trk.of b] (a.sub b)
  let y := Trk.op [d, Trk.of t] (d.v.mul t)
  Trk.op [y] (exp2V y.v)

/-- VE.OSM (R257). -/
def Pkg.veOsm (p : Pkg) (m : Memory) (k b : Nat) (r : SramErr) (wt : Nat) : Pkg :=
  p.veIssue m k 0x91 b r wt fun e p =>
    let x := veOp e.bits
    let c := p.core k
    let s := (lanesOf (c.vreg x.va)).map dec32
    let st := lanesOf (c.vreg x.vc)
    let t := dec32 (sc32 e x.sa)
    let m0 := if x.init then FV.inf true else dec32 (st.getD 0 0)
    let l0 := if x.init then FV.fin false 0 0 else dec32 (st.getD 1 0)
    let act := (List.range 64).filter (c.active x ·)
    let m1 := act.foldl (fun acc l => acc.max (s.getD l .nan)) m0
    let taint := p.vTaint k x.va || p.pgTaint k x || (!x.init && p.vTaint k x.vc)
    let wr (p : Pkg) (ps : List Nat) (mm l c : Nat) : Pkg :=
      (p.veWriteAll k x.vd ps taint).veWriteAll k x.vc ([mm, l, c] ++ List.replicate 61 0) taint
    if m1 == .inf true then
      wr p (List.replicate 64 0) (encFP 0 m0).bits (encFP 0 l0).bits 0x3F800000
    else
      let cc := expStep m0 m1 t
      let ps := (List.range 64).map fun l =>
        if c.active x l then expStep (s.getD l .nan) m1 t else Trk.of (.fin false 0 0)
      let sum := treeParts partAdd 6 (ps.map fun q => (q.v, false))
      let l1 := Trk.op [Trk.of l0, Trk.of cc.v, ⟨sum.1, sum.2, false⟩] ((l0.mul cc.v).add sum.1)
      (wr p (ps.map (·.bits)) (encFP 0 m1).bits l1.bits cc.bits).landVe k 0x91 e.brk
        (Cnt.sum (cc.cnt :: l1.cnt :: ps.map (·.cnt)))

/-- The order of TOPK values: descending by value, −0 below +0, lower index first (R258). -/
def topKey (v : Nat) : Nat := if v < 2 ^ 31 then v + 2 ^ 31 else 2 ^ 32 - 1 - v

def topBefore (a b : Nat × Nat) : Bool := topKey b.1 < topKey a.1 || (topKey a.1 == topKey b.1 && a.2 < b.2)

/-- Insertion into an ordered list. -/
def topInsert (x : Nat × Nat) : List (Nat × Nat) → List (Nat × Nat)
  | [] => [x]
  | y :: t => if topBefore x y then x :: y :: t else y :: topInsert x t

/-- VE.TOPK (R258). A running list that holds a NaN has no stated order: the entries of its merge are free values. -/
def Pkg.veTopk (p : Pkg) (m : Memory) (k b : Nat) (r : SramErr) (wt : Nat) : Pkg :=
  p.veIssue m k 0x92 b r wt fun e p =>
    let x := veOp e.bits
    let c := p.core k
    let n := x.bl + 1
    let va := lanesOf (c.vreg x.va)
    let base := sc32 e x.sa
    let none_ : Nat × Nat := (0xFF800000, 0xFFFFFFFF)
    let old := if x.init then List.replicate n none_
      else ((lanesOf (c.vreg x.vd)).take n).zip ((lanesOf (c.vreg x.vc)).take n)
    let act := (List.range 64).filter (c.active x ·)
    let nan (l : Nat) : Bool := (dec32 (va.getD l 0)).isNaN
    let cands := (act.filter fun l => !nan l).map fun l => (va.getD l 0, base + l)
    let taint := p.vTaint k x.va || p.pgTaint k x || (!x.init && (p.vTaint k x.vd || p.vTaint k x.vc))
    let cnt : Cnt := { Cnt.zero with nf := (act.filter nan).length }
    let top := ((cands ++ old).foldl (fun acc y => topInsert y acc) []).take n
    let top := top ++ List.replicate (64 - top.length) none_
    let p := if old.any fun y => (dec32 y.1).isNaN then
        let (a, p) := p.fresh 2048
        let (i, p) := p.fresh 2048
        (p.veWriteAll k x.vd ((lanesOf a).take n ++ List.replicate (64 - n) none_.1) taint).veWriteAll k x.vc
        ((lanesOf i).take n ++ List.replicate (64 - n) none_.2) taint
      else (p.veWriteAll k x.vd (top.map (·.1)) taint).veWriteAll k x.vc (top.map (·.2)) taint
    p.landVe k 0x92 e.brk cnt

/-- The term of one lane of VE.KLD (R259). -/
def kldTerm (a b : FV) : Trk :=
  if a == .inf true then Trk.of (.fin false 0 0)
  else
    let x := Trk.op [Trk.of a] (exp2V a)
    let d := Trk.op [Trk.of a, Trk.of b] (a.sub b)
    let y := Trk.op [x, d] (x.v.mul d.v)
    if a.isFin && b == .inf true then { y with v := .inf false, nf := true } else y

/-- VE.KLD (R259). Its counters take each lane's term as an element, and the tree sum with its accumulation as one more: DESIGN CHOICE
(log entry 150). -/
def Pkg.veKld (p : Pkg) (m : Memory) (k b : Nat) (r : SramErr) (wt : Nat) : Pkg :=
  p.veIssue m k 0x93 b r wt fun e p =>
    let x := veOp e.bits
    let c := p.core k
    let va := lanesOf (c.vreg x.va)
    let vb := lanesOf (c.vreg x.vb)
    let ts := (List.range 64).map fun l =>
      if c.active x l then kldTerm (dec32 (va.getD l 0)) (dec32 (vbLane x vb l)) else Trk.of (.fin true 0 0)
    let sum := treeParts partAdd 6 (ts.map fun q => (q.v, false))
    let old := if x.init then FV.fin true 0 0 else dec32 ((lanesOf (c.vreg x.vd)).getD 0 0)
    let y := Trk.op [Trk.of old, ⟨sum.1, sum.2, false⟩] (old.add sum.1)
    let taint := p.vTaint k x.va || p.vTaint k x.vb || p.pgTaint k x || (!x.init && p.vTaint k x.vd)
    (p.veWriteAll k x.vd (List.replicate 64 y.bits) taint).landVe k 0x93 e.brk (Cnt.sum (y.cnt :: ts.map (·.cnt)))

/-! ### Scratch (R249, R252) -/

def Pkg.veLds (p : Pkg) (m : Memory) (k b : Nat) (r : SramErr) (wt : Nat) : Pkg :=
  p.veIssue m k 0xA0 b r wt fun e p =>
    let x := veOp e.bits
    let c := p.core k
    let a := sc32 e x.sa
    let used := (List.range 64).filter (c.active x ·)
    p.veWrite k x (lanesOf (ofLe (c.scrRead a 256))) (c.scrTainted (used.map fun l => ⟨a + 4 * l, 4⟩))

def Pkg.veSts (p : Pkg) (m : Memory) (k b : Nat) (r : SramErr) (wt : Nat) : Pkg :=
  p.veIssue m k 0xA1 b r wt fun e p =>
    let x := veOp e.bits
    let a := sc32 e x.sa
    let t := p.vTaint k x.va
    p.onCore k fun c => c.defer .ve (c.ccOf .ve + veLatency 0xA1) (.scr [(a, 256)] (leBytes 256 (c.vreg x.va)) t)

def Pkg.veGath (p : Pkg) (m : Memory) (k b : Nat) (r : SramErr) (wt : Nat) : Pkg :=
  let addr (e : Entry) (va : List Nat) (l : Nat) : Nat := sc32 e (veOp e.bits).sa + 4 * va.getD l 0
  let used (e : Entry) (c : Core) : List Nat := (List.range 64).filter (c.active (veOp e.bits) ·)
  p.veIssueChk m k 0xA2 b r wt
    (fun e p =>
      let c := p.core k
      let va := lanesOf (c.vreg (veOp e.bits).va)
      ((used e c).find? fun l => p.scratch k < addr e va l + 4).map fun l => (0x1810, addr e va l / 512))
    fun e p =>
      let x := veOp e.bits
      let c := p.core k
      let va := lanesOf (c.vreg x.va)
      let new := (List.range 64).map fun l => if c.active x l then ofLe (c.scrRead (addr e va l) 4) else 0
      p.veWrite k x new (p.vTaint k x.va || c.scrTainted ((used e c).map fun l => ⟨addr e va l, 4⟩))

end Sys2Proof.Machine
end

