-- ==== Sys2Proof/Machine/Matrix.lean ====
section
/-! DEFINITION. The matrix engine: weight loads, products, chunk sums, MX.OUT, checks and room tone (R124–R159), and the
fill partition's reads (R74, R76). -/
namespace Sys2Proof.Machine

/-! ### Reads of the fill partition (R74, R76, R144) -/

/-- The fill lines that runs touch. -/
def linesOf (rs : List Run) : List Nat :=
  dedup ((rs.map fun r => (unitsOf 512 r.addr r.len).map (· / 512)).flatten)

/-- The absent lines among those. -/
def Core.absent (c : Core) (ls : List Nat) : List Nat := ls.filter fun l => !thas c.fill l

/-- A read that finds lines absent stalls its engine until they are refetched; each miss is counted once (R76). A line that an
uncorrectable error made absent counts as a miss too (DESIGN CHOICE, log entry 116: R68 names CE_COUNT only). -/
def Pkg.miss (p : Pkg) (k : Nat) (ls : List Nat) : Pkg :=
  let new := ls.filter fun l => !(p.core k).refetch.contains l
  (p.addF F.CORE_TC_STAT.MISSES k new.length).onCore k fun c => { c with refetch := c.refetch ++ new }

/-- Bytes of a run in the fill partition. -/
def Core.fillRead (c : Core) (r : Run) : List Byte :=
  ((unitsOf 512 r.addr r.len).map fun u =>
    let lo := max r.addr u
    let n := min (r.addr + r.len) (u + 512) - lo
    match tfind c.fill (u / 512) with
    | some l => leBytes n (l.data.toNat >>> (8 * (lo - u)))
    | none => List.replicate n 0).flatten

/-- Is any of the lines tainted? -/
def Core.fillTainted (c : Core) (ls : List Nat) : Bool :=
  ls.any fun l => match tfind c.fill l with
    | some x => x.taint
    | none => false

/-- An op has read the lines: each count falls by 1, a STREAM line is invalidated (R74). -/
def Core.fillUsed (c : Core) (ls : List Nat) : Core :=
  { c with fill := ls.foldl (fun t l => match tfind t l with
      | some x => if x.stream then tdel t l else tins t l { x with cnt := x.cnt - 1 }
      | none => t) c.fill }

/-- The bytes of a source, from the fill partition or scratch. -/
def Core.srcRead (c : Core) (fill : Bool) (r : Run) : List Byte :=
  if fill then c.fillRead r else c.scrRead r.addr r.len

/-- Is a source tainted? -/
def Core.srcTainted (c : Core) (fill : Bool) (rs : List Run) : Bool :=
  if fill then c.fillTainted (linesOf rs) else c.scrTainted rs

/-! ### Issue -/

/-- Is an op a fold op that writes one of the banks or drives one of the arrays (R144)? -/
def MxRun.folds (x : MxRun) (banks arrs : List Nat) : Bool :=
  x.fold && (x.banks.any (banks.contains ·) || x.arrs.any (arrs.contains ·))

/-- Does an uncommitted fold op write one of the banks or drive one of the arrays (R144)? -/
def Core.foldBusy (c : Core) (banks arrs : List Nat) : Bool :=
  c.flight.any fun f => match f.kind with
    | .mx x => x.folds banks arrs
    | _ => false

/-- Does an uncommitted op stream through the weight buffer that array `a` loaded under `tag` (R144)? -/
def Core.tagBusy (c : Core) (a tag : Nat) : Bool :=
  c.flight.any fun f => match f.kind with
    | .mx x => x.tags.contains (a, tag)
    | _ => false

def Core.actBuf (c : Core) (a : Nat) : WBuf := tget WBuf.zero c.act a
def Core.shaBuf (c : Core) (a : Nat) : WBuf := tget WBuf.zeroSha c.sha a

/-- The cc by which every matrix op about to commit that `sel` names has committed. -/
def Core.commitCc (c : Core) (sel : MxRun → Bool) : Nat := maxOf ((c.lateMx.filter fun y => sel y.run).map (·.run.due))

/-- The cc from which the streams of arrays are free, the throttle gap of the core's last op has passed (R546) and, for an op
that swaps, their shadow loads are complete (R144). -/
def Core.streamFree (c : Core) (arrs : List Nat) (swap : Bool) : Nat :=
  max (tget 0 c.mxFree 12) <| maxOf (arrs.map fun a => max (tget 0 c.mxFree a) (if swap then tget 0 c.mxFree (4 + a) else 0))

/-- Resources taken until a cc. -/
def Core.occupy (c : Core) (keys : List Nat) (until_ : Nat) : Core :=
  { c with mxFree := keys.foldl (fun t i => tset 0 t i until_) c.mxFree }

/-- Does the matrix engine issue nothing: stopped by a mismatch (R150), or at a cc by which an op in flight has committed, so
that its check comes first (R146)? -/
def Core.mxHeld (c : Core) : Bool :=
  c.mxStop || c.flight.any fun f => match f.kind with
    | .mx x => decide (x.due ≤ c.ccOf .mx)
    | _ => false

/-- The 64 cc frame of a die at the present time (R30, R548). The spec does not place the frames: DESIGN CHOICE (log
entry 115), they follow the clapper time. -/
def Pkg.frameNow (p : Pkg) : Nat := p.time * (if p.fuse.grade == 2 then 17 else 19) / 640

/-- Arrays of a core that are in no active region and not admitted to one. -/
def Pkg.toAdmit (p : Pkg) (k : Nat) (arrs : List Nat) : List Nat :=
  if p.flag F.CORE_MX_TONE.EN k then
    arrs.filter fun a => !bitOf (p.getF F.CORE_MX_TONE.ACTIVE k) a && !(p.core k).admitted.contains a
  else []

/-- The arrays of an op are admitted to new active regions as far as the die's frame has room (R548). -/
def Pkg.letIn (p : Pkg) (k : Nat) (arrs : List Nat) : Pkg :=
  let need := p.toAdmit k arrs
  if need.isEmpty then p
  else
    let x := p.vat (k / 128)
    let used := if x.frame == p.frameNow then x.admits else 0
    let got := need.take (max 1 (p.getF F.GAFF_CFG.RAMP_ARRAYS 0) - used)
    (p.setVat (k / 128) { x with frame := p.frameNow, admits := used + got.length }).onCore k fun c =>
      { c with admitted := c.admitted ++ got }

/-- The length of the union of intervals, given in the order of their lower ends, from `lo` on. -/
def unionLen : Nat → List (Nat × Nat) → Nat
  | _, [] => 0
  | lo, (a, b) :: t => (b - max lo a) + unionLen (max lo b) t

/-- An interval joins others in the order of their lower ends. -/
def spanInsert (x : Nat × Nat) : List (Nat × Nat) → List (Nat × Nat)
  | [] => [x]
  | y :: t => if x.1 ≤ y.1 then x :: y :: t else y :: spanInsert x t

/-- The throttle level in force (R546). -/
def Pkg.throttleLevel (p : Pkg) : Nat := p.getF F.GAFF_POWER.LEVEL 0

/-- The gap that the gaffer inserts after an op that issues at cc `t` and streams for `s` cc at level `l`: its first cc, and
that at which the next op of the core may issue (R546): at level 0 that is the end of the stream. -/
def throttleGap (l t s : Nat) : Nat × Nat := (t + s, t + s + ceilDiv (s * l) (64 - l))

/-- An interval without the throttle gap, which room tone never fills (R158). -/
def Core.outsideGap (c : Core) (x : Nat × Nat) : List (Nat × Nat) :=
  [(x.1, min x.2 (max x.1 (tget 0 c.mxFree 13))), (max x.1 (tget 0 c.mxFree 12), x.2)]

/-- The cc, not counted before, that spans of room tone add to the counted tapers (R156). -/
def Core.toneNew (c : Core) (spans : List (Nat × Nat)) : Nat :=
  unionLen c.toneAt (spans.foldl (fun l y => spanInsert y l) c.tapers) - unionLen c.toneAt c.tapers

/-- The cc of room tone up to cc `until_` of the issue clock are counted (R156–R158): of each array in an active region, up to
WINDOW cc from the end of its last stream or recompute. -/
def Pkg.toneTo (p : Pkg) (k until_ : Nat) : Pkg :=
  let c := p.core k
  let act := (List.range 4).filter (bitOf (p.getF F.CORE_MX_TONE.ACTIVE k) ·)
  let spans := (act.map fun a =>
    let free := tget 0 c.mxFree a
    c.outsideGap (free, min until_ (free + p.getF F.CORE_MX_TONE.WINDOW k))).flatten
  (p.addF F.CORE_MX_STAT.TONE_CC k (c.toneNew spans)).onCore k fun c =>
    { c with toneAt := max c.toneAt until_, tapers := c.tapers.filter fun y => decide (until_ < y.2) }

/-- A throttle gap that has reached WINDOW cc by the engine's present cc ends the active regions (R157, R546): room tone fills
none of it, so nothing tapers. -/
def Pkg.gapEnds (p : Pkg) (k : Nat) : Pkg :=
  let c := p.core k
  let at_ := tget 0 c.mxFree 13 + p.getF F.CORE_MX_TONE.WINDOW k
  if at_ < tget 0 c.mxFree 12 && at_ ≤ c.ccOf .mx then
    (p.toneTo k (tget 0 c.mxFree 13)).setF F.CORE_MX_TONE.ACTIVE k 0
  else p

/-- The cc that a stalled op adds to its wait until resources are free at cc `free` (R144). -/
def Core.mxWait (c : Core) (free wait : Nat) : Nat := max wait (free - c.ccOf .mx)

/-- Issue of an MX op `wait` cc after the first cc that R60 allows (R68, R69, R144, R192, R548): it waits for its resources
(`free`), while `busy` holds and while the engine issues nothing, stalls on absent lines of its fill sources and for the
admission of its arrays, is skipped on a head check, else `f` runs. -/
def Pkg.mxIssue (p : Pkg) (m : Memory) (k opc bits : Nat) (err : SramErr) (wait : Nat) (free : Entry → Core → Nat)
    (busy : Entry → Core → Bool) (head : Entry → Core → Bad) (fills : Entry → List Nat) (arrs : Entry → List Nat)
    (f : Entry → Pkg → Pkg) : Pkg :=
  match p.take k .mx (withOpc bits opc) with
  | .no => p
  | .skip q => q
  | .go e q =>
    let q := q.issueAt k .mx ((q.core k).mxWait (free e (q.core k)) wait)
    let c := q.core k
    if c.mxHeld || busy e c then p
    else
      match err with
      | .store s => (q.putBack k .mx e).coreUe m k 3 e.slate s.toNat
      | err =>
        match head e c with
        | some (code, det) => q.skipHead k .mx e code det
        | none =>
          let ls := fills e
          let (c, q) := match err with
            | .line a => if ls.contains (a.toNat / 512)
                then ({ c with fill := tdel c.fill (a.toNat / 512) }, q.ceCount k 3 1) else (c, q)
            | .corrected => (c, q.ceCount k 3 1)
            | _ => (c, q)
          let gone := c.absent ls
          if gone.isEmpty then
            let q := (q.gapEnds k).letIn k (arrs e)
            if (q.toAdmit k (arrs e)).isEmpty then f e q else q.putBack k .mx e
          else
            let q := (q.putBack k .mx e).onCore k fun d => { d with fill := c.fill }
            q.miss k gone

/-! ### Weights -/

/-- Elements of a packed row. -/
def rowElems (f n : Nat) (row : Nat) : List Nat := (List.range n).map (elemAt f row ·)

/-- FP19 intake of an FP32 value (R106, R129): truncation or rounding to nearest, saturating. -/
def intake19 (trunc : Bool) (v : FV) : FV :=
  match v with
  | .fin s mm e =>
    if trunc && mm != 0 then
      let p := fpOf fmtFP19
      let q := quantum p mm e
      let t := truncAt mm e q
      .fin s t q
    else decF fmtFP19 (encFP fmtFP19 v).bits
  | x => x

/-- The counts of the FP19 intake of one FP32 operand (R111, R118): overflow when rounding, underflow to zero. -/
def intakeCnt (trunc : Bool) (v : FV) : Cnt :=
  match v with
  | .fin _ mm _ =>
    let e := encFP fmtFP19 v
    Cnt.one (!trunc && e.ovf) 3 false (mm != 0 && (intake19 trunc v).isZero) false
  | _ => Cnt.zero

/-- Counts of the intake of FP32 elements; other formats have none. -/
def intakeCnts (f : Nat) (trunc : Bool) (xs : List Nat) : Cnt :=
  if f == fmtFP32 then Cnt.sum (xs.map fun x => intakeCnt trunc (dec32 x)) else Cnt.zero

/-- A weight buffer from its rows' bytes (R127, R129, R140): rows beyond the loaded ones are zero, K-blocks beyond them
have scale 2^0. -/
def wbufOf (f : Nat) (blk bsz trunc : Bool) (rows scales : List Nat) (taint : Bool) (tag : Nat) : WBuf :=
  let kb := if blk then kTile f / blkLen bsz else 0
  { any := false, fmt := f, blk := blk, bsz := bsz, trunc := trunc,
    rows := tput 0 [] 0 (rows.map (BitVec.ofNat 2048)),
    scales := tput 0 [] 0 ((List.range kb).map fun i =>
      BitVec.ofNat 2048 (scales.getD i (ofLe (List.replicate 64 (0x7F : Byte))))),
    taint := taint, tag := tag }

/-- The load time of a weight tile of `n` rows in cc (R128, R140). -/
def loadCc (f n : Nat) : Nat :=
  (if 6 ≤ f && f ≤ 8 then ceilDiv n 2 else n) * (if f == fmtFP32 || f == fmtINT16 then 2 else 1)

/-- The cc per activation row of a format (R128). -/
def rowCc (f : Nat) : Nat :=
  match f with
  | 0 => 12 | 1 => 4 | 2 => 2 | 3 => 2 | 10 => 4 | _ => 1

/-- MX.LDW. -/
def Pkg.mxLdw (p : Pkg) (m : Memory) (k b : Nat) (r : SramErr) (wt : Nat) : Pkg :=
  p.mxIssue m k 0x10 b r wt
    (fun e c => let a := (ldwOp e.bits).arr
      max (tget 0 c.mxFree (4 + a)) (c.commitCc fun y => y.folds [] [a] || y.tags.contains (a, (c.shaBuf a).tag)))
    (fun e c => let a := (ldwOp e.bits).arr
      c.foldBusy [] [a] || c.tagBusy a (c.shaBuf a).tag)
    (fun _ _ => none)
    (fun e => let x := ldwOp e.bits; if x.fill then linesOf (ldwRuns x e.sc) else [])
    (fun _ => [])
    fun e p =>
      let x := ldwOp e.bits
      let c := p.core k
      let n := x.km1 + 1
      let rs := ldwRuns x e.sc
      let rows := (rs.take n).map fun q => ofLe (c.srcRead x.fill q)
      let scales := (rs.drop n).map (fun q =>
        (chunksOf 64 q.len (c.srcRead x.fill q)).map ofLe) |>.flatten
      let taint := c.srcTainted x.fill rs
      let w := wbufOf x.fmt x.blk x.bsz x.trunc rows scales taint (c.issueNo + 2)
      let cnt := Cnt.sum (rows.map fun q => intakeCnts x.fmt x.trunc (rowElems x.fmt 64 q))
      let ready := c.ccOf .mx + loadCc x.fmt n
      let c := { c with sha := tset WBuf.zeroSha c.sha x.arr w, issueNo := c.issueNo + 1 }
      let c := if x.fill then c.fillUsed (linesOf rs) else c
      (p.setCore k (c.occupy [4 + x.arr] ready)).landAt k .mx ready e.brk cnt

/-! ### Products and chunk sums (R129–R137) -/

/-- Does the format use the truncation window of R134? -/
def windowFmt (f : Nat) : Bool := f ≤ 3

/-- The products of one pair of operands (R129, R133): three FP19 products for a finite FP32 pair, one otherwise. Integer
zeros have no sign. -/
def products (f : Nat) (truncA truncW : Bool) (a w : FV) : List FV :=
  if f == fmtFP32 && a.isFin && w.isFin then
    let ah := intake19 truncA a
    let al := intake19 false (a.sub ah)
    let wh := intake19 truncW w
    let wl := intake19 false (w.sub wh)
    [ah.mul wh, ah.mul wl, al.mul wh]
  else
    let x := a.mul w
    [if fmtIsInt f && x.isZero then .fin false 0 0 else x]

/-- floor(log2) of the largest finite non-zero product, if any. -/
def topExp (ps : List FV) : Option Int :=
  ps.foldl (fun acc v => match v with
    | .fin _ mm e => if mm == 0 then acc else
      match acc with
      | none => some (flog2 mm e)
      | some y => some (max y (flog2 mm e))
    | _ => acc) none

/-- Truncation toward zero to a multiple of `2^q` (R134). -/
def truncTo (q : Int) (v : FV) : FV :=
  match v with
  | .fin s mm e => .fin s (truncAt mm e q) q
  | x => x

/-- The sum of a non-empty list of values in order. -/
def sumFV : List FV → FV
  | [] => .fin false 0 0
  | x :: xs => xs.foldl FV.add x

/-- A chunk's sum (R133, R134, R137). -/
def chunkSum (f : Nat) (ps : List FV) : FV :=
  if windowFmt f then
    match topExp ps with
    | some e => sumFV (ps.map (truncTo (e - 47)))
    | none => sumFV ps
  else sumFV ps

/-- An accumulator element and whether it has saturated in this op. -/
abbrev AccEl := FV × Bool

/-- One update of an accumulator element (R135, R136); `first` writes the rounded sum. -/
def accStep (acc : AccEl) (first : Bool) (s : FV) : AccEl :=
  let v := if first then s else acc.1.add s
  let e := encFP 0 v
  (dec32 e.bits, acc.2 || (v.isFin && e.ovf))

/-- The updates of one element by chunk sums in ascending K (R135). -/
def accSums (fresh : Bool) (acc : AccEl) : List FV → AccEl
  | [] => acc
  | s :: ss => accSums false (accStep acc fresh s) ss

/-- All chunks of one element in ascending K (R132, R135). -/
def accChunks (f : Nat) (fresh : Bool) (acc : AccEl) (cs : List (List FV)) : AccEl :=
  accSums fresh acc (cs.map (chunkSum f))

/-- The value of weight (k, n) of a buffer. -/
def WBuf.elem (w : WBuf) (f : Nat) (k n : Nat) : FV :=
  let x := elemAt f (tget 0 w.rows k).toNat n
  if w.blk && !w.any then decScaled f true ((tget 0 w.scales (k / blkLen w.bsz)).toNat >>> (8 * n) % 256) x
  else decScaled f false 0 x

/-- An activation row's values: elements of the packed row with the row's scales. -/
def actVals (f : Nat) (blk bsz : Bool) (row scales : Nat) (n : Nat) : List FV :=
  (List.range n).map fun i => decScaled f blk (scales >>> (8 * (i / blkLen bsz)) % 256) (elemAt f row i)

/-- Chunk length (R132). -/
def chunkLen (blk bsz : Bool) : Nat := if blk && bsz then 16 else 32

/-- The products of one element by chunks: activations against column `n` of a buffer. -/
def elemChunks (f : Nat) (blk bsz truncA : Bool) (w : WBuf) (acts : List FV) (n : Nat) : List (List FV) :=
  let ks := List.range acts.length
  let ps := (acts.zip ks).map fun x => products f truncA w.trunc x.1 (w.elem f x.2 n)
  (chunksOf (chunkLen blk bsz) ps.length ps).map (·.flatten)

/-- An accumulator row's elements. -/
def Core.accRow (c : Core) (arr bank row : Nat) : List Nat := lanesOf (tget 0 c.acc ((arr * 8 + bank) * 64 + row)).toNat

/-- One output row: 64 columns from accumulator elements, with the number that saturated. -/
def outRow (f : Nat) (fresh : Bool) (old : List AccEl) (chunks : Nat → List (List FV)) : List AccEl :=
  (List.range 64).map fun n => accChunks f fresh (old.getD n (.fin false 0 0, false)) (chunks n)

/-- The stored bits of a row. -/
def packAcc (r : List AccEl) : BitVec 2048 := ofLanes (r.map fun x => (encFP 0 x.1).bits)

/-- Counts of an accumulated row: one overflow per saturated element (R121, R135). -/
def accCnt (r : List AccEl) : Cnt :=
  let n := (r.filter (·.2)).length
  { Cnt.zero with ovf := n, rank := if n == 0 then 0 else 3 }

def asAcc (l : List Nat) : List AccEl := l.map fun x => (dec32 x, false)

/-- Active buffer of an array after the op's swap (R127, R141). -/
def Core.usedBuf (c : Core) (swap : Bool) (a : Nat) : WBuf := if swap then c.shaBuf a else c.actBuf a

def Core.swapBufs (c : Core) (as : List Nat) : Core :=
  as.foldl (fun c a => { c with act := tset WBuf.zero c.act a (c.shaBuf a), sha := tset WBuf.zeroSha c.sha a (c.actBuf a) }) c

/-- Does a buffer match a format (R127, R141)? BSZ has no effect when BLK is 0 (R98). -/
def WBuf.fits (w : WBuf) (f : Nat) (blk bsz : Bool) : Bool :=
  w.any || (w.fmt == f && w.blk == blk && (!blk || w.bsz == bsz))

/-- The rows of an activation source: packed row and scales. -/
def Core.actRows (c : Core) (fill : Bool) (rs : List Run) (rows : Nat) : List (Nat × Nat) :=
  let data := (rs.take rows).map fun q => ofLe (c.srcRead fill q)
  let sc := ((rs.drop rows).map fun q => c.srcRead fill q).flatten
  let per := sc.length / rows
  let ss := (chunksOf (max 1 per) sc.length sc).map ofLe
  data.zipIdx.map fun x => (x.1, ss.getD x.2 0)

/-- An MX op goes in flight, each of its arrays' streams busy for its own time (R146, R154); they enter an active region when
room tone is on (R156). DESIGN CHOICE (log entry 117): with EN = 0 no region begins. -/
def Pkg.mxFlight (p : Pkg) (k : Nat) (e : Entry) (busy : Nat → Nat) (x : MxRun) : Pkg :=
  let p := p.toneTo k ((p.core k).ccOf .mx)
  let p := p.onCore k fun c =>
    let gap := throttleGap p.throttleLevel (c.ccOf .mx) (maxOf (x.arrs.map busy))
    { ((x.arrs.foldl (fun c a => c.occupy [a] (c.ccOf .mx + busy a)) c).occupy [12] gap.2).occupy [13] gap.1 with
      admitted := c.admitted.filter (!x.arrs.contains ·)
      flight := c.flight ++ [⟨c.issueNo, .mx, opcOf e.bits, e.slate, e.idx, e.brk, .mx x⟩], issueNo := c.issueNo + 1 }
  if p.flag F.CORE_MX_TONE.EN k then
    p.setF F.CORE_MX_TONE.ACTIVE k (x.arrs.foldl (fun w a => w ||| 2 ^ a) (p.getF F.CORE_MX_TONE.ACTIVE k))
  else p

/-- Head check of a product: the formats of the arrays' buffers (R141). -/
def fitCheck (e : Entry) (c : Core) (as : List Nat) (swap : Bool) (f : Nat) (blk bsz : Bool) : Bad :=
  Bad.when (!(as.all fun a => (c.usedBuf swap a).fits f blk bsz)) 0x211 (slotDetail .mx e.bits)

/-- The accumulator rows of banks (8 × array + bank). -/
def Core.bankRows (c : Core) (banks : List Nat) : Tab (BitVec 2048) := c.acc.filter fun x => banks.contains (x.1 / 64)

/-- Arrays of a mask. -/
def arraysOf (mask : Nat) : List Nat := (List.range 4).filter (bitOf mask ·)

/-- MX.MMA, explicit form (R126, R132–R137, R141). -/
def Pkg.mxMma (p : Pkg) (m : Memory) (k b : Nat) (r : SramErr) (wt : Nat) : Pkg :=
  p.mxIssue m k 0x11 b r wt
    (fun e c => let x := mmaOp e.bits; let as := arraysOf x.amask
      max (c.streamFree as x.swap) (c.commitCc (·.folds (as.map fun a => a * 8 + x.bank) as)))
    (fun e c => let x := mmaOp e.bits; let as := arraysOf x.amask
      c.foldBusy (as.map fun a => a * 8 + x.bank) as)
    (fun e c => let x := mmaOp e.bits; fitCheck e c (arraysOf x.amask) x.swap x.fmt x.blk x.bsz)
    (fun e => let x := mmaOp e.bits; if x.fill then linesOf (mmaRuns x e.sc) else [])
    (fun e => arraysOf (mmaOp e.bits).amask)
    fun e p =>
      let x := mmaOp e.bits
      let as := arraysOf x.amask
      let c := p.core k
      let rs := mmaRuns x e.sc
      let n := x.mm1 + 1
      let rows := c.actRows x.fill rs n
      let c1 := if x.swap then c.swapBufs as else c
      let out := (as.map fun a => rows.zipIdx.map fun q =>
        let acts := actVals x.fmt x.blk x.bsz q.1.1 q.1.2 (kTile x.fmt)
        let old := asAcc (c.accRow a x.bank q.2)
        ((a * 8 + x.bank) * 64 + q.2,
          outRow x.fmt (!x.acc) old fun col => elemChunks x.fmt x.blk x.bsz x.trunc (c1.actBuf a) acts col)).flatten
      let intake := Cnt.sum (rows.map fun q => intakeCnts x.fmt x.trunc (rowElems x.fmt (kTile x.fmt) q.1))
      let taint := c.srcTainted x.fill rs || as.any fun a => (c1.actBuf a).taint
      let run : MxRun :=
        { rows := out.foldl (fun t y => tins t y.1 (packAcc y.2)) [], banks := as.map fun a => a * 8 + x.bank,
          fresh := !x.acc, taint := taint, fold := false, arrs := as, tags := as.map fun a => (a, (c1.actBuf a).tag),
          tol := windowFmt x.fmt, cnt := Cnt.add intake (Cnt.sum (out.map fun y => accCnt y.2)),
          fmt := x.fmt, blk := x.blk, bsz := x.bsz, trunc := x.trunc,
          passes := as.map fun a => ⟨a, 0, c1.actBuf a, rows, [(a * 8 + x.bank, false)]⟩,
          old := c.bankRows (as.map fun a => a * 8 + x.bank), due := c.ccOf .mx + n * rowCc x.fmt + 16 }
      let c2 := if x.fill then c1.fillUsed (linesOf rs) else c1
      (p.setCore k c2).mxFlight k e (fun _ => n * rowCc x.fmt) run

/-- Element-wise join of two lists of chunks. -/
def joinChunks (a b : List (List FV)) : List (List FV) := (a.zip b).map fun x => x.1 ++ x.2

def negChunks (a : List (List FV)) : List (List FV) := a.map fun c => c.map FV.neg

/-- MX.CMUL (R142): the terms of both parts join in each chunk before its one rounding. -/
def Pkg.mxCmul (p : Pkg) (m : Memory) (k b : Nat) (r : SramErr) (wt : Nat) : Pkg :=
  let arrs (x : CmulOp) : List Nat := if x.gauss then [0, 1, 2] else [0, 1]
  p.mxIssue m k 0x12 b r wt
    (fun e c => let x := cmulOp e.bits
      max (c.streamFree (arrs x) x.swap) (c.commitCc (·.folds [x.bank, 8 + x.bank] (arrs x))))
    (fun e c => let x := cmulOp e.bits; c.foldBusy [x.bank, 8 + x.bank] (arrs x))
    (fun e c => let x := cmulOp e.bits; fitCheck e c (arrs x) x.swap x.fmt x.blk x.bsz)
    (fun e => let x := cmulOp e.bits; if x.fill then linesOf (cmulRuns x e.sc) else [])
    (fun e => arrs (cmulOp e.bits))
    fun e p =>
      let x := cmulOp e.bits
      let as := arrs x
      let c := p.core k
      let rs := cmulRuns x e.sc
      let n := x.mm1 + 1
      let per := n + (if x.blk then 1 else 0)
      let src (i : Nat) : List (Nat × Nat) := c.actRows x.fill ((rs.drop (i * per)).take per) n
      let c1 := if x.swap then c.swapBufs as else c
      let s0 := src 0
      let s1 := src 1
      let s2 := src 2
      let vals (s : List (Nat × Nat)) (i : Nat) : List FV :=
        let q := s.getD i (0, 0)
        actVals x.fmt x.blk x.bsz q.1 q.2 (kTile x.fmt)
      let ch (a : Nat) (v : List FV) (col : Nat) := elemChunks x.fmt x.blk x.bsz false (c1.actBuf a) v col
      let out := ((List.range n).map fun i =>
        let v0 := vals s0 i
        let v1 := vals s1 i
        let v2 := vals s2 i
        let re (col : Nat) := if x.gauss then joinChunks (ch 0 v0 col) (negChunks (ch 2 v2 col))
          else joinChunks (ch 0 v0 col) (negChunks (ch 1 v1 col))
        let im (col : Nat) := if x.gauss then joinChunks (ch 0 v0 col) (ch 1 v1 col)
          else joinChunks (ch 1 v0 col) (ch 0 v1 col)
        [(x.bank * 64 + i, outRow x.fmt (!x.acc) (asAcc (c.accRow 0 x.bank i)) re),
         ((8 + x.bank) * 64 + i, outRow x.fmt (!x.acc) (asAcc (c.accRow 1 x.bank i)) im)]).flatten
      let taint := c.srcTainted x.fill rs || as.any fun a => (c1.actBuf a).taint
      let run : MxRun :=
        { rows := out.foldl (fun t y => tins t y.1 (packAcc y.2)) [], banks := [x.bank, 8 + x.bank], fresh := !x.acc,
          taint := taint, fold := false, arrs := as, tags := as.map fun a => (a, (c1.actBuf a).tag), tol := windowFmt x.fmt,
          cnt := Cnt.sum (out.map fun y => accCnt y.2), fmt := x.fmt, blk := x.blk, bsz := x.bsz, trunc := false,
          passes := if x.gauss then
              [⟨0, 0, c1.actBuf 0, s0, [(x.bank, false), (8 + x.bank, false)]⟩,
               ⟨1, 0, c1.actBuf 1, s1, [(8 + x.bank, false)]⟩, ⟨2, 0, c1.actBuf 2, s2, [(x.bank, true)]⟩]
            else [⟨0, 0, c1.actBuf 0, s0, [(x.bank, false)]⟩, ⟨1, 0, c1.actBuf 1, s0, [(8 + x.bank, false)]⟩,
                  ⟨0, 0, c1.actBuf 0, s1, [(8 + x.bank, false)]⟩, ⟨1, 0, c1.actBuf 1, s1, [(x.bank, true)]⟩],
          old := c.bankRows [x.bank, 8 + x.bank], due := c.ccOf .mx + (if x.gauss then 3 else 2) * n * rowCc x.fmt + 16 }
      let c2 := if x.fill then c1.fillUsed (linesOf rs) else c1
      (p.setCore k c2).mxFlight k e (fun _ => (if x.gauss then 3 else 2) * n * rowCc x.fmt) run

/-! ### The fold form (R153–R155) -/

/-- Bits of `len` elements from element `o` of a packed row, as a row of their own. -/
def subRow (f : Nat) (row o n : Nat) : Nat := packRow f ((List.range n).map fun i => elemAt f row (o + i))

/-- MX.MMA, fold form: column groups on alternating arrays, K tiles in ascending order. -/
def Pkg.mxFold (p : Pkg) (m : Memory) (k b : Nat) (r : SramErr) (wt : Nat) : Pkg :=
  let cols (x : FoldOp) : List (Nat × Nat × Nat) := (List.range (x.nt + 1)).map fun j => (j, j % 2, x.bank + j / 2)
  let arrs (x : FoldOp) : List Nat := if x.nt == 0 then [0] else [0, 1]
  p.mxIssue m k 0x11 b r wt
    (fun e c => let x := foldOp e.bits
      max (c.streamFree (arrs x) true) (c.commitCc (·.folds ((cols x).map fun q => q.2.1 * 8 + q.2.2) (arrs x))))
    (fun e c => let x := foldOp e.bits
      c.foldBusy ((cols x).map fun q => q.2.1 * 8 + q.2.2) (arrs x))
    (fun _ _ => none)
    (fun e => let x := foldOp e.bits
      (if x.wfill then linesOf (foldWRuns x e.sc) else []) ++ (if x.afill then linesOf (foldARuns x e.sc) else []))
    (fun e => arrs (foldOp e.bits))
    fun e p =>
      let x := foldOp e.bits
      let c := p.core k
      let kt := kTile x.fmt
      let nk := x.kt + 1
      let n := 64 * (x.nt + 1)
      let wr := foldWRuns x e.sc
      let ar := foldARuns x e.sc
      let wrows := (wr.take (kt * nk)).map fun q => ofLe (c.srcRead x.wfill q)
      let wsc := ofLe (((wr.drop (kt * nk)).map fun q => c.srcRead x.wfill q).flatten)
      let rows := c.actRows x.afill ar (x.mm1 + 1)
      let wt := c.srcTainted x.wfill wr
      let at_ := c.srcTainted x.afill ar
      let per := if x.blk then kt / blkLen x.bsz else 0
      let tile (j t : Nat) : WBuf :=
        wbufOf x.fmt x.blk x.bsz x.trunc ((List.range kt).map fun i => subRow x.fmt (wrows.getD (t * kt + i) 0) (64 * j) 64)
          ((List.range per).map fun i => (wsc >>> (8 * ((t * per + i) * n + 64 * j))) % 2 ^ 512) wt (c.issueNo + 2)
      let part (q : Nat × Nat) (t : Nat) : Nat × Nat := (subRow x.fmt q.1 (t * kt) kt, q.2 >>> (8 * (t * per)))
      let acts (i t : Nat) : List FV :=
        let q := part (rows.getD i (0, 0)) t
        actVals x.fmt x.blk x.bsz q.1 q.2 kt
      let elem (j i : Nat) : List AccEl :=
        (List.range nk).foldl (fun old t => outRow x.fmt (!x.acc && t == 0) old fun col =>
          elemChunks x.fmt x.blk x.bsz x.trunc (tile j t) (acts i t) col) (asAcc (c.accRow (j % 2) (x.bank + j / 2) i))
      let out := ((cols x).map fun q => (List.range (x.mm1 + 1)).map fun i =>
        ((q.2.1 * 8 + q.2.2) * 64 + i, elem q.1 i)).flatten
      let cnt := Cnt.add (Cnt.sum (wrows.map fun q => intakeCnts x.fmt x.trunc (rowElems x.fmt n q)))
        (Cnt.add (Cnt.sum (rows.map fun q => intakeCnts x.fmt x.trunc (rowElems x.fmt (kt * nk) q.1)))
          (Cnt.sum (out.map fun y => accCnt y.2)))
      let as := arrs x
      let banks := (cols x).map fun q => q.2.1 * 8 + q.2.2
      let subs (a : Nat) : Nat := ((cols x).filter (·.2.1 == a)).length * nk
      let stream := (x.mm1 + 1) * rowCc x.fmt
      let busy (a : Nat) : Nat := loadCc x.fmt kt + (subs a - 1) * max (loadCc x.fmt kt) stream + stream
      let c1 := ((List.range (x.nt + 1)).map fun j => (List.range nk).map fun t => (j, t)).flatten.foldl (fun d q =>
        let a := q.1 % 2
        ({ d with sha := tset WBuf.zeroSha d.sha a (tile q.1 q.2) } : Core).swapBufs [a]) c
      let run : MxRun :=
        { rows := out.foldl (fun t y => tins t y.1 (packAcc y.2)) [], banks := banks,
          fresh := !x.acc, taint := wt || at_, fold := true, arrs := as, tags := as.map fun a => (a, c.issueNo + 2),
          tol := windowFmt x.fmt, cnt := cnt, fmt := x.fmt, blk := x.blk, bsz := x.bsz, trunc := x.trunc,
          passes := ((cols x).map fun q => (List.range nk).map fun t =>
            (⟨q.2.1, t, tile q.1 t, rows.map (part · t), [(q.2.1 * 8 + q.2.2, false)]⟩ : MxPass)).flatten,
          old := c.bankRows banks, due := c.ccOf .mx + maxOf (as.map busy) + 16 }
      let ls := dedup ((if x.wfill then linesOf wr else []) ++ (if x.afill then linesOf ar else []))
      ((p.setCore k (c1.fillUsed ls)).onCore k fun d => { d with issueNo := d.issueNo + 1 }).mxFlight k e busy run

/-! ### MX.OUT (R109–R118, R143, R305) -/

/-- An element through stages 1 to 4 of R109: its value, overflow of a stage, range violation. -/
structure OutEl where
  v : FV
  ovf : Bool
  rng : Bool
  deriving DecidableEq, Repr

/-- One rounding into FP32 of a stage. -/
def stageRnd (v : FV) : FV × Bool := let e := encFP 0 v; (dec32 e.bits, v.isFin && e.ovf)

/-- Stages 1 to 4. -/
def outStages (x : OutOp) (s b lo hi res rlo rhi : FV) (a : FV) : OutEl :=
  let y1 := if x.scl && x.bias then stageRnd ((a.mul s).add b)
    else if x.scl then stageRnd (a.mul s)
    else if x.bias then stageRnd (a.add b) else (a, false)
  let y2 := if x.clip then (y1.1.max lo).min hi else y1.1
  let y3 := if x.res then stageRnd (y2.add res) else (y2, false)
  ⟨y3.1, y1.2 || y3.2, x.rchk && (y3.1.lt rlo || rhi.lt y3.1)⟩

/-- The converted elements of a row (for counts). -/
def encElems (f : Nat) (blk bsz : Bool) (ceil : Option Int) (vs : List FV) : List Enc :=
  if blk then ((chunksOf (blkLen bsz) vs.length vs).map fun b => (encBlock f ceil b).elems).flatten else vs.map (encF f)

/-- Counts of an element over all stages (R121, R300). -/
def outCnt (f : Nat) (y : OutEl) (e : Enc) : Cnt :=
  Cnt.one (y.ovf || e.ovf) (max (if y.ovf then 3 else 0) (if e.ovf then ladderRank f else 0)) e.nf
    (e.unf && !fmtIsInt f) y.rng

/-- MX.OUT. -/
def Pkg.mxOut (p : Pkg) (m : Memory) (k b : Nat) (r : SramErr) (wt : Nat) : Pkg :=
  p.mxIssue m k 0x13 b r wt
    (fun e c => let x := outOp e.bits
      max (tget 0 c.mxFree (8 + x.arr)) (c.commitCc (·.folds [x.arr * 8 + x.bank] [x.arr])))
    (fun e c => let x := outOp e.bits; c.foldBusy [x.arr * 8 + x.bank] [x.arr])
    (fun _ _ => none) (fun _ => []) (fun _ => [])
    fun e p =>
      let x := outOp e.bits
      let c := p.core k
      let ent := c.ent x.tid
      let n := x.rm1 + 1
      let vec (o : Nat) : List FV := (lanesOf (ofLe (c.scrRead (scal e.sc x.ssb + o) 256))).map dec32
      let ss := if x.scl then vec 0 else []
      let bs := if x.bias then vec 256 else []
      let clip := scal e.sc x.sclip
      let lo := dec32 clip
      let hi := dec32 (clip / 2 ^ 32)
      let row (i : Nat) : List OutEl :=
        let res := if x.res then (lanesOf (ofLe (c.scrRead (scal e.sc x.sr + 256 * i) 256))).map dec32 else []
        (c.accRow x.arr x.bank i).zipIdx.map fun q =>
          outStages x (ss.getD q.2 .nan) (bs.getD q.2 .nan) lo hi (res.getD q.2 .nan) (dec32 ent.rlo) (dec32 ent.rhi)
            (dec32 q.1)
      let rows := (List.range n).map row
      let ceil := if x.blk then ent.ceiling else none
      let encs := rows.map fun ys => encRow x.fmt x.blk x.bsz ceil (ys.map (·.v))
      let cnt := Cnt.sum (rows.map fun ys =>
        Cnt.sum ((ys.zip (encElems x.fmt x.blk x.bsz ceil (ys.map (·.v)))).map fun q => outCnt x.fmt q.1 q.2))
      let taint := bitOf (p.getF F.CORE_MX_TAINT.TAINT k) (x.arr * 8 + x.bank) || c.scrTainted (outReads x e.sc)
      let due := c.ccOf .mx + x.rm1 + 21
      let p := if x.vreg then
          encs.zipIdx.foldl (fun p q => p.onCore k fun c => c.defer .mx due
            (.vreg (x.vd + q.2) (BitVec.ofNat 64 (2 ^ 64 - 1)) (BitVec.ofNat 2048 q.1.data) taint false)) p
        else
          let ws := outWrites x e.sc
          let len := rowBytes x.fmt 64
          let bytes := ((encs.map fun q => leBytes len q.data) ++
            (if x.blk then encs.map fun q => leBytes (64 / blkLen x.bsz) q.scales else [])).flatten
          p.onCore k fun c => c.defer .mx due (.scr (ws.map fun r => (r.addr, r.len)) bytes taint)
      let p := p.onCore k fun d => d.occupy [8 + x.arr] (c.ccOf .mx + x.rm1 + 1)
      p.landAt k .mx due e.brk cnt
        (some (x.tid, magBits (maxMag ((rows.map fun ys => ys.map (·.v)).flatten)), maxOf (encs.map (·.excess))))

/-- MX.TONE (R159). -/
def Pkg.mxTone (p : Pkg) (m : Memory) (k b : Nat) (r : SramErr) (wt : Nat) : Pkg :=
  p.mxIssue m k 0x14 b r wt (fun _ _ => 0) (fun _ _ => false) (fun _ _ => none) (fun _ => []) (fun _ => []) fun e p =>
    let en := fld e.bits 8 8
    let p := p.toneTo k ((p.core k).ccOf .mx)
    let p := (p.setF F.CORE_MX_TONE.WINDOW k (min 256 (fld e.bits 17 9))).setF F.CORE_MX_TONE.EN k en
    if en == 0 then p.setF F.CORE_MX_TONE.ACTIVE k 0 else p

/-! ### Checks (R148–R152) -/

/-- The fault field of an array. -/
def arrFault (a : Nat) : Fd :=
  match a with
  | 0 => F.CORE_MX_FAULT.A0_FAULTS
  | 1 => F.CORE_MX_FAULT.A1_FAULTS
  | 2 => F.CORE_MX_FAULT.A2_FAULTS
  | _ => F.CORE_MX_FAULT.A3_FAULTS

/-- A disturbance that MX_CHECK reports (R148, R149): the cell of column `col` (64: the checksum column) adds `delta`, an FP32
value, to chunk sum `chunk` of activation row `row` (64: the checksum row) in pass `pass`. DESIGN CHOICE (log entry 118):
what a faulty cell adds is an input of the command. -/
def upsetVal (u : MxUpset) : FV := dec32 u.delta.toNat

/-- The disturbances of one cell in a pass. -/
def upsetsAt (ups : List MxUpset) (i row col : Nat) : List MxUpset :=
  ups.filter fun u => u.pass.toNat == i && u.row.toNat == row && u.col.toNat == col

/-- A value with what disturbances add. -/
def FV.upset (v : FV) (us : List MxUpset) : FV := us.foldl (fun a u => a.add (upsetVal u)) v

/-- The parts of an operand on the cells (R129): the hi and lo halves of a finite FP32 value; else the whole value. -/
def opParts (f : Nat) (trunc : Bool) (v : FV) : FV × FV :=
  if f == fmtFP32 && v.isFin then
    let h := intake19 trunc v
    (h, intake19 false (v.sub h))
  else (v, .fin false 0 0)

/-- Sums of operands, part by part. -/
def sumParts (xs : List (FV × FV)) : FV × FV := (sumFV (xs.map (·.1)), sumFV (xs.map (·.2)))

/-- The dot product of two lists of operands (R129: no lo·lo product). -/
def dotParts (xs ys : List (FV × FV)) : FV :=
  sumFV ((xs.zip ys).map fun q => ((q.1.1.mul q.2.1).add (q.1.1.mul q.2.2)).add (q.1.2.mul q.2.1))

/-- A value held to a 24-bit significand (R148), to nearest, ties to even (DESIGN CHOICE, log entry 119). -/
def sig24 (v : FV) : FV :=
  match v with
  | .fin s m e => if m == 0 then v else let q := flog2 m e - 23; .fin s (rneAt m e q) q
  | x => x

/-- 1 ulp of the FP32 value of a number. -/
def ulp32 (v : FV) : FV :=
  match v with
  | .fin _ m e => if m == 0 then .fin false 1 (-149) else .fin false 1 (quantum (fpOf 0) m e)
  | _ => .fin false 0 0

/-- Does a sum mismatch its check value (R149)? Exactly, or with `tol` by more than 2 ulp of the larger; never when one of
them is Inf or NaN. -/
def sumMiss (tol : Bool) (sum chk : FV) : Bool :=
  if !sum.isFin || !chk.isFin then false
  else
    let a := sig24 sum
    let b := sig24 chk
    if tol then
      let u := ulp32 (a.abs.max b.abs)
      (u.add u).lt (a.sub b).abs
    else !(a.eqv b)

/-- The chunks of products of element (`row`, `col`) in a pass. -/
def MxPass.chunks (x : MxRun) (q : MxPass) (row col : Nat) : List (List FV) :=
  let a := q.acts.getD row (0, 0)
  elemChunks x.fmt x.blk x.bsz x.trunc q.w (actVals x.fmt x.blk x.bsz a.1 a.2 (kTile x.fmt)) col

/-- The chunk-summed result of element (`row`, `col`) in pass `i`. -/
def MxPass.result (x : MxRun) (ups : List MxUpset) (i : Nat) (q : MxPass) (row col : Nat) : FV :=
  (sumFV ((q.chunks x row col).map (chunkSum x.fmt))).upset (upsetsAt ups i row col)

/-- The parts of an activation row of a pass. -/
def MxPass.actParts (x : MxRun) (q : MxPass) (row : Nat) : List (FV × FV) :=
  let a := q.acts.getD row (0, 0)
  (actVals x.fmt x.blk x.bsz a.1 a.2 (kTile x.fmt)).map (opParts x.fmt x.trunc)

/-- The parts of a weight of a pass. -/
def MxPass.wPart (x : MxRun) (q : MxPass) (kk col : Nat) : FV × FV := opParts x.fmt q.w.trunc (q.w.elem x.fmt kk col)

/-- The check value of an activation row (R148): its dot product with the row sums of the weights. -/
def MxPass.rowCheck (x : MxRun) (ups : List MxUpset) (i : Nat) (q : MxPass) (row : Nat) : FV :=
  (dotParts (q.actParts x row) ((List.range (kTile x.fmt)).map fun kk =>
    sumParts ((List.range 64).map (q.wPart x kk)))).upset (upsetsAt ups i row 64)

/-- The check value of a column (R148): the dot product of the column sums of the activation rows with its weights. -/
def MxPass.colCheck (x : MxRun) (ups : List MxUpset) (i : Nat) (q : MxPass) (col : Nat) : FV :=
  (dotParts ((List.range (kTile x.fmt)).map fun kk => sumParts ((List.range q.acts.length).map fun r =>
    (q.actParts x r).getD kk (.fin false 0 0, .fin false 0 0))) ((List.range (kTile x.fmt)).map (q.wPart x · col))).upset
    (upsetsAt ups i 64 col)

/-- The rows and the columns of pass `i` that mismatch (R148, R149). -/
def MxPass.misses (x : MxRun) (ups : List MxUpset) (i : Nat) (q : MxPass) : List Nat × List Nat :=
  let rows := List.range q.acts.length
  let cols := List.range 64
  (rows.filter fun r => sumMiss x.tol (sumFV (cols.map (q.result x ups i r))) (q.rowCheck x ups i r),
   cols.filter fun c => sumMiss x.tol (sumFV (rows.map (q.result x ups i · c))) (q.colCheck x ups i c))

/-- Does pass `i` mismatch? -/
def MxPass.fails (x : MxRun) (ups : List MxUpset) (i : Nat) (q : MxPass) : Bool :=
  let y := q.misses x ups i
  !y.1.isEmpty || !y.2.isEmpty

/-- What is recomputed together (R150, R154): the passes of an array, or one sub-tile pass of a fold op. DEDUCED (log entry
120). -/
def MxRun.unit (x : MxRun) (i : Nat) : Nat := if x.fold then i else ((x.passes.map (·.arr)).getD i 0)

/-- The units that a first check finds mismatching. -/
def MxRun.redone (x : MxRun) (first : List MxUpset) : List Nat :=
  dedup ((x.passes.zipIdx.filter fun q => q.1.fails x first q.2).map fun q => x.unit q.2)

/-- The passes whose recompute mismatches, with their number. -/
def MxRun.failed (x : MxRun) (redone : List Nat) (again : List MxUpset) : List (MxPass × Nat) :=
  x.passes.zipIdx.filter fun q => redone.contains (x.unit q.2) && q.1.fails x again q.2

/-- The disturbances in the result that commits: of the recompute in the units redone, of the first stream elsewhere. -/
def MxRun.final (x : MxRun) (redone : List Nat) (first again : List MxUpset) : List MxUpset :=
  (first.filter fun u => !redone.contains (x.unit u.pass.toNat)) ++
    again.filter fun u => redone.contains (x.unit u.pass.toNat)

/-- The chunk sums that reach element (`row`, `col`) of a bank in ascending K, with disturbances (R132–R137, R142). -/
def MxRun.sums (x : MxRun) (ups : List MxUpset) (bank row col : Nat) : List FV :=
  ((List.range 4).map fun t =>
    let ps := x.passes.zipIdx.filter fun q => q.1.seq == t && q.1.outs.any (·.1 == bank)
    let neg (q : MxPass) : Bool := q.outs.contains (bank, true)
    let chs := ps.map fun q => (q, q.1.chunks x row col)
    (List.range (maxOf (chs.map (·.2.length)))).map fun ch =>
      let s := chunkSum x.fmt ((chs.map fun y =>
        let l := y.2.getD ch []
        if neg y.1.1 then l.map FV.neg else l).flatten)
      ps.foldl (fun s q => (upsetsAt ups q.2 row col).foldl (fun s u =>
        if u.chunk.toNat == ch then s.add (if neg q.1 then (upsetVal u).neg else upsetVal u) else s) s) s).flatten

/-- An accumulator element of the op with disturbances. -/
def MxRun.elem (x : MxRun) (ups : List MxUpset) (bank row col : Nat) : AccEl :=
  accSums x.fresh (dec32 ((lanesOf (tget 0 x.old (bank * 64 + row)).toNat).getD col 0), false) (x.sums ups bank row col)

/-- The elements that disturbances reach: bank, row, column. -/
def MxRun.cells (x : MxRun) (ups : List MxUpset) : List (Nat × Nat × Nat) :=
  dedup ((ups.map fun u =>
    match x.passes[u.pass.toNat]? with
    | some q => if u.row.toNat < q.acts.length && u.col.toNat < 64
        then q.outs.map fun o => (o.1, u.row.toNat, u.col.toNat) else []
    | none => []).flatten)

/-- One element of the op's results replaced by its disturbed value. -/
def MxRun.patch (x : MxRun) (ups : List MxUpset) (y : MxRun) (q : Nat × Nat × Nat) : MxRun :=
  let key := q.1 * 64 + q.2.1
  let was := x.elem [] q.1 q.2.1 q.2.2
  let now := x.elem ups q.1 q.2.1 q.2.2
  { y with
    rows := match tfind y.rows key with
      | some r => tins y.rows key (BitVec.ofNat 2048 (putFld r.toNat (32 * q.2.2 + 31) (32 * q.2.2) (encFP 0 now.1).bits))
      | none => y.rows
    cnt := { y.cnt with ovf := y.cnt.ovf - b2n was.2 + b2n now.2, rank := max y.cnt.rank (if now.2 then 3 else 0) } }

/-- The op with what its cells disturbed in it. -/
def MxRun.upset (x : MxRun) (ups : List MxUpset) : MxRun := (x.cells ups).foldl (x.patch ups) x

/-- The oldest matrix op of a core whose check is open. -/
def Core.mxOpen (c : Core) : Option (Flight × MxRun) :=
  c.flight.findSome? fun f => match f.kind with
    | .mx x => some (f, x)
    | _ => none

/-- Fault counter of array `a` raised by 1, and with it CORE_FAULT.ARRAY_FAULTS (R82, R151). -/
def Pkg.arrayFault (p : Pkg) (k a slate : Nat) : Pkg :=
  (p.addF ⟨.CORE_MX_FAULT, 16 * a + 15, 16 * a, .ro, false, 0⟩ k 1).addF F.CORE_FAULT.ARRAY_FAULTS k 1 |>.noteFault k 3 slate

/-- The record of an array whose recompute mismatched (R151, R160): its first failing pass. -/
def Pkg.checkFail (p : Pkg) (k slate : Nat) (x : MxRun) (again : List MxUpset) (q : MxPass × Nat) : Pkg :=
  let y := q.1.misses x again q.2
  p.event 0x4020 (k / 128) 3 false (p.logIdx k) slate
    (q.1.arr * 2 ^ 14 + b2n (y.1.length == 1 && y.2.length == 1) * 2 ^ 13 + y.1.headD 0 * 2 ^ 7 + y.2.headD 0 * 2 + b2n x.tol)

/-- No matrix op is in flight any more: the engine issues again, with every op committed (R150). -/
def Pkg.mxResume (p : Pkg) (k : Nat) : Pkg :=
  let c := p.core k
  if c.mxStop && c.mxOpen.isNone then (p.landMxs k fun _ => true).onCore k fun c => { c with mxStop := false } else p

/-- The cc for which array `a` recomputes units (R150): each streams its passes again. The spec states no time: DEDUCED (log
entry 120). -/
def MxRun.redoCc (x : MxRun) (redone : List Nat) (a : Nat) : Nat :=
  (x.passes.zipIdx.filter fun q => q.1.arr == a && redone.contains (x.unit q.2)).foldl (fun n q =>
    n + q.1.acts.length * rowCc x.fmt) 0

/-- Recomputes on the arrays of a core from cc `x.due` on (R150, R156): room tone is counted up to them, a paused stream and the
commit of its op come later by the recompute, and nothing issues before every op in flight has committed. -/
def Pkg.recompute (p : Pkg) (k : Nat) (x : MxRun) (redone : List Nat) : Pkg :=
  if redone.isEmpty then p
  else
    (p.toneTo k x.due).onCore k fun c =>
      let late (as : List Nat) : Nat := maxOf (as.map (x.redoCc redone))
      let c := x.arrs.foldl (fun c a =>
        if x.redoCc redone a == 0 then c else c.occupy [a] (max x.due (tget 0 c.mxFree a) + x.redoCc redone a)) c
      let fl := c.flight.map fun f => match f.kind with
        | .mx y => { f with kind := .mx { y with due := y.due + late y.arrs } }
        | _ => f
      let ends := fl.map fun f => match f.kind with
        | .mx y => y.due
        | _ => 0
      { c with flight := fl, mxStop := true,
               ccFree := tset 0 c.ccFree Eng.mx.key (max (tget 0 c.ccFree Eng.mx.key) (maxOf ((x.due + late x.arrs) :: ends))) }

/-- MX_CHECK (R148–R152): the checks of the oldest open op are done, with the disturbances its cells met in the stream
(`first`) and in a recompute (`again`). Units that mismatch are recomputed once and stop the engine's issue; one that
mismatches again taints the banks of its failing passes, raises its array's counter, and each such array logs its first
failing pass. The op commits at its cc; on a core that does not run, at once (R281). -/
def Pkg.mxVerdict (p : Pkg) (k : Nat) (first again : List MxUpset) : Pkg :=
  match (p.core k).mxOpen with
  | none => p
  | some (f, x) =>
    let redone := x.redone first
    let bad := x.failed redone again
    let banks := dedup ((bad.map fun q => q.1.outs.map (·.1)).flatten)
    let p := p.addF F.CORE_MX_STAT.RECOMPUTES k redone.length
    let p := (p.onCore k fun c => { c with flight := c.flight.filter (·.no != f.no) }).recompute k x redone
    let y := x.upset (x.final redone first again)
    let y : MxRun := { y with due := y.due + maxOf (x.arrs.map (x.redoCc redone)) }
    let p := p.onCore k fun c => { c with lateMx := c.lateMx ++ [⟨y, banks, f.brk⟩] }
    let p := (redone.filterMap fun u => bad.find? fun q => x.unit q.2 == u).foldl (fun p q =>
      p.arrayFault k q.1.arr f.slate) p
    let p := ((dedup (bad.map (·.1.arr))).filterMap fun a => bad.find? fun q => q.1.arr == a).foldl (fun p q =>
      p.checkFail k f.slate x again q) p
    if (p.core k).mxStop then p.mxResume k
    else p.landMxs k fun due => (p.core k).st != .run || due ≤ (p.core k).ccOf .mx

/-- ROOM_TONE_WINDOW_END (R156, R157): a gap of the array reaches WINDOW cc; its region ends with a taper that issued room
tone in `cc` of its 64 cc. The spec does not say in how many: an input of the command; DESIGN CHOICE (log entry 126), they are the
first of the 64. -/
def Pkg.roomToneEnd (p : Pkg) (k a cc : Nat) : Pkg :=
  let w := p.getF F.CORE_MX_TONE.ACTIVE k
  if bitOf w a then
    let c := p.core k
    let ends := tget 0 c.mxFree a + p.getF F.CORE_MX_TONE.WINDOW k
    let p := p.toneTo k ends
    let taper := (ends, ends + min 64 cc)
    let p := p.addF F.CORE_MX_STAT.TONE_CC k ((p.core k).toneNew [taper])
    (p.setF F.CORE_MX_TONE.ACTIVE k (putFld w a a 0)).onCore k fun c => { c with tapers := spanInsert taper c.tapers }
  else p

end Sys2Proof.Machine
end

