-- ==== Sys2Proof/Machine/Scalar.lean ====
section
/-! DEFINITION. The scalar ops of the SC slot, layer brackets, steps and program end (R166–R185, R312). -/
namespace Sys2Proof.Machine

/-- An SC op of opcode `opc` executes: what `f` does with its entry. -/
def Pkg.scOp (p : Pkg) (k opc bits : Nat) (f : Entry → Pkg → Pkg) : Pkg :=
  match p.takeSc k (withOpc bits opc) with
  | .no => p
  | .skip q => q
  | .go e q => f e q

/-- A skip of an SC op (R191). -/
def Pkg.skipSc (p : Pkg) (k : Nat) (e : Entry) (code : Nat) : Pkg :=
  p.skipOp k .fe 1 e.bits e.slate e.idx e.brk code (slotDetail .fe e.bits)

/-- The R form: sd = f sa sb (R166, R167). -/
def Pkg.scR (p : Pkg) (k opc bits : Nat) (f : Nat → Nat → Nat) : Pkg :=
  p.scOp k opc bits fun e q =>
    q.onCore k fun c => c.setS (fld e.bits 12 8) (f (scal e.sc (fld e.bits 17 13)) (scal e.sc (fld e.bits 22 18)))

/-- The I form: sd = f sa IMM, IMM sign-extended (R167). -/
def Pkg.scI (p : Pkg) (k opc bits : Nat) (f : Nat → Nat → Nat) : Pkg :=
  p.scOp k opc bits fun e q =>
    q.onCore k fun c => c.setS (fld e.bits 12 8) (f (scal e.sc (fld e.bits 17 13)) (sext64 32 (fld e.bits 63 32)))

/-- Arithmetic shift right of a 64-bit value. -/
def sra64 (a n : Nat) : Nat := ofSigned 64 (toSigned 64 a >>> n)

def Pkg.scAdd (p : Pkg) (k b : Nat) : Pkg := p.scR k 0x01 b fun x y => x + y
def Pkg.scSub (p : Pkg) (k b : Nat) : Pkg := p.scR k 0x02 b fun x y => x + (2 ^ 64 - y)
def Pkg.scAnd (p : Pkg) (k b : Nat) : Pkg := p.scR k 0x03 b fun x y => x &&& y
def Pkg.scOr (p : Pkg) (k b : Nat) : Pkg := p.scR k 0x04 b fun x y => x ||| y
def Pkg.scXor (p : Pkg) (k b : Nat) : Pkg := p.scR k 0x05 b fun x y => x ^^^ y
def Pkg.scShl (p : Pkg) (k b : Nat) : Pkg := p.scR k 0x06 b fun x y => x <<< (y % 64)
def Pkg.scShr (p : Pkg) (k b : Nat) : Pkg := p.scR k 0x07 b fun x y => x >>> (y % 64)
def Pkg.scSra (p : Pkg) (k b : Nat) : Pkg := p.scR k 0x08 b fun x y => sra64 x (y % 64)
def Pkg.scMul (p : Pkg) (k b : Nat) : Pkg := p.scR k 0x09 b fun x y => x * y
def Pkg.scMulhu (p : Pkg) (k b : Nat) : Pkg := p.scR k 0x0A b fun x y => x * y / 2 ^ 64
def Pkg.scSlt (p : Pkg) (k b : Nat) : Pkg := p.scR k 0x0B b fun x y => b2n (toSigned 64 x < toSigned 64 y)
def Pkg.scSltu (p : Pkg) (k b : Nat) : Pkg := p.scR k 0x0C b fun x y => b2n (x < y)
def Pkg.scAddi (p : Pkg) (k b : Nat) : Pkg := p.scI k 0x10 b fun x y => x + y
def Pkg.scAndi (p : Pkg) (k b : Nat) : Pkg := p.scI k 0x11 b fun x y => x &&& y
def Pkg.scOri (p : Pkg) (k b : Nat) : Pkg := p.scI k 0x12 b fun x y => x ||| y
def Pkg.scXori (p : Pkg) (k b : Nat) : Pkg := p.scI k 0x13 b fun x y => x ^^^ y
def Pkg.scShli (p : Pkg) (k b : Nat) : Pkg := p.scI k 0x14 b fun x y => x <<< (y % 64)
def Pkg.scShri (p : Pkg) (k b : Nat) : Pkg := p.scI k 0x15 b fun x y => x >>> (y % 64)
def Pkg.scSrai (p : Pkg) (k b : Nat) : Pkg := p.scI k 0x16 b fun x y => sra64 x (y % 64)

/-- SC.LIH: sd = (IMM << 32) OR sa[31:0]; IMM is not extended (R167). -/
def Pkg.scLih (p : Pkg) (k b : Nat) : Pkg := p.scI k 0x17 b fun x y => (y % 2 ^ 32) * 2 ^ 32 + x % 2 ^ 32

/-! ### Branches (R168, R172, R173) -/

/-- A condition of SC.BRC. -/
def condHolds (c a b : Nat) : Bool :=
  match c with
  | 0 => a == b
  | 1 => a != b
  | 2 => toSigned 64 a < toSigned 64 b
  | 3 => toSigned 64 b ≤ toSigned 64 a
  | 4 => a < b
  | _ => b ≤ a

/-- A branch executes: fetch waits until it is resolved, then goes to its target or to the next bundle. -/
def Pkg.scBranch (p : Pkg) (k opc bits : Nat) (takes : Entry → Bool) : Pkg :=
  p.scOp k opc bits fun e q =>
    let t := if takes e then (branchTarget e.bits e.idx e.sc).toNat else e.idx + 1
    q.onCore k fun c => { c with fe := { c.fe with hold := .branch t } }

def Pkg.scBr (p : Pkg) (k b : Nat) : Pkg := p.scBranch k 0x20 b fun _ => true

def Pkg.scBrc (p : Pkg) (k b : Nat) : Pkg :=
  p.scBranch k 0x21 b fun e => condHolds (fld e.bits 10 8) (scal e.sc (fld e.bits 15 11)) (scal e.sc (fld e.bits 20 16))

def Pkg.scBri (p : Pkg) (k b : Nat) : Pkg := p.scBranch k 0x22 b fun _ => true

/-! ### Special registers (R170, R171) -/

/-- Word that SC.RDSR and CORE_BRACKET share (R170). -/
def Pkg.bracketWord (p : Pkg) (k : Nat) : Nat :=
  p.getF F.CORE_BRACKET.OPEN k * 2 ^ 24 + p.getF F.CORE_BRACKET.GROUP k * 2 ^ 16 + p.getF F.CORE_BRACKET.LAYER k

def Pkg.stepNo (p : Pkg) (k : Nat) : Nat := (p.reg .CORE_STEP k).toNat

/-- SC.RDSR. -/
def Pkg.scRdsr (p : Pkg) (k b : Nat) : Pkg :=
  p.scOp k 0x38 b fun e q =>
    let c := q.core k
    let v := match fld e.bits 16 13 with
      | 0 => (q.logicalOf k).getD k
      | 1 => q.stepNo k
      | 2 => q.time
      | 3 => q.bracketWord k
      | 4 => q.fuse.grade
      | 5 => c.fe.seq
      | _ => c.fe.loss
    q.setCore k (c.setS (fld e.bits 12 8) v)

/-- SC.WRSR of LOSS; the first of a step on the loss watch's source core is its sample (R312). -/
def Pkg.scWrsr (p : Pkg) (k b : Nat) : Pkg :=
  p.scOp k 0x39 b fun e q =>
    let v := scal e.sc (fld e.bits 22 18) % 2 ^ 32
    let c := q.core k
    let st := q.stepNo k
    let q := q.setCore k { c with fe := { c.fe with loss := v } }
    let first := c.fe.lossStep != some st
    let q := q.onCore k fun c => { c with fe := { c.fe with lossStep := some st } }
    if first && q.flag F.NUM_LOSS_CFG.EN 0 && q.logicalOf k == some (q.getF F.NUM_LOSS_CFG.SRC 0) then
      { q with lossQ := q.lossQ ++ [(st, v, e.slate)] }
    else q

/-! ### Layer brackets (R177–R181, R294, R304) -/

/-- SC.LOPEN. -/
def Pkg.scLopen (p : Pkg) (k b : Nat) : Pkg :=
  p.scOp k 0x30 b fun e q =>
    let g := fld e.bits 55 48
    let layer := fld e.bits 47 32
    if q.flag F.CORE_BRACKET.OPEN k then q.skipSc k e 0x20
    else if !(q.grpValid g && (match q.logicalOf k with
        | some l => q.isMember g l
        | none => false)) then q.skipOp k .fe 1 e.bits e.slate e.idx e.brk 0x26 (g * 256 + 0x30)
    else
      let q := q.clearRegs [.CORE_BRACKET, .CORE_CVT_FLAGS, .CORE_NUM_BRK0, .CORE_NUM_BRK1, .CORE_NUM_BRK2] k
      let q := (q.setF F.CORE_BRACKET.OPEN k 1).setF F.CORE_BRACKET.GROUP k g
      let q := (q.setF F.CORE_BRACKET.LAYER k layer).setF F.CORE_CVT_FLAGS.LAYER k layer
      let q := q.setF F.CORE_IFAULT.SKIP_STICKY k 0
      q.onCore k fun c => { c with fe := { c.fe with brkNo := c.fe.brkNo + 1 } }

/-- SC.LCLOSE: dispatch is held until every op of the bracket has completed. -/
def Pkg.scLclose (p : Pkg) (k b : Nat) : Pkg :=
  p.scOp k 0x31 b fun e q =>
    if q.flag F.CORE_BRACKET.OPEN k && q.getF F.CORE_BRACKET.LAYER k == fld e.bits 47 32 then
      q.onCore k fun c => { c with fe := { c.fe with hold := .lclose (fld e.bits 12 8) e.slate } }
    else q.skipSc k e 0x21

/-- Has every op of the open bracket completed its writes and landed its counts (R178 step 1)? -/
def Core.bracketDone (c : Core) : Bool :=
  [Eng.ve, .mx, .ld, .st].all (fun e => (c.queue e).all fun x => x.kind == .nop || x.brk != some c.fe.brkNo) &&
    (c.qSy.all fun x => x.nop || x.brk != some c.fe.brkNo) &&
    c.flight.all fun f => f.isPf || f.brk != some c.fe.brkNo

/-- The touched entries of a scale table: tensor id, CUR, CUR_EXC (R295). -/
def Core.touched (c : Core) : List (Nat × Nat × Nat) :=
  (c.sct.filter fun x => x.2.touched).map fun x => (x.1, x.2.cur, x.2.curExc)

/-- What a read of the scale table or of a semaphore meets (R67, R69): the count of a corrected error, or the halt that an
uncorrectable one causes before the reading op acts; else the op acts. -/
def Pkg.sramRead (p : Pkg) (m : Memory) (k kind slate store : Nat) (err : SramErr) (act : Pkg → Pkg) : Pkg :=
  match err with
  | .store _ => p.coreUe m k kind slate store
  | .corrected => act (p.ceCount k kind 1)
  | _ => act p

/-- LCLOSE_REPORT (R178 step 2, R295): flags sampled, CLOSING set, the report sent to the group's collector. -/
def Pkg.lcloseReport (p : Pkg) (m : Memory) (k : Nat) (err : SramErr) : Pkg :=
  let c := p.core k
  match c.fe.hold with
  | .lclose sd slate =>
    if c.st != .run || !c.bracketDone then p
    else p.sramRead m k 1 slate 6 err fun p =>
      let p := p.landAll k
      let r : Report :=
        { core := (p.logicalOf k).getD k, layer := p.getF F.CORE_BRACKET.LAYER k, slate := slate, step := p.stepNo k,
          ovf := p.flag F.CORE_CVT_FLAGS.OVF_STICKY k, nf := p.flag F.CORE_CVT_FLAGS.NF_STICKY k,
          skip := p.flag F.CORE_IFAULT.SKIP_STICKY k, rank := p.getF F.CORE_NUM_BRK2.OVF_RANK k,
          cOvf := p.getF F.CORE_NUM_BRK0.B_OVERFLOW k, cNf := p.getF F.CORE_NUM_BRK0.B_NONFINITE k,
          cUnf := p.getF F.CORE_NUM_BRK1.B_UNDERFLOW k, cRng := p.getF F.CORE_NUM_BRK1.B_RANGE k,
          touched := (p.core k).touched, group := p.getF F.CORE_BRACKET.GROUP k }
      let p := p.setF F.CORE_BRACKET.CLOSING k 1
      let w : Waiter := ⟨.fe, .lclose, 0, 0, false, 0, 0, slate, p.time⟩
      let p := p.onCore k fun c => { c with fe := { c.fe with hold := .outcome sd slate }, waits := c.waits ++ [w] }
      { p with reps := p.reps ++ [r] }
  | _ => p

/-- LCLOSE_OUTCOME (R178 step 3, R223): the outcome for a core arrives and the store engine begins the rind writes. -/
def Pkg.lcloseOutcome (p : Pkg) (k : Nat) : Pkg :=
  let c := p.core k
  match c.fe.hold with
  | .outcome sd slate =>
    match p.outs.find? fun o => some o.core == p.logicalOf k with
    | some o =>
      if c.st != .run then p
      else
        let p := { p with outs := p.outs.erase o }
        p.setCore k { c with fe := { c.fe with hold := .take sd o.word slate }, waits := c.waits.filter (·.eng != .fe) }
    | none => p
  | _ => p

/-- The rind that a committed take entry gets (R223). -/
def TakeEnt.commit (x : TakeEnt) : Nat := if x.taint then invalidMark x.rind else x.rind

/-- TAKE_COMMIT_DONE (R178 step 4, R223): the rinds of the take are written, the outcome word goes to sd and the bracket
closes. -/
def Dev.takeCommit (d : Dev) (k : Nat) : Dev :=
  let c := d.pkg.core k
  match c.fe.hold with
  | .take sd word slate =>
    if c.st != .run then d
    else
      let kind := if isDirKey k then 1 else 0
      let d := if word % 4 == 0 then
          c.take.foldl (fun d x => d.storeRind kind slate (x.1 * 4096) x.2.commit) d
        else d
      let p := (d.pkg.setF F.CORE_BRACKET.OPEN k 0).setF F.CORE_BRACKET.CLOSING k 0
      { d with pkg := p.onCore k fun c =>
          ({ c with take := [], fe := { c.fe with hold := .free } } : Core).setS sd word }
  | _ => d

/-! ### Steps and program end (R182–R184) -/

/-- SC.STEP: dispatch is held until the core has drained. -/
def Pkg.scStep (p : Pkg) (k b : Nat) : Pkg :=
  p.scOp k 0x32 b fun e q =>
    if q.flag F.CORE_BRACKET.OPEN k then q.skipSc k e 0x22
    else q.onCore k fun c => { c with fe := { c.fe with hold := .step e.slate } }

/-- SC.END: fetch stops. -/
def Pkg.scEnd (p : Pkg) (k b : Nat) : Pkg :=
  p.scOp k 0x33 b fun e q => q.onCore k fun c => { c with fe := { c.fe with hold := .ending e.slate } }

/-- Has the core drained: queues empty, every write complete? -/
def Core.drained (c : Core) : Bool := c.queuesEmpty && c.writesDone

/-- PROGRAM_END (R184, R195): the drained core enters HALT with cause 0x1; an open bracket is abandoned and logged. DESIGN
CHOICE (log entry 113): code 0x0023 is logged before code 0x0004. -/
def Pkg.programEnd (p : Pkg) (k : Nat) : Pkg :=
  let c := p.core k
  match c.fe.hold with
  | .ending slate =>
    if c.st != .run || !c.drained then p
    else
      let p := if p.flag F.CORE_BRACKET.OPEN k then
          ((p.landAll k).abandon k).event 0x0023 (k / 128) 1 false (p.logIdx k) slate (slotDetail .fe 0x33)
        else p
      let p := p.skipSummary k slate
      p.haltCore k 1
  | _ => p

/-- The core's own actions of its step boundary (R182, R195, R291): STEP_NO rises, the scale table updates, suppressed
skips are summed up. -/
def Pkg.stepCore (p : Pkg) (k slate : Nat) : Pkg :=
  let p := (p.landAll k).setReg .CORE_STEP k (p.reg .CORE_STEP k + 1)
  (p.onCore k (·.sctBoundary)).skipSummary k slate

end Sys2Proof.Machine
end

