-- ==== Sys2Proof/Machine/MoveOps.lean ====
section
/-! DEFINITION. The shared operations of loads and stores: descriptor reads and head-of-queue checks (R198–R204, R574), the
fill partition's insertion and eviction (R74, R75), padding of packed rows (R96). -/
namespace Sys2Proof.Machine

/-! ### Descriptors -/

/-- Does a descriptor address lie in its space, 64-byte aligned (R203)? -/
def Pkg.descPlace (p : Pkg) (k : Nat) (dsrc : Bool) (a : Nat) : Bool :=
  alignedTo 64 a &&
    (if dsrc then
      match p.place a with
      | .user _ => true
      | .cellar _ => true
      | _ => false
    else a + 64 ≤ p.scratch k)

/-- The bytes of a descriptor and whether the read was bad (R203, R361). -/
def Pkg.descBytes (p : Pkg) (m : Memory) (k : Nat) (dsrc : Bool) (a : Nat) : Got :=
  if dsrc then m.fetch p 7 a 64 else .plain ((p.core k).scrRead a 64) false

/-- What a descriptor read in memory leaves behind. -/
def Pkg.descNote (p : Pkg) (m : Memory) (dsrc : Bool) (a : Nat) : Pkg :=
  if dsrc then (p.noteRead 7 a 64).badDelivery m 7 a 64 7 else p

/-- The descriptor reads of an op as memory serves them (R363): the descriptor's and its scale descriptor's; none while one of
them has to wait. -/
def Pkg.descServed (p : Pkg) (m : Memory) (k : Nat) (dsrc : Bool) (a : Nat) : Option Pkg :=
  if !dsrc || !p.descPlace k dsrc a then some p
  else
    match p.direct 7 false false a 64 with
    | none => none
    | some q =>
      let d := descOf (q.descBytes m k dsrc a).bytes
      if d.blk && d.sdesc != 0 && q.descPlace k dsrc d.sdesc then q.direct 7 false false d.sdesc 64 else some q

/-- The descriptors of an op, read and checked at the head of its queue. -/
structure Heads where
  bad : Bad
  data : Desc
  scale : Option Desc
  deriving DecidableEq, Repr

/-- The smaller of two reasons. -/
def minReason (a b : Option Nat) : Option Nat :=
  match a, b with
  | none, y => y
  | x, none => x
  | some x, some y => some (min x y)

/-- The checks of class 6 of R574 on the descriptor of an op: code 0x0230 with the lowest reason of R204 and R361, then
the format codes. `dataScale`: SCALE = 1 is refused; `self`: the footprint must not overlap itself. -/
def Pkg.heads (p : Pkg) (m : Memory) (k : Nat) (eng : Eng) (bits a : Nat) (dsrc dataScale self : Bool) : Heads :=
  let zero := descOf []
  let fail (r : Nat) : Heads := ⟨some (0x230, moveDetail eng bits r), zero, none⟩
  if !p.descPlace k dsrc a then fail 6
  else
    let g := p.descBytes m k dsrc a
    if g.bad then fail 8
    else
      let d := descOf g.bytes
      let own := d.check dataScale
      let lap := match own with
        | some r => if r < 4 then none else if self && d.overlaps then some 4 else none
        | none => if self && d.overlaps then some 4 else none
      let (sr, sd) : Option Nat × Option Desc :=
        if d.blk && d.sdesc != 0 then
          if !p.descPlace k dsrc d.sdesc then (some 6, none)
          else
            let h := p.descBytes m k dsrc d.sdesc
            if h.bad then (some 8, none)
            else
              let s := descOf h.bytes
              (if d.scaleOk s then none else some 5, some s)
        else (none, none)
      match minReason (minReason own lap) sr with
      | some r => fail r
      | none =>
        let c := fmtCheck d.fmt d.blk
        ⟨if c != 0 then some (c, fmtDetail eng d.fmt d.blk d.bsz) else none, d, sd⟩

/-- What reading the descriptors leaves behind. -/
def Pkg.headNote (p : Pkg) (m : Memory) (k : Nat) (dsrc : Bool) (a : Nat) (h : Heads) : Pkg :=
  if !p.descPlace k dsrc a then p
  else
    let q := p.descNote m dsrc a
    let d := descOf (p.descBytes m k dsrc a).bytes
    if h.scale.isSome || (h.bad.isSome && d.blk && d.sdesc != 0 && p.descPlace k dsrc d.sdesc &&
        !(p.descBytes m k dsrc a).bad) then q.descNote m dsrc d.sdesc else q

/-- Does an op of a move slot name a descriptor in memory? ST.CX, ST.PRESS and LD.INV of all lines read none. -/
def descInMemory (opc bits : Nat) : Bool :=
  (moveOp bits).dsrc && opc != 0x52 && opc != 0x5B && !(opc == 0x42 && bitOf bits 46)

/-- The op of an LD or ST slot issues (R192): `f` runs on its entry. The engine stalls at an op that makes a request or reads
a descriptor in memory while it holds no credit (R33), while memory does not serve its descriptor, and while a line that the load
engine found bad is fetched again (R68). -/
def Dev.moveIssue (d : Dev) (k : Nat) (eng : Eng) (opc bits : Nat) (err : SramErr) (f : Entry → Dev → Dev) : Dev :=
  let waits := eng == .ld && (match (d.pkg.core k).ldWait with
    | some l => (d.pkg.core k).refetch.contains l
    | none => false)
  let poor := !(d.pkg.core k).hasCredit eng
  if waits then d else
  match d.pkg.take k eng (withOpc bits opc) with
  | .no => d
  | .skip q => { d with pkg := q }
  | .go e q =>
    let go (q : Pkg) : Dev :=
      let reads := descInMemory opc e.bits
      match (if reads then q.descServed d.mem k true (scal e.sc (moveOp e.bits).sdesc) else some q) with
      | none => d
      | some q =>
        let r := f e { d with pkg := q }
        if poor && (reads || (q.core k).outstanding eng < (r.pkg.core k).outstanding eng) then d else r
    match err with
    | .store s => { d with pkg := (q.putBack k eng e).coreUe d.mem k eng.kind e.slate s.toNat }
    | .corrected => go (q.ceCount k eng.kind 1)
    | .line a =>
      if eng == .ld && thas (q.core k).fill (a.toNat / 512) then
        let q := ((q.putBack k eng e).ceCount k eng.kind 1).onCore k fun c =>
          { c with fill := tdel c.fill (a.toNat / 512), ldWait := some (a.toNat / 512) }
        { d with pkg := q.miss k [a.toNat / 512] }
      else go q
    | .none => go q

/-! ### The fill partition -/

/-- Ways of the fill partition (R70). -/
def Core.fillWays (c : Core) (dir : Bool) : Nat := (if dir then 8 else 24) - c.hdr.scratchWays

/-- Of two candidates, the one with the older fill age. -/
def olderLine (acc : Option (Nat × FillLine)) (x : Nat × FillLine) : Option (Nat × FillLine) :=
  match acc with
  | none => some x
  | some y => if x.2.age < y.2.age then some x else acc

/-- The victim of a full set (R75) and whether its eviction is forced. -/
def victim (ls : List (Nat × FillLine)) : Option (Nat × Bool) :=
  match (ls.filter fun x => !x.2.stream && x.2.cnt == 0).foldl olderLine none with
  | some x => some (x.1, false)
  | none =>
    match (ls.filter (·.2.stream)).foldl olderLine none with
    | some x => some (x.1, true)
    | none =>
      let low := ls.foldl (fun acc x => min acc x.2.cnt) 15
      ((ls.filter fun x => x.2.cnt == low).foldl olderLine none).map fun x => (x.1, true)

/-- A line enters the fill partition, taking a victim where its set is full. -/
def Pkg.fillPut (p : Pkg) (k l : Nat) (x : FillLine) : Pkg :=
  let c := p.core k
  let c1 : Core := { c with tick := c.tick + 1 }
  let put (c : Core) : Core := { c with fill := tins c.fill l { x with age := c1.tick } }
  if thas c.fill l then p.setCore k (put c1)
  else
    let same := c.fill.filter fun y => Config.fillSet y.1 % 256 == Config.fillSet l % 256
    if same.length < c.fillWays (isDirKey k) then p.setCore k (put c1)
    else
      match victim same with
      | some (v, forced) =>
        let p := p.setCore k (put { c1 with fill := tdel c1.fill v })
        if forced then p.addF F.CORE_TC_STAT.FORCED_EVICT k 1 else p
      | none => p

/-- A load finds a line present (R74): a hint of 0–14 sets the count and clears STREAM; the age is renewed. -/
def Core.fillTouch (c : Core) (l hint : Nat) : Core :=
  match tfind c.fill l with
  | none => c
  | some x =>
    let y := if hint == 15 then x else { x with cnt := hint, stream := false }
    { c with fill := tins c.fill l { y with age := c.tick + 1 }, tick := c.tick + 1 }

/-- The 512 bytes of line `i` of a block as a line. -/
def lineBits (bs : List Byte) (off : Nat) : BitVec 4096 := BitVec.ofNat 4096 (ofLe (bytesAt bs off 512))

/-! ### Padding of packed rows (R96) -/

/-- The bits of the last bytes of a packed row of `n` elements that hold elements: byte offset in the row and mask. -/
def padBytes (f n : Nat) : List (Nat × Nat) :=
  let used := n * fmtBits f
  let len := rowBytes f n
  if used == 8 * len then []
  else (List.range 3).filterMap fun i =>
    if i < len then
      let b := len - 1 - i
      if used ≤ 8 * b then some (b, 0) else if used < 8 * b + 8 then some (b, 2 ^ (used - 8 * b) - 1) else none
    else none

/-- Bytes with masks applied at positions. -/
def maskBytes (ps : List (Nat × Nat)) (bs : List Byte) : List Byte :=
  bs.zipIdx.map fun x =>
    match ps.find? (·.1 == x.2) with
    | some q => x.1 &&& BitVec.ofNat 8 q.2
    | none => x.1

/-- The image of packed rows with their padding zero. -/
def cleanRows (f n : Nat) (bs : List Byte) : List Byte :=
  let ps := padBytes f n
  if ps.isEmpty then bs else ((chunksOf (rowBytes f n) bs.length bs).map (maskBytes ps)).flatten

/-- Does the whole footprint lie in caves (R202)? -/
def Pkg.allCave (p : Pkg) (rs : List Run) : Bool := rs.all fun r => (pieces r).all fun q => p.inCave q.addr

end Sys2Proof.Machine
end

