-- ==== Sys2Proof/Machine/Load.lean ====
section
/-! DEFINITION. The load engine: LD.T, LD.PF, LD.INV, the arrival of blocks and lines, refetches (R205–R210, R218, R219,
R222, R225, R227). -/
namespace Sys2Proof.Machine

/-- One tensor of a load: descriptor, footprint, scratch offset, reuse hint. -/
structure LdPart where
  d : Desc
  runs : List Run
  dst : Nat
  hint : Nat
  deriving DecidableEq, Repr

/-- The data tensor and, with BLK = 1, its scale tensor. -/
def ldParts (e : Entry) (h : Heads) : List LdPart :=
  let x := moveOp e.bits
  let part (d : Desc) (off dst : Nat) : LdPart := ⟨d, d.runs off, scal e.sc dst, if d.stream then 15 else x.hint⟩
  part h.data (scal e.sc x.soff) x.sd ::
    (match h.scale with
    | some s => [part s (scal e.sc x.ssoff) x.ssc]
    | none => [])

/-- Is a footprint the one register that a director core may read (R445, R562)? -/
def contFootprint (k : Nat) (l : LdPart) : Bool :=
  isDirKey k && !l.d.rind && l.runs == [⟨0x030000000000 + Reg.off .CLAP_CONT_STATE, 8⟩]

/-- The range checks of a load (class 7 of R574): caves, addresses, scratch ranges. -/
def Pkg.ldRange (p : Pkg) (k : Nat) (e : Entry) (fill inv : Bool) (ps : List LdPart) : Bad :=
  let c := p.core k
  let cave := !inv && ps.any fun l => l.d.cave && !p.allCave l.runs
  let reg := !fill && !inv
  let rs := (ps.filter fun l => !(reg && contFootprint k l)).map (·.runs) |>.flatten
  (Bad.when cave 0x233 (moveDetail .ld e.bits 0)).low
    (Bad.low (p.addrCheck c.hdr.claims rs)
      (if reg then scratchCheck (p.scratch k) (ps.map fun l => ⟨l.dst, l.d.bytes⟩) else none))

/-- The pieces of a run, each within one 512-byte line, with their destinations. -/
def linePieces (r : Run) (dst : Nat) : List Seg :=
  (unitsOf 512 r.addr r.len).map fun u =>
    let lo := max r.addr u
    ⟨lo, min (r.addr + r.len) (u + 512) - lo, dst + (lo - r.addr)⟩

/-- The segments of a tensor packed from its scratch offset on (R207). -/
def LdPart.segs (l : LdPart) : List Seg :=
  (l.runs.zipIdx.map fun x => linePieces x.1 (l.dst + x.2 * l.d.row)).flatten

/-- The masks of the padding bytes of a load's packed rows, by scratch offset (R96). -/
def LdPart.pads (l : LdPart) : List (Nat × Nat) :=
  let ps := padBytes l.d.fmt (l.d.size 0)
  if ps.isEmpty then []
  else (l.runs.zipIdx.map fun x => ps.map fun q => (l.dst + x.2 * l.d.row + q.1, q.2)).flatten

/-- The units still to be read for lines that are absent: whole blocks of rind-protected tensors, single lines
otherwise. -/
def LdPart.units (l : LdPart) (gone : List Nat) : List (Nat × Bool) :=
  let ls := (linesOf l.runs).filter (gone.contains ·)
  if l.d.rind then (dedup (ls.map fun i => i / 8 * 4096)).map fun b => (b, true) else ls.map fun i => (i * 512, false)

/-- Bytes of segments written into scratch, padding zero. -/
def Core.putSegs (c : Core) (pads : List (Nat × Nat)) (ss : List (Seg × List Byte)) : Core :=
  ss.foldl (fun c x =>
    let here := pads.filterMap fun q => if x.1.dst ≤ q.1 && q.1 < x.1.dst + x.1.len then some (q.1 - x.1.dst, q.2) else none
    c.scrPut x.1.dst (if here.isEmpty then x.2 else maskBytes here x.2)) c

/-- Scratch lines of segments. -/
def segLines (ss : List Seg) : List Nat := scrLines (ss.map fun s => ⟨s.dst, s.len⟩)

/-- A load goes in flight, each of its requests leaving for a credit of its engine (R32), or is complete when nothing is
outstanding. -/
def Pkg.ldFlight (p : Pkg) (k : Nat) (e : Entry) (x : LdRun) : Pkg :=
  let no := (p.core k).issueNo
  let p := p.onCore k fun c => { c with issueNo := no + 1 }
  if x.units.isEmpty then
    if x.fill then p else p.onCore k fun c => c.scrClean (x.dsts.map fun d => ⟨d.1, d.2⟩) x.tainted
  else
    (p.onCore k fun c =>
      { c with flight := c.flight ++ [⟨no, .ld, opcOf e.bits, e.slate, e.idx, e.brk, .load x⟩] }).sendReqs
      k .ld no (x.units.map (·.1))

/-- LD.T with DST = 1 and LD.PF: lines present are touched, the others requested (R74, R207, R208). -/
def Pkg.ldFill (p : Pkg) (k : Nat) (e : Entry) (ps : List LdPart) (pf : Bool) : Pkg :=
  let c := p.core k
  let gone := c.absent (dedup (ps.map fun l => linesOf l.runs).flatten)
  let c := ps.foldl (fun c l => (linesOf l.runs).foldl (fun c i => c.fillTouch i l.hint) c) c
  let c := ps.foldl (fun c l => { c with rindBlk := (linesOf l.runs).foldl (fun t i =>
    if gone.contains i then tset false t i l.d.rind else t) c.rindBlk }) c
  let lines := ((ps.map fun l => (linesOf l.runs).map fun i => (i, l.hint)).flatten).filter fun x => gone.contains x.1
  (p.setCore k c).ldFlight k e
    { units := (ps.map (·.units gone)).flatten, lines := lines, segs := [], fill := true, pf := pf, logged := false,
      dsts := [], tainted := [], pads := [] }

/-- LD.T with DST = 0: present lines are copied now, the others requested (R207). -/
def Pkg.ldScratch (p : Pkg) (k : Nat) (e : Entry) (ps : List LdPart) : Pkg :=
  let c := p.core k
  let all := dedup (ps.map fun l => linesOf l.runs).flatten
  let gone := c.absent all
  let segs := (ps.map (·.segs)).flatten
  let pads := (ps.map (·.pads)).flatten
  let now := segs.filter fun s => !gone.contains (s.src / 512)
  let dirty := segLines (now.filter fun s => c.fillTainted [s.src / 512])
  let c1 := c.putSegs pads (now.map fun s => (s, c.fillRead ⟨s.src, s.len⟩))
  let c1 := (c1.scrTaint dirty).fillUsed (all.filter fun i => !gone.contains i)
  (p.setCore k c1).ldFlight k e
    { units := (ps.map (·.units gone)).flatten, lines := gone.map fun i => (i, 0),
      segs := segs.filter fun s => gone.contains (s.src / 512), fill := false, pf := false, logged := false,
      dsts := ps.map fun l => (l.dst, l.d.bytes), tainted := dirty, pads := pads }

/-- The common course of the three LD ops: descriptors and checks, then `go`. LD.INV runs through a data descriptor with SCALE = 1:
R204 refuses that of LD.T, LD.PF and ST.T only (DESIGN CHOICE, log entry 145). -/
def Dev.ldOp (d : Dev) (k opc bits : Nat) (err : SramErr) (fill inv : Bool)
    (go : Entry → List LdPart → Pkg → Pkg) : Dev :=
  d.moveIssue k .ld opc bits err fun e d =>
    let x := moveOp e.bits
    let a := scal e.sc x.sdesc
    let h := d.pkg.heads d.mem k .ld e.bits a x.dsrc (!inv) false
    let p := d.pkg.headNote d.mem k x.dsrc a h
    let fill := fill || (opc == 0x40 && x.alt)
    let ps := ldParts e h
    { d with pkg :=
        match Bad.first [h.bad, p.ldRange k e fill inv ps] with
        | some (code, det) => p.skipHead k .ld e code det
        | none => go e ps p }

/-- LD.T (R207). -/
def Dev.ldT (d : Dev) (k bits : Nat) (err : SramErr) : Dev :=
  d.ldOp k 0x40 bits err false false fun e ps p =>
    if (moveOp e.bits).alt then p.ldFill k e ps false else p.ldScratch k e ps

/-- LD.PF (R208). -/
def Dev.ldPf (d : Dev) (k bits : Nat) (err : SramErr) : Dev :=
  d.ldOp k 0x41 bits err true false fun e ps p => p.ldFill k e ps true

/-- LD.INV (R209). -/
def Dev.ldInv (d : Dev) (k bits : Nat) (err : SramErr) : Dev :=
  if bitOf bits 46 then
    d.moveIssue k .ld 0x42 bits err fun _ d => { d with pkg := d.pkg.onCore k fun c => { c with fill := [] } }
  else
    d.ldOp k 0x42 bits err true true fun _ ps p =>
      p.onCore k fun c => { c with fill := (dedup (ps.map fun l => linesOf l.runs).flatten).foldl tdel c.fill }

/-! ### Arrival -/

/-- What a unit's read delivered: bytes, taint, and the counters and records it raised (R218, R222, R360, R39). -/
structure Arrived where
  bytes : List Byte
  taint : Bool
  corrupt : Bool
  dev : Dev

/-- The read of one unit for core `k`: `whole` a rind-protected block, else one line; `also` lists further lines of the
op, of which a bad granule taints the whole block (R360). -/
def Dev.readUnit (d : Dev) (k a : Nat) (whole : Bool) (also : List Nat) : Arrived :=
  let n := if whole then 4096 else 512
  if d.pkg.place a == .csr then
    let w := leBytes 8 (d.pkg.contWord (d.pkg.stepNo k))
    let o := Reg.off .CLAP_CONT_STATE % 512
    ⟨List.replicate o 0 ++ w ++ List.replicate (504 - o) 0, false, false, d⟩
  else
    let kind := kindOf k a
    let g := d.mem.fetch d.pkg kind a n
    let near := also.any fun i => i / 8 == a / 4096 && d.pkg.badRange (i * 512) 512
    let c := d.pkg.core k
    let stored := d.rind a
    let src := if isDirKey k && (0x020000000000 ≤ a) then 5 else 1
    let check := whole && (tfind c.take (a / 4096)).isNone
    let lost := check && !g.bad && d.pkg.rindBad a
    let d := (Dev.mk d.mem (d.pkg.noteRead kind a n)).badDelivery kind a n src
    let d := if check then d.noteRind kind a src else d
    if g.bad || near || lost then ⟨g.bytes, true, false, d⟩
    else if whole && g.inv then ⟨g.bytes, true, false, { d with pkg := d.pkg.addF F.CORE_RIND_STAT.INVALID k 1 }⟩
    else if !whole then ⟨g.bytes, false, false, d⟩
    else
      match tfind c.take (a / 4096) with
      | some t =>
        if t.rind == rindOf g.bytes then ⟨g.bytes, t.taint, false, d⟩
        else ⟨g.bytes, true, true, { d with pkg := d.pkg.addF F.CORE_RIND_STAT.CORRUPT k 1 }⟩
      | none =>
        match rindCheck stored g.bytes with
        | .valid => ⟨g.bytes, false, false, d⟩
        | .invalid => ⟨g.bytes, true, false, { d with pkg := d.pkg.addF F.CORE_RIND_STAT.INVALID k 1 }⟩
        | .corrupt => ⟨g.bytes, true, true, { d with pkg := d.pkg.addF F.CORE_RIND_STAT.CORRUPT k 1 }⟩

/-- The record of a corrupt rind (R218). -/
def Pkg.corruptRec (p : Pkg) (k kind slate a : Nat) : Pkg :=
  p.event 0x1820 (k / 128) kind false (p.logIdx k) slate (a / 4096 % 2 ^ 16)

/-- A block's lines put into the fill partition (R74, R227): the lines asked for with their hints, every other present
line of a whole block with its count kept. -/
def Pkg.fillFrom (p : Pkg) (k a : Nat) (whole : Bool) (want : List (Nat × Nat)) (bs : List Byte) (taint : Bool) : Pkg :=
  let lines := if whole then (List.range 8).map (a / 512 + ·) else [a / 512]
  lines.foldl (fun p l =>
    let data := lineBits bs (l * 512 - a)
    match tfind (p.core k).fill l, want.find? (·.1 == l) with
    | some x, some w =>
      let y := if w.2 == 15 then x else { x with cnt := w.2, stream := false }
      p.fillPut k l { y with data := data, taint := taint }
    | some x, none => p.fillPut k l { x with data := data, taint := taint }
    | none, some w => p.fillPut k l ⟨data, if w.2 == 15 then 0 else w.2, w.2 == 15, 0, taint⟩
    | none, none => p) p

/-- LD_BLOCK_ARRIVE (R207, R218, R219, R222, R225, R227): the block or line at `a` of the load `no` of core `k` is
read. -/
def Dev.ldArrive (d : Dev) (k no a : Nat) : Dev :=
  match (d.pkg.core k).flightOf no with
  | some ⟨_, _, _, slate, _, _, .load x⟩ =>
    match x.units.find? (·.1 == a) with
    | none => d
    | some (_, whole) =>
      let n := if whole then 4096 else 512
      match d.pkg.comes k .ld no a with
      | none => d
      | some p0 =>
      let d : Dev := { d with pkg := p0 }
      let r := d.readUnit k a whole (x.lines.map (·.1))
      let p := r.dev.pkg
      let log := r.corrupt && !x.logged
      let p := if log then p.corruptRec k 4 slate a else p
      let x1 : LdRun := { x with units := x.units.filter (· != (a, whole)), logged := x.logged || log }
      if x.fill then
        let p := p.fillFrom k a whole (x.lines.filter fun w => a / 512 ≤ w.1 && w.1 * 512 < a + n) r.bytes r.taint
        ⟨r.dev.mem, (p.onCore k fun c => c.setFlight no (if x1.units.isEmpty then none else some (.load x1))).pumpAll k⟩
      else
        let here := x.segs.filter fun s => a ≤ s.src && s.src < a + n
        let rest := x.segs.filter fun s => !(a ≤ s.src && s.src < a + n)
        ⟨r.dev.mem, (p.onCore k fun c =>
          let c := c.putSegs x.pads (here.map fun s => (s, bytesAt r.bytes (s.src - a) s.len))
          let c := c.setFlight no (some (.load { x1 with segs := rest }))
          let c := if r.taint then c.scrTaint (segLines here) else c
          if x1.units.isEmpty then
            let dirty := match c.flightOf no with
              | some ⟨_, _, _, _, _, _, .load y⟩ => y.tainted
              | _ => []
            (c.setFlight no none).scrClean (x.dsts.map fun d => ⟨d.1, d.2⟩) dirty
          else c).pumpAll k⟩
  | _ => d

/-- FILL_REFETCH_DONE (R68, R76, R227): the refetch of a missing line arrives; of a rind-protected block, all missing
lines arrive from one read. A refetched line takes count 0. -/
def Dev.refetch (d : Dev) (k l : Nat) : Dev :=
  let c := d.pkg.core k
  if !c.refetch.contains l then d
  else
    let whole := tget false c.rindBlk l
    let a := if whole then l / 8 * 4096 else l * 512
    match d.pkg.direct (kindOf k a) false whole a (if whole then 4096 else 512) with
    | none => d
    | some p0 =>
    let d : Dev := { d with pkg := p0 }
    let r := d.readUnit k a whole []
    let mine := if whole then c.refetch.filter fun i => i / 8 == l / 8 else [l]
    let p := if r.corrupt then r.dev.pkg.corruptRec k 4 0 a else r.dev.pkg
    let p := p.fillFrom k a whole ((mine.filter fun i => !thas c.fill i).map fun i => (i, 0)) r.bytes r.taint
    ⟨r.dev.mem, p.onCore k fun c => { c with refetch := c.refetch.filter fun i => !mine.contains i }⟩

end Sys2Proof.Machine
end

