-- ==== Sys2Proof/Machine/Store.lean ====
section
/-! DEFINITION. The store engine: ST.T, ST.X and the transfer blocks at both ends, the memory-side atomics, ST.PRESS
(R211–R214, R217, R220, R221, R230–R233, R320–R327). -/
namespace Sys2Proof.Machine

/-! ### Sources -/

/-- A packed source image: its bytes, and whether a range of it is tainted. -/
structure Image where
  bytes : List Byte
  dirty : Nat → Nat → Bool

/-- The source of ST.T and the atomics from a scratch offset or from vector registers on (R213). -/
def Pkg.image (p : Pkg) (k : Nat) (vec : Bool) (a n : Nat) : Image :=
  let c := p.core k
  if vec then
    let regs := List.range (ceilDiv n 256)
    ⟨((regs.map fun i => leBytes 256 (c.vreg (a % 64 + i))).flatten).take n,
      fun o len => regs.any fun i => p.vTaint k (a % 64 + i) && decide (i * 256 < o + len) && decide (o < i * 256 + 256) &&
        len != 0⟩
  else ⟨c.scrRead a n, fun o len => c.scrTainted [⟨a + o, len⟩]⟩

/-- The vector-source check (R213). -/
def vecBad (vec blk : Bool) (a n : Nat) : Bool := vec && (blk || 64 < a % 64 + ceilDiv n 256)

/-- A piece of a store: destination address, position in the image, length; within one block. -/
structure Piece where
  addr : Nat
  pos : Nat
  len : Nat
  deriving DecidableEq, Repr

/-- The pieces of a footprint against its packed image. -/
def piecesOf (rs : List Run) (row : Nat) : List Piece :=
  (rs.zipIdx.map fun x => (pieces x.1).map fun q => ⟨q.addr, x.2 * row + (q.addr - x.1.addr), q.len⟩).flatten

/-- A piece joins others in the order of their addresses. -/
def pieceInsert (q : Piece) : List Piece → List Piece
  | [] => [q]
  | y :: t => if q.addr ≤ y.addr then q :: y :: t else y :: pieceInsert q t

/-- The end of the bytes that pieces, in the order of their addresses, cover without a gap from `a` on. -/
def coveredTo (a : Nat) : List Piece → Nat
  | [] => a
  | q :: t => if q.addr ≤ a then coveredTo (max a (q.addr + q.len)) t else a

/-- Does a footprint cover every byte of every block it touches (R217)? -/
def coversBlocks (ps : List Piece) : Bool :=
  (dedup (ps.map fun q => blockOf q.addr)).all fun b =>
    b + 4096 ≤ coveredTo b ((ps.filter fun q => blockOf q.addr == b).foldl (fun l q => pieceInsert q l) [])

/-! ### ST.T -/

/-- One tensor of a store. -/
structure StPart where
  d : Desc
  runs : List Run
  src : Nat
  deriving DecidableEq, Repr

def stParts (e : Entry) (h : Heads) : List StPart :=
  let x := moveOp e.bits
  ⟨h.data, h.data.runs (scal e.sc x.soff), scal e.sc x.sd⟩ ::
    (match h.scale with
    | some s => [⟨s, s.runs (scal e.sc x.ssoff), scal e.sc x.ssc⟩]
    | none => [])

/-- Range checks of ST.T (class 7 of R574). -/
def Pkg.stRange (p : Pkg) (k : Nat) (e : Entry) (ps : List StPart) : Bad :=
  let c := p.core k
  let x := moveOp e.bits
  let det := moveDetail .st e.bits 0
  let part := ps.any fun l => l.d.rind && !coversBlocks (piecesOf l.runs l.d.row)
  let data := match ps with
    | l :: _ => vecBad x.alt l.d.blk l.src l.d.bytes
    | [] => false
  Bad.first [Bad.when part 0x231 det, Bad.when (ps.any (·.d.cave)) 0x232 det, Bad.when data 0x237 det,
    Bad.low (p.addrCheck c.hdr.claims (ps.map (·.runs)).flatten)
      (if x.alt then none else scratchCheck (p.scratch k) (ps.map fun l => ⟨l.src, l.d.bytes⟩))]

/-- The blocks that a core's take buffer holds or that its stores under way will enter (R221). -/
def Core.takeBlocks (c : Core) : List Nat :=
  c.take.map (·.1) ++ (c.flight.map fun f => match f.kind with
    | .store ws => (ws.filter (·.take)).map fun w => w.addr / 4096
    | _ => []).flatten

/-- The writes of one tensor (R217, R220, R221): whole blocks with their rinds, or pieces that leave the rinds alone, `taint` naming
the blocks that receive tainted bytes. Where a scale footprint overlaps itself, which R214 says of ST.T alone, its first piece wins
(DESIGN CHOICE, log entry 145). -/
def StPart.writes (l : StPart) (im : Image) (inB : Bool) : List WrReq :=
  let ps := piecesOf l.runs l.d.row
  let bytes := cleanRows l.d.fmt (l.d.size 0) im.bytes
  let cut (q : Piece) : List Byte := (bytes.drop q.pos).take q.len
  let blocks := dedup (ps.map fun q => blockOf q.addr)
  (blocks.map fun b =>
    let here := ps.filter fun q => blockOf q.addr == b
    let t := here.any fun q => im.dirty q.pos q.len
    if l.d.rind then
      let data := (List.range 4096).map fun i =>
        match here.find? fun q => q.addr ≤ b + i && b + i < q.addr + q.len with
        | some q => bytes.getD (q.pos + (b + i - q.addr)) 0
        | none => 0
      let data := match here with
        | [q] => cut q
        | _ => data
      [⟨b, data, if inB || t then .invalid else .correct, inB, t⟩]
    else here.map fun q => ⟨q.addr, cut q, .keep, false, t⟩).flatten

/-- The writes of an op, each block judged once (R220): every write of a block that receives a tainted byte leaves the invalid mark,
and the first of them counts the block. -/
def settleTaint (ws : List WrReq) : List WrReq :=
  let bad (w : WrReq) : Bool := ws.any fun v => v.taint && blockOf v.addr == blockOf w.addr
  ws.zipIdx.map fun x =>
    if bad x.1 then
      { x.1 with rind := .invalid, taint := (ws.take x.2).all fun v => blockOf v.addr != blockOf x.1.addr }
    else x.1

/-- The writes of ST.T: of its tensors, each from its image. -/
def stWrites (ps : List (StPart × Image)) (inB : Bool) : List WrReq :=
  settleTaint (ps.map fun l => l.1.writes l.2 inB).flatten

/-- An op of the store engine goes in flight, each of its requests leaving for a credit of its engine (R32). -/
def Pkg.stFlight (p : Pkg) (k : Nat) (e : Entry) (x : FKind) : Pkg :=
  let no := (p.core k).issueNo
  (p.onCore k fun c =>
    { c with flight := c.flight ++ [⟨no, .st, opcOf e.bits, e.slate, e.idx, e.brk, x⟩], issueNo := no + 1 }).sendReqs
    k .st no x.requests

/-- ST.T. -/
def Dev.stT (d : Dev) (k bits : Nat) (err : SramErr) : Dev :=
  d.moveIssue k .st 0x50 bits err fun e d =>
    let x := moveOp e.bits
    let a := scal e.sc x.sdesc
    let h := d.pkg.heads d.mem k .st e.bits a x.dsrc true true
    let p := d.pkg.headNote d.mem k x.dsrc a h
    let ps := stParts e h
    let inB := p.inBracket k e.brk
    let c := p.core k
    let full := inB && 8192 < (dedup (c.takeBlocks ++ (ps.map fun l =>
      if l.d.rind then (piecesOf l.runs l.d.row).map fun q => q.addr / 4096 else []).flatten)).length
    { d with pkg :=
        match Bad.first [h.bad, p.stRange k e ps, Bad.when full 0x234 (moveDetail .st e.bits 0)] with
        | some (code, det) => p.skipHead k .st e code det
        | none =>
          p.stFlight k e (.store (stWrites (ps.map fun l => (l, p.image k x.alt l.src l.d.bytes)) inB)) }

/-- A block enters the take buffer (R221). -/
def Pkg.takeEnter (p : Pkg) (k b r : Nat) (t : Bool) : Pkg :=
  let p := p.onCore k fun c => { c with take := tins c.take b ⟨r, t⟩ }
  p.setF F.CORE_TAKE.HIGH k (max (p.getF F.CORE_TAKE.HIGH k) (p.core k).take.length)

/-- Has the store engine an earlier op with an outstanding request to the same data (R29, R210, R325, R363)? -/
def Core.behind (c : Core) (no a n : Nat) (whole : Bool) : Bool :=
  c.flight.any fun f => f.eng == .st && decide (f.no < no) && (match f.kind with
    | .store ws => ws.any fun w => touchSame w.addr w.data.length (w.rind != .keep) a n whole
    | .atomic x => x.blocks.any fun y => touchSame y.blk 4096 true a n whole
    | _ => false)

/-- STORE_DONE (R214, R220, R221, R225, R226): the write at `a` of the store `no` is performed; the op is complete with its
last write. A piece of a RIND = 0 store, within one block, is performed in one step, though R226 makes only its granules atomic: DESIGN
CHOICE (log entry 145). -/
def Dev.storeDone (d : Dev) (k no a : Nat) : Dev :=
  match (d.pkg.core k).flightOf no with
  | some ⟨_, _, _, slate, _, brk, .store ws⟩ =>
    match ws.find? (·.addr == a) with
    | none => d
    | some w =>
      let n := w.data.length
      let whole := w.rind != .keep
      if (d.pkg.core k).behind no a n whole then d else
      match d.pkg.comes k .st no a with
      | none => d
      | some p0 =>
      let d := ({ d with pkg := p0 } : Dev).store (kindOf k a) slate a w.data w.rind
      let p := if w.taint then d.pkg.addF F.CORE_TAKE.TAINT_STORES k 1 else d.pkg
      let p := if w.take && p.inBracket k brk then p.takeEnter k (a / 4096) (rindOf w.data) w.taint else p
      let rest := ws.erase w
      ⟨d.mem, (p.onCore k fun c => c.setFlight no (if rest.isEmpty then none else some (.store rest))).pumpAll k⟩
  | _ => d

/-! ### ST.X (R230–R233) -/

/-- The reasons of R231 found at the head of the queue. -/
def Pkg.xfReason (p : Pkg) (h : Desc) (rs : List Run) : Option Nat :=
  if !h.rind then some 1
  else if !(rs.all fun r => p.userRange r.addr r.len) then some 2
  else if h.bytes % 4096 != 0 then some 4
  else none

/-- The blocks read for a send: block address, bytes, taint. -/
structure SrcBlk where
  addr : Nat
  bytes : List Byte
  taint : Bool
  deriving DecidableEq, Repr

/-- The source blocks of a send, read whole and checked (R218, R231, R360); a corrupt rind is logged once. -/
def Dev.readBlocks (d : Dev) (k slate : Nat) : List Nat → Bool → List SrcBlk × Dev
  | [], _ => ([], d)
  | b :: bs, logged =>
    let r := d.readUnit k b true []
    let d := if r.corrupt && !logged then { r.dev with pkg := r.dev.pkg.corruptRec k 5 slate b } else r.dev
    let t := d.readBlocks k slate bs (logged || r.corrupt)
    (⟨b, r.bytes, r.taint⟩ :: t.1, t.2)

/-- Bytes of a range from source blocks. -/
def fromBlocks (bs : List SrcBlk) (q : Run) : List Byte :=
  match bs.find? fun b => b.addr == blockOf q.addr with
  | some b => (b.bytes.drop (q.addr - b.addr)).take q.len
  | none => List.replicate q.len 0

/-- A block to send, with its rind or the invalid mark (R220). -/
def XBlk.make (addr : Nat) (data : List Byte) (taint : Bool) : XBlk :=
  ⟨addr, if taint then invalidMark (rindOf data) else rindOf data, data⟩

/-- A block that no route reaches, or that was discarded or refused on the way (R232, R387): counted and logged. -/
def Pkg.blockFailed (p : Pkg) (k slate pkg reason : Nat) : Pkg :=
  (p.addF F.CORE_XF_STAT.FAILED k 1).event 0x1822 (k / 128) 5 false (p.logIdx k) slate (reason * 4096 + pkg)

/-- ST.X. DESIGN CHOICES (log entry 145): it reads its source blocks in the step in which it issues, as ST.T its source image, and a
tainted block counts in TAINT_STORES then, though no route reaches its destination or that refuses it later. -/
def Dev.stX (d : Dev) (k bits : Nat) (err : SramErr) : Dev :=
  d.moveIssue k .st 0x51 bits err fun e d =>
    let x := moveOp e.bits
    let a := scal e.sc x.sdesc
    let h := d.pkg.heads d.mem k .st e.bits a x.dsrc false false
    let d : Dev := { d with pkg := d.pkg.headNote d.mem k x.dsrc a h }
    let rs := h.data.runs (scal e.sc x.soff)
    let bad := Bad.first [h.bad, (d.pkg.xfReason h.data rs).map fun r => (0x235, moveDetail .st e.bits r)]
    match bad with
    | some (code, det) => { d with pkg := d.pkg.skipHead k .st e code det }
    | none =>
      let sdst := scal e.sc (fld e.bits 45 41)
      let pkg := sdst / 2 ^ 48
      let tc := fld e.bits 47 46
      let ps := piecesOf rs h.data.row
      let (src, d) := d.readBlocks k e.slate (dedup (ps.map fun q => blockOf q.addr)) false
      let bytes := cleanRows h.data.fmt (h.data.size 0) (ps.map fun q => fromBlocks src ⟨q.addr, q.len⟩).flatten
      let blocks := (List.range (h.data.bytes / 4096)).map fun i =>
        let t := ps.any fun q => decide (q.pos < i * 4096 + 4096) && decide (i * 4096 < q.pos + q.len) &&
          src.any fun b => b.addr == blockOf q.addr && b.taint
        (XBlk.make ((sdst % 2 ^ 48 + i * 4096) % 2 ^ 48) ((bytes.drop (i * 4096)).take 4096) t, t)
      let p := d.pkg.addF F.CORE_TAKE.TAINT_STORES k (blocks.filter (·.2)).length
      let xs := blocks.map (·.1)
      if !p.reaches pkg then
        { d with pkg := xs.foldl (fun q _ => (q.noRoute pkg).blockFailed k e.slate pkg 1) (p.onCore k fun c => { c with issueNo := c.issueNo + 1 }) }
      else
        { d with pkg := p.stFlight k e (.xfer pkg tc xs) }

/-- A block of a flight op is done with: acknowledged or refused. -/
def Core.dropBlock (c : Core) (no a : Nat) : Core :=
  match c.flightOf no with
  | some ⟨_, _, _, _, _, _, .xfer pkg tc bs⟩ =>
    let r := bs.filter (·.addr != a)
    c.setFlight no (if r.isEmpty then none else some (.xfer pkg tc r))
  | some ⟨_, _, _, _, _, _, .cx pkg g s dg n bs⟩ =>
    let r := bs.filter (·.addr != a)
    c.setFlight no (if r.isEmpty then none else some (.cx pkg g s dg n r))
  | _ => c

/-- The acknowledgement (`reason` 0) or refusal of a transfer block reaches its sender (R232). -/
def Pkg.xfAck (p : Pkg) (k no a reason : Nat) : Pkg :=
  match (p.core k).flightOf no with
  | some ⟨_, _, _, slate, _, _, .xfer pkg _ bs⟩ =>
    if !bs.any (·.addr == a) then p
    else
      let p := (p.onCore k fun c => c.dropBlock no a).pumpAll k
      if reason == 0 then p.addF F.CORE_XF_STAT.BLOCKS k 1 else p.blockFailed k slate pkg reason
  | _ => p

/-- The outstanding blocks of an op for a package and class. -/
def FKind.blocksTo (pkg tc : Nat) : FKind → List Nat
  | .xfer q t bs => if q == pkg && t == tc then bs.map (·.addr) else []
  | .cx q _ _ _ _ bs => if q == pkg && tc == 1 then bs.map (·.addr) else []
  | _ => []

/-- Is a block of op `no`, sent by its credit, the next that the store engine's order in a class delivers to a package (R29, R32)? -/
def Core.firstBlock (c : Core) (pkg tc no a : Nat) : Bool :=
  !(c.unsent.any fun r => r.eng == .st && r.no == no && r.addr == a) &&
    match c.flight.find? fun f => !(f.kind.blocksTo pkg tc).isEmpty with
    | some f => f.no == no && (f.kind.blocksTo pkg tc).head? == some a
    | none => false

/-- Key of the mark of a sending engine and class (R272). -/
def markKey (pkg core tc : Nat) : Nat := (pkg * 512 + core) * 4 + tc

/-- Why a hub refuses a block for an address: 0 not at all, 0x2 address, 0x3 vat not READY, 0x4 cave (R232); firmware
copies enter caves (R472). -/
def Pkg.xfRefusal (p : Pkg) (a : Nat) (fw : Bool) : Nat :=
  match p.place a with
  | .user v => if !alignedTo 4096 a then 2 else if !p.vatReady v then 3 else if p.inCave a && !fw then 4 else 0
  | _ => 2

/-- A transfer block at its destination hub (R232): checked against its carried rind, written or refused; answers 0 or
the refusal's reason. -/
def Dev.xfWrite (d : Dev) (src core tc : Nat) (fw : Bool) (x : XBlk) : Nat × Dev :=
  let r := d.pkg.xfRefusal x.addr fw
  if r != 0 then
    let p := d.pkg.event 0x1821 (vatOfAddr x.addr % 4) 5 false 0 0 (r * 4096 + src)
    (r, { d with pkg := { p with marks := tset false p.marks (markKey src core tc) true } })
  else (0, d.store (if fw then 6 else 4) 0 x.addr x.data (if rindOf x.data == x.rind then .correct else .invalid))

/-- XF_BLOCK_ARRIVE (R232). A copy within the package takes the block that its own store engine holds and is acknowledged
at once; the block of another package is as the message carries it, and its acknowledgement is sent. -/
def Dev.xfArrive (d : Dev) (src core tc no : Nat) (fw : Bool) (x : XBlk) : Dev :=
  if src == d.pkg.pkgId && !fw then
    match d.pkg.physOf core with
    | none => d
    | some k =>
      match (d.pkg.core k).flightOf no with
      | some ⟨_, _, _, _, _, _, .xfer pkg t bs⟩ =>
        match bs.find? (·.addr == x.addr) with
        | some y =>
          if pkg == src && t == tc && (d.pkg.core k).firstBlock pkg tc no y.addr then
            match d.pkg.direct 4 true true y.addr 4096 with
            | none => d
            | some p =>
              let r := ({ d with pkg := p } : Dev).xfWrite src core tc false y
              { r.2 with pkg := r.2.pkg.xfAck k no y.addr r.1 }
          else d
        | none => d
      | _ => d
  else if x.data.length != 4096 then d
  else
    match d.pkg.direct (if fw then 6 else 4) true true x.addr 4096 with
    | none => d
    | some p =>
    let r := ({ d with pkg := p } : Dev).xfWrite src core tc fw x
    { r.2 with pkg := r.2.pkg.send (if r.1 == 0 then .xfAck else .xfRefuse) src [core, no, x.addr, r.1] }

/-! ### Memory-side atomics (R320–R326) -/

/-- Does an atomic accept the form (R322)? -/
def atomForm (opc f : Nat) (blk : Bool) : Bool :=
  !blk && (f == fmtFP32 || (opc == 0x58 && (f == fmtBF16 || f == fmtINT32 || f == fmtINT64)))

/-- The form that the descriptor in memory names, if it can be read: class 5 of R574. -/
def Pkg.atomFmt (p : Pkg) (m : Memory) (k opc a : Nat) (dsrc : Bool) (bits : Nat) : Bad :=
  if !p.descPlace k dsrc a then none
  else
    let g := p.descBytes m k dsrc a
    if g.bad then none
    else
      let d := descOf g.bytes
      Bad.when (!atomForm opc d.fmt d.blk) 0x250 (slotDetail .st bits)

/-- The elements of an atomic: address, source bits, position in the image. -/
def atomElems (h : Desc) (rs : List Run) (im : Image) : List (Nat × Nat × Nat) :=
  let n := h.size 0
  let w := fmtBits h.fmt / 8
  (rs.zipIdx.map fun x => (List.range n).map fun i =>
    let pos := x.2 * h.row + i * w
    (x.1.addr + i * w, leAt im.bytes pos w, pos)).flatten

/-- An atomic op issues: its requests by block. -/
def Dev.stAtomic (d : Dev) (k opc bits : Nat) (err : SramErr) : Dev :=
  d.moveIssue k .st opc bits err fun e d =>
    let x := moveOp e.bits
    let a := scal e.sc x.sdesc
    let h := d.pkg.heads d.mem k .st e.bits a x.dsrc true false
    let form := d.pkg.atomFmt d.mem k opc a x.dsrc e.bits
    let p := d.pkg.headNote d.mem k x.dsrc a h
    let rs := h.data.runs (scal e.sc x.soff)
    let src := scal e.sc x.sd
    let range := Bad.first [Bad.when h.data.cave 0x232 (moveDetail .st e.bits 0),
      Bad.when (vecBad x.alt false src h.data.bytes) 0x237 (moveDetail .st e.bits 0),
      Bad.when (!(rs.all fun r => (pieces r).all fun q => p.isUser q.addr)) 0x251 (slotDetail .st e.bits),
      if x.alt then none else scratchCheck (p.scratch k) [⟨src, h.data.bytes⟩]]
    { d with pkg :=
        match Bad.first [form, h.bad, range] with
        | some (code, det) => p.skipHead k .st e code det
        | none =>
          let im := p.image k x.alt src h.data.bytes
          let es := atomElems h.data rs im
          let w := fmtBits h.data.fmt / 8
          let blocks := (dedup (es.map fun q => blockOf q.1)).map fun b =>
            let here := es.filter fun q => blockOf q.1 == b
            ABlk.mk b (here.map fun q => (q.1, q.2.1)) (here.any fun q => im.dirty q.2.2 w)
              (here.any fun q => b + 4096 < q.1 + w && im.dirty q.2.2 w)
          p.stFlight k e (.atomic ⟨opc, h.data.fmt, h.data.rind, blocks, false⟩) }

def Dev.stAadd (d : Dev) (k bits : Nat) (err : SramErr) : Dev := d.stAtomic k 0x58 bits err
def Dev.stAmax (d : Dev) (k bits : Nat) (err : SramErr) : Dev := d.stAtomic k 0x59 bits err
def Dev.stAmin (d : Dev) (k bits : Nat) (err : SramErr) : Dev := d.stAtomic k 0x5A bits err

/-- One element's update: new bits and whether a finite result saturated (R323). -/
def atomOp (opc f old src : Nat) : Nat × Bool :=
  if f == fmtINT32 then ((old + src) % 2 ^ 32, false)
  else if f == fmtINT64 then ((old + src) % 2 ^ 64, false)
  else
    let a := decF f old
    let b := decF f src
    let v := if opc == 0x59 then a.max b else if opc == 0x5A then a.min b else a.add b
    let r := encFP f v
    (r.bits, v.isFin && r.ovf)

/-- The elements of a request applied one after another, with the saturations. One that lies in an uncorrectable unit is held
back, and the unit stays as it is (R360; DEDUCED, log entry 130). -/
def Dev.applyElems (opc f : Nat) : List (Nat × Nat) → Dev → Nat → Dev × Nat
  | [], d, n => (d, n)
  | (a, s) :: t, d, n =>
    let w := fmtBits f / 8
    if d.pkg.badRange a w then Dev.applyElems opc f t d n
    else
      let r := atomOp opc f (ofLe (d.mem.view d.pkg a w)) s
      Dev.applyElems opc f t (d.put a (leBytes w r.1)) (n + b2n r.2)

/-- The blocks that a request's elements touch: an element may reach into the next block (R324). -/
def ABlk.touched (y : ABlk) (f : Nat) : List Nat :=
  if y.elems.any fun q => y.blk + 4096 < q.1 + fmtBits f / 8 then [y.blk, y.blk + 4096] else [y.blk]

/-- A touched block as a rind-checked read finds it: its rind's outcome, and whether an uncorrectable unit spoils it. -/
def Dev.blockState (d : Dev) (b : Nat) : RindOut × Bool :=
  (rindCheck (d.rind b) (d.mem.view d.pkg b 4096), d.pkg.badRange b 4096 || d.pkg.rindBad b)

/-- The reads of a request leave their marks: whole blocks with their rinds, or the granules that its elements touch. -/
def Dev.atomNote (d : Dev) (kind : Nat) (x : ARun) (y : ABlk) : Dev :=
  if x.rind then
    (y.touched x.fmt).foldl (fun d b => (({ d with pkg := d.pkg.noteRead kind b 4096 } : Dev).badDelivery kind b 4096 1).noteRind kind b 1) d
  else
    (dedup (y.elems.map fun q => unitsOf 64 q.1 (fmtBits x.fmt / 8)).flatten).foldl (fun d g =>
      ({ d with pkg := d.pkg.noteRead kind g 64 } : Dev).badDelivery kind g 64 1) d

/-- PRESS_ATOMIC_PERFORM (R323–R326, R39, R360, R371, R375): the press unit performs the elements of block `b` of the
atomic `no` of core `k`, behind what its store engine sent to the same data before. A request that touches a cave is dropped
whole. Its requester kind is that of its issuing core: DESIGN CHOICE (log entry 147). -/
def Dev.atomicPerform (d : Dev) (k no b : Nat) : Dev :=
  match (d.pkg.core k).flightOf no with
  | some ⟨_, _, _, slate, _, _, .atomic x⟩ =>
    match x.blocks.find? (·.blk == b) with
    | none => d
    | some y =>
      let bs := y.touched x.fmt
      if (d.pkg.core k).behind no b 4096 true || (bs.drop 1).any (d.pkg.touchBusy k no · 4096 true) then d
      else
        match d.pkg.comes k .st no b with
        | none => d
        | some p0 =>
        let d : Dev := { d with pkg := p0 }
        let rest := x.blocks.filter (·.blk != b)
        let v := vatOfAddr b
        let s := stackOf b
        let fin (d : Dev) (logged : Bool) : Dev :=
          let left := if rest.isEmpty then none else some (.atomic { x with blocks := rest, logged := logged })
          { d with pkg := (d.pkg.onCore k fun c => c.setFlight no left).pumpAll k }
        if !d.pkg.vatReady v then fin { d with pkg := d.pkg.vatDrop v } x.logged
        else match bs.find? fun c => d.pkg.held (stackOf c) with
        | some c => fin { d with pkg := d.pkg.holdDrop (stackOf c) (kindOf k c) } x.logged
        | none =>
          match bs.find? d.pkg.inCave with
          | some c => fin { d with pkg := d.pkg.caveDrop c (kindOf k c) slate } x.logged
          | none =>
            let seen := bs.map fun c => (c, d.blockState c)
            let d := d.atomNote (kindOf k b) x y
            let r := Dev.applyElems x.opc x.fmt y.elems d 0
            let p := (r.1.pkg.addF F.PRESS_STAT.ATOMICS s y.elems.length).addF F.PRESS_STAT2.SAT s r.2
            if !x.rind then fin ⟨r.1.mem, p⟩ x.logged
            else
              let bad := seen.find? fun q => q.2.1 == .corrupt && !q.2.2
              let p := match bad with
                | some q => if x.logged then p else p.event 0x1833 v 0x10 false (stackOf q.1) slate (q.1 / 4096 % 2 ^ 16)
                | none => p
              fin (seen.foldl (fun d q =>
                let now := rindOf (d.mem.view d.pkg q.1 4096)
                let inv := (if q.1 == b then y.taint else y.spill) || q.2.1 != .valid || q.2.2
                d.putRind q.1 (if inv then invalidMark now else now)) ⟨r.1.mem, p⟩) (x.logged || bad.isSome)
  | _ => d

/-! ### ST.PRESS (R327, R329) -/

/-- ST.PRESS: the op joins the queue of the record's vat, or waits in the store engine while 8 ops wait there. -/
def Dev.stPress (d : Dev) (k bits : Nat) (err : SramErr) : Dev :=
  d.moveIssue k .st 0x5B bits err fun e d =>
    let p := d.pkg
    let a := scal e.sc (fld e.bits 20 16)
    let v := vatOfAddr a
    { d with pkg :=
        if !p.vatReady v then (p.vatDrop v).onCore k fun c => { c with issueNo := c.issueNo + 1 }
        else if 8 ≤ (p.vat v).pressQ.length then p.putBack k .st e
        else
          let no := (p.core k).issueNo
          let op : PressOp := ⟨p.pressNo, (p.logicalOf k).getD k, k, no, e.slate, p.stepNo k, a⟩
          let q := p.stFlight k e (.press v p.pressNo)
          { (q.setVat v { q.vat v with pressQ := (q.vat v).pressQ ++ [op] }) with pressNo := p.pressNo + 1 } }

end Sys2Proof.Machine
end

