-- ==== Sys2Proof/Machine/Sync.lean ====
section
/-! DEFINITION. The synchronization engine: gates, signals, waits, decrements, fences, and the watchdog (R262–R283). -/
namespace Sys2Proof.Machine

/-! ### Gates (R266–R268) -/

/-- Is the gate of an SY entry reached: at the head of its engine's queue, or, of the front end, with the SC op of its
bundle executed and no earlier entry of the front end unreached (R267)? -/
def Core.gateReady (c : Core) (e : SyEnt) : Bool :=
  match e.serve with
  | .fe => c.fe.sc.isNone && (c.qSy.find? fun x => x.serve == .fe && x.reached.isNone && !x.nop) == some e
  | s => !c.heldAt s && (match c.queue s with
    | h :: _ => h.kind == .gate e.id
    | [] => false)

/-- The SY entry of an op whose gate is reached now. -/
def Core.readyEnt (c : Core) (bits : Nat) : Option SyEnt :=
  c.qSy.find? fun e => !e.nop && e.reached.isNone && e.bits == bits && c.gateReady e &&
    !(c.waits.any fun w => w.gate == e.id)

/-- A gate presented and reached: from the queues, or as a bundle of its own on an idle engine (see `Pkg.take`). -/
def Pkg.syPresent (p : Pkg) (k opc bits : Nat) (f : SyEnt → Pkg → Pkg) : Pkg :=
  let b := withOpc bits opc
  let c := p.core k
  if c.st != .run then p
  else
    match c.readyEnt b with
    | some e => f e p
    | none =>
      let serve := (syServes b).getD .sy
      if !c.feFree || !c.qSy.isEmpty || !(c.queue serve).isEmpty then p
      else
        let q := p.dispatchSlots k 0 c.fe.ptr (Slots.one .sy b)
        match (q.core k).readyEnt b with
        | some e => f e q
        | none => q.onCore k fun c => (c.popQ serve).endSy (c.gateNo - 1)

/-- The gate of a signal or decrement passed at once (R266): the entry remembers what preceded it. -/
def Core.passMark (c : Core) (e : SyEnt) : Core :=
  let c := if e.serve == .fe then c else c.popQ e.serve
  { c with qSy := c.qSy.map fun x => if x.id == e.id then { x with reached := some c.issueNo } else x }

/-- SY.SIG: its gate is passed. -/
def Pkg.sySig (p : Pkg) (k b : Nat) : Pkg := p.syPresent k 0xC0 b fun e q => q.onCore k (·.passMark e)

/-- SY.DEC: its gate is passed. -/
def Pkg.syDec (p : Pkg) (k b : Nat) : Pkg := p.syPresent k 0xC2 b fun e q => q.onCore k (·.passMark e)

/-- A gate that holds its engine. -/
def SyEnt.waiter (e : SyEnt) (c : Core) (kind : WKind) (sem arg : Nat) (ack : Bool) (now : Nat) : Waiter :=
  ⟨e.serve, kind, sem, arg, ack, e.id, c.issueNo, e.slate, now⟩

/-- SY.WAIT (R262, R274): the count is there and is taken, or the engine is held. -/
def Pkg.syWait (p : Pkg) (m : Memory) (k b : Nat) (err : SramErr) : Pkg :=
  p.syPresent k 0xC1 b fun e q =>
    let x := syOp e.bits
    q.sramRead m k 6 e.slate 5 err fun q => q.onCore k fun c =>
      let w := e.waiter c .wait x.sem x.n false q.time
      if x.n ≤ c.semVal x.sem && c.inTurn e.serve e.id then (c.setSem x.sem (c.semVal x.sem - x.n)).passGate w
      else { c with waits := c.waits ++ [w] }

/-- The watchdog period of core `k` in ns (R279). -/
def Pkg.period (p : Pkg) (k : Nat) : Nat := p.getF F.CORE_WDOG.PERIOD_US k * 1000

/-- An inconsistent time-wait is skipped, and its gate passes (R277). -/
def Pkg.wtimeSkip (p : Pkg) (k : Nat) (e : SyEnt) (w : Waiter) : Pkg :=
  (p.skipOp k .sy 6 e.bits e.slate e.idx e.brk 0x807 ((syOp e.bits).serve * 2 ^ 13)).onCore k (·.passGate w)

/-- SY.WTIME (R277): a time already past passes at once, one beyond the watchdog period is skipped. -/
def Pkg.syWtime (p : Pkg) (k b : Nat) : Pkg :=
  p.syPresent k 0xC3 b fun e q =>
    let t := scal e.sc (syOp e.bits).stg
    let c := q.core k
    let w := e.waiter c .wtime 0 t false q.time
    if t ≤ q.time && c.inTurn e.serve e.id then q.onCore k (·.passGate w)
    else if q.time + q.period k < t && c.inTurn e.serve e.id then q.wtimeSkip k e w
    else q.setCore k { c with waits := c.waits ++ [w] }

/-- The synchronization engine goes on to the next entry of engine `e`, the one before it being complete (R268): a wait that holds
the engine is evaluated, with what the read of its semaphore meets; a time-wait that found its T beyond the watchdog period at its
gate is skipped (R277), one whose T is past passes. -/
def Pkg.nextTurn (p : Pkg) (m : Memory) (k : Nat) (e : Eng) (err : SramErr) : Pkg :=
  let c := p.core k
  match c.waits.find? (·.eng == e) with
  | none => p
  | some w =>
    match w.kind, c.qSy.find? (·.id == w.gate) with
    | .wait, _ => p.sramRead m k 6 w.slate 5 err fun p => p.onCore k (·.evalEng e)
    | .wtime, some x =>
      if c.st != .run || !c.inTurn e w.gate then p
      else if w.since + p.period k < w.arg then p.wtimeSkip k x w
      else if w.arg ≤ p.time then p.onCore k (·.passGate w) else p
    | _, _ => p

/-- Is an op exempt from a fence without ACK: a transfer that R271 lets a signal pass? -/
def Flight.isXfer (f : Flight) : Bool :=
  match f.kind with
  | .xfer _ _ _ => true
  | _ => false

/-- Does a fence release its engine (R278)? -/
def Core.fenceDone (c : Core) (w : Waiter) : Bool :=
  match w.eng with
  | .fe => c.qVe.isEmpty && c.qMx.isEmpty && c.qLd.isEmpty && c.qSt.isEmpty && c.qSy.all (·.id == w.gate) && c.writesDone
  | e => c.flight.all fun f => f.eng != e || w.mark ≤ f.no || f.isPf || (!w.ack && f.isXfer)

/-- SY.FENCE (R278). -/
def Pkg.syFence (p : Pkg) (k b : Nat) : Pkg :=
  p.syPresent k 0xC4 b fun e q =>
    let c := q.core k
    let w := e.waiter c .fence 0 0 (bitOf e.bits 16) q.time
    if c.fenceDone w && c.inTurn e.serve e.id then (q.landEng k w.eng).onCore k fun c => c.passGate w
    else q.setCore k { c with waits := c.waits ++ [w] }

/-- FENCE_RELEASE (R278): the fence at gate `g` releases its engine. -/
def Pkg.fenceRelease (p : Pkg) (k g : Nat) : Pkg :=
  let c := p.core k
  match c.waits.find? fun w => w.kind == .fence && w.gate == g with
  | some w => if c.st == .run && c.fenceDone w && c.inTurn w.eng g then (p.landEng k w.eng).onCore k fun c => c.passGate w else p
  | none => p

/-- WTIME_EXPIRE (R277): the clapper reaches T and the gate passes. -/
def Pkg.wtimeExpire (p : Pkg) (k g : Nat) : Pkg :=
  let c := p.core k
  match c.waits.find? fun w => w.kind == .wtime && w.gate == g with
  | some w => if c.st == .run && c.inTurn w.eng g then { p.setCore k (c.passGate w) with time := max p.time w.arg } else p
  | none => p

/-! ### Signals and decrements (R268–R276) -/

/-- Is an op of the served engine complete for a signal to package `pkg` in class `tc` (R269, R271)? -/
def Flight.doneFor (f : Flight) (pkg tc : Nat) : Bool :=
  f.isPf || match f.kind with
    | .xfer q t _ => tc != 0 && q == pkg && t == tc
    | _ => false

/-- Is every op of the served engine ahead of a passed gate complete, and every earlier entry of that engine gone? -/
def Core.mayLeave (c : Core) (e : SyEnt) (pkg tc : Nat) : Bool :=
  match e.reached with
  | none => false
  | some mark =>
    (c.flight.all fun f => f.eng != e.serve || mark ≤ f.no || f.doneFor pkg tc) &&
      (c.qSy.find? fun x => x.serve == e.serve && !x.nop) == some e

/-- Is the verdict of a loss sample of this core still under way (R314)? -/
def Pkg.lossWaits (p : Pkg) (k : Nat) (e : SyEnt) : Bool :=
  e.serve == .fe && !p.lossQ.isEmpty && p.logicalOf k == some (p.getF F.NUM_LOSS_CFG.SRC 0)

/-- The package that a signal names. -/
def Pkg.sigDst (p : Pkg) (e : SyEnt) : Nat :=
  let x := syOp e.bits
  if x.tgt == 2 then sigPkg (scal e.sc x.stg) else p.pkgId

/-- Signals of a logical core in the package's own network. -/
def Pkg.sigsOf (p : Pkg) (id : Nat) : Nat := (p.sigs.filter fun s => s.srcPkg == p.pkgId && s.src == id && !s.hub).length

/-- No more credits of a logical core's synchronization engine are out than signals that wait in the network (R32). -/
def Pkg.capSync (p : Pkg) (id : Nat) : Pkg :=
  match p.physOf id with
  | some k => p.onCore k fun c => { c with spent := tset 0 c.spent Eng.sy.key (min (tget 0 c.spent Eng.sy.key) (p.sigsOf id)) }
  | none => p

/-- SIGNAL_LEAVE (R32, R33, R269, R271, R273): the signal at gate `g` leaves for its target, for a credit, which comes back once the
network is done with it or the hub has taken it. -/
def Pkg.signalLeave (p : Pkg) (m : Memory) (k g : Nat) (err : SramErr) : Pkg :=
  let c := p.core k
  match c.qSy.find? (·.id == g) with
  | none => p
  | some e =>
    let x := syOp e.bits
    let dst := p.sigDst e
    if opcOf e.bits != 0xC0 || (c.st != .run && c.st != .halt) || !c.mayLeave e dst x.tc || p.lossWaits k e then p
    else
      let p0 := p
      let p := p.landEng k e.serve
      let me := (p.logicalOf k).getD k
      let tgt := if x.tgt == 0 then me else sigCore (scal e.sc x.stg)
      if dst != p.pkgId && !p.reaches dst then
        ((p.skipOp k .sy 6 e.bits e.slate e.idx e.brk 0x806 dst).onCore k (·.endSy g)).nextTurn m k e.serve err
      else if !c.hasCredit .sy || !p.routeUp (k / 128) (if dst != p.pkgId then 4 else k / 128) then p0
      else
        let p := p.onCore k (·.endSy g)
        let p := if dst != p.pkgId then p.send .signal dst [x.tc, me, tgt, x.sem, x.n, e.slate]
          else
            { p.onCore k (·.spend .sy) with
              sigs := p.sigs ++ [⟨p.sigNo, p.pkgId, me, e.serve, tgt, x.sem, x.n, e.slate, x.tc, e.reached.getD 0, false⟩],
              sigNo := p.sigNo + 1 }
        p.nextTurn m k e.serve err

/-- May a signal arrive at a core: it is bound there, its route carries traffic (R28), and signals of one source to one target
keep their order (R29)? -/
def Pkg.sigFirst (p : Pkg) (core : Nat) (s : Sig) : Bool :=
  s.tgt == core && s.tc == 0 && p.routeUp (if s.hub then 4 else s.src / 128) (core / 128) &&
    (p.sigs.find? fun t => t.tgt == s.tgt && t.src == s.src && t.srcPkg == s.srcPkg && t.tc == 0) == some s

/-- Does a signal stand before another of the same cc: local cores before remote ones, then by sending core (R274)? -/
def Pkg.sigBefore (p : Pkg) (a b : Sig) : Bool :=
  let key (s : Sig) : Nat := b2n (s.srcPkg != p.pkgId) * 512 + s.src
  key a < key b

/-- A signal put in its place among those of its cc. -/
def Pkg.sigPlace (p : Pkg) (s : Sig) : List Sig → List Sig
  | [] => [s]
  | t :: r => if p.sigBefore s t then s :: t :: r else t :: p.sigPlace s r

/-- Does the refusal mark of a sending engine and class drop this signal (R272)? The mark is cleared. -/
def Pkg.sigMarked (p : Pkg) (srcPkg src tc : Nat) : Bool := tc != 0 && tget false p.marks (markKey srcPkg src tc)

/-- A signal at the hub of its destination: dropped behind a refused block (R272) or for want of a core (R273), else
forwarded. -/
def Pkg.signalForward (p : Pkg) (s : Sig) (tc : Nat) : Pkg :=
  if p.sigMarked s.srcPkg s.src tc then
    let p := { p with marks := tset false p.marks (markKey s.srcPkg s.src tc) false }
    let p := match p.physOf s.tgt with
      | some k => if p.isCore s.tgt then p.addF F.CORE_SY_STAT.SIG_DROPPED k 1 else p
      | none => p
    p.event 0x0808 (s.tgt / 128) 6 false (s.tgt % 128) s.slate s.srcPkg
  else if !p.isCore s.tgt then p.event 0x0805 (s.tgt / 128) 6 false (s.tgt % 128) s.slate s.srcPkg
  else { p with sigs := p.sigs ++ [{ s with id := p.sigNo, tc := 0, hub := true }], sigNo := p.sigNo + 1 }

/-- REMOTE_SIGNAL_ARRIVE (R271–R273): a signal reaches the destination hub. One from the own package in TC1 or TC2 is the
oldest of its engine and class, and waits for the blocks ahead of it. -/
def Pkg.remoteSignal (p : Pkg) (srcPkg src tc tgt sem n slate : Nat) : Pkg :=
  if srcPkg == p.pkgId then
    match p.sigs.find? fun s => s.src == src && s.tc == tc && tc != 0 with
    | none => p
    | some s =>
      let ahead := match p.physOf src with
        | some k => (p.core k).flight.any fun f => decide (f.no < s.mark) && (match f.kind with
          | .xfer q t _ => q == p.pkgId && t == tc
          | _ => false)
        | none => false
      if ahead || !p.routeUp (src / 128) 4 then p
      else (({ p with sigs := p.sigs.filter (·.id != s.id) }).capSync src).signalForward s tc
  else p.signalForward ⟨0, srcPkg, src, .st, tgt, sem, n, slate, 0, 0, true⟩ tc

/-- May the decrement at gate `g` be applied (R276)? -/
def Pkg.decReady (p : Pkg) (k g : Nat) : Option SyEnt :=
  let c := p.core k
  match c.qSy.find? (·.id == g) with
  | some e => if opcOf e.bits == 0xC2 && (c.st == .run || c.st == .halt) && c.mayLeave e 0 0 then some e else none
  | none => none

/-- A decrement taken by its semaphore, or skipped below 0 (R276). -/
def Pkg.decTake (p : Pkg) (k g : Nat) (e : SyEnt) : Pkg :=
  let x := syOp e.bits
  let p := p.landEng k e.serve
  if (p.core k).semVal x.sem < x.n then
    let p := p.skipOp k .sy 6 e.bits e.slate e.idx e.brk 0x802 (x.serve * 2 ^ 13 + x.sem)
    (p.addF F.CORE_SY_STAT.DEC_UNDERFLOW k 1).onCore k (·.endSy g)
  else p.onCore k fun c => (c.setSem x.sem (c.semVal x.sem - x.n)).endSy g

/-- DEC_APPLY (R276): the decrement at gate `g` is applied. -/
def Pkg.decApply (p : Pkg) (m : Memory) (k g : Nat) (err : SramErr) : Pkg :=
  match p.decReady k g with
  | none => p
  | some e => p.sramRead m k 6 e.slate 5 err fun p => (p.decTake k g e).nextTurn m k e.serve .none

/-- SIGNAL_APPLY (R270, R274, R275): the signal `id` arrives at its target core, in one cc with the signals `more` and the
decrements at the gates `decs`: the signals are added in their order, then the decrements are taken, then the pending
waits are evaluated. -/
def Pkg.signalApply (p : Pkg) (m : Memory) (core id : Nat) (more decs : List Nat) (err : SramErr) : Pkg :=
  match p.sigs.find? (·.id == id) with
  | none => p
  | some s =>
    if !p.sigFirst core s then p
    else
      let ids := dedup (id :: more)
      let y := ids.foldl (fun (y : List Sig × Pkg) i =>
        match y.2.sigs.find? (·.id == i) with
        | some t =>
          if y.2.sigFirst core t then
            let q : Pkg := { y.2 with sigs := y.2.sigs.filter (·.id != i) }
            (y.2.sigPlace t y.1, if t.srcPkg == p.pkgId then q.capSync t.src else q)
          else y
        | none => y) ([], p)
      let add (p : Pkg) : Pkg := y.1.foldl (fun p t => p.signalWith core t Pkg.semAdd) p
      match p.physOf core with
      | none => add y.2
      | some k =>
        if !p.vatReady (core / 128) || (p.core k).st == .swap then add y.2
        else y.2.sramRead m k 6 s.slate 5 err fun p =>
          let z := (dedup decs).foldl (fun (z : List Eng × Pkg) g => match z.2.decReady k g with
            | some e => (z.1 ++ [e.serve], z.2.decTake k g e)
            | none => z) ([], add p)
          let p := (dedup (y.1.map (·.sem))).foldl (fun p n => p.onCore k (·.evalWait n)) z.2
          z.1.foldl (fun p e => p.nextTurn m k e .none) p

/-! ### The watchdog (R279–R282) -/

/-- The waiters of a core in the order of the deadlock report. -/
def Core.waiters (c : Core) : List Waiter :=
  [Eng.fe, .ve, .mx, .ld, .st].filterMap fun e => c.waits.find? (·.eng == e)

/-- Has what releases a waiter arrived by the hub cycle in which its watchdog would fire (R180, R280)? -/
def Pkg.released (p : Pkg) (k : Nat) (w : Waiter) : Bool :=
  let c := p.core k
  match w.kind with
  | .wait => w.arg ≤ c.semVal w.sem && c.inTurn w.eng w.gate
  | .wtime => w.arg ≤ w.since + p.period k && c.inTurn w.eng w.gate
  | .fence => c.fenceDone w && c.inTurn w.eng w.gate
  | .lclose => match c.fe.hold with
    | .cclose _ _ => c.drained
    | _ => p.outs.any fun o => some o.core == p.logicalOf k

/-- WDOG_FIRE (R280–R282, R477): the watchdog of the waiter of engine `e` fires, unless its release has arrived. -/
def Pkg.wdogFire (p : Pkg) (k : Nat) (e : Eng) : Pkg :=
  let c := p.core k
  match c.waits.find? (·.eng == e) with
  | none => p
  | some w =>
    if c.st != .run || p.released k w then p
    else
      let p := { p with time := max p.time (w.since + p.period k) }
      let ws := c.waiters
      let semOf (x : Waiter) : Nat := if x.kind == .wait then x.sem else 0
      let p := p.haltCore k 2
      let p := p.event 0x0810 (k / 128) 6 false (p.logIdx k) 0 ws.length
      let p := ws.foldl (fun p x =>
        p.eventAt x.since 0x0811 (k / 128) 6 false (p.logIdx k) x.slate
          (x.eng.code * 2 ^ 13 + b2n (x.eng == e) * 2 ^ 12 + x.kind.code * 2 ^ 10 + semOf x)) p
      let p := ((p.setF F.CORE_WDOG.FIRED k 1).setF F.CORE_WDOG.ENGINE k w.eng.code).setF F.CORE_WDOG.SEM k (semOf w)
      p.send .haltReport (p.getF F.CLAP_ROLE.TOP_ID 0) [p.pkgId, (p.logicalOf k).getD k]

end Sys2Proof.Machine
end

