-- ==== Sys2Proof/Machine/Coll.lean ====
section
/-! DEFINITION. Collective calls: SC.COPEN, SC.CCLOSE, ST.CX, arrivals, aborts and late-arrival records (R408–R431). -/
namespace Sys2Proof.Machine

/-! ### Descriptor and digest -/

/-- A collective descriptor (R413); `raw` are its 64 bytes. -/
structure CollDesc where
  raw : List Byte
  op : Nat
  fmt : Nat
  rop : Nat
  group : Nat
  root : Nat
  expect : Nat
  count : Nat
  src : Nat
  dst : Nat
  dstLen : Nat
  stg : Nat
  stgLen : Nat
  deriving DecidableEq, Repr

def collDesc (bs : List Byte) : CollDesc :=
  { raw := bs, op := leAt bs 0 1, fmt := leAt bs 1 1, rop := leAt bs 2 1, group := leAt bs 3 1, root := leAt bs 4 1,
    expect := leAt bs 6 2, count := leAt bs 8 8, src := leAt bs 0x10 8, dst := leAt bs 0x18 8, dstLen := leAt bs 0x20 8,
    stg := leAt bs 0x28 8, stgLen := leAt bs 0x30 4 }

/-- Bytes of an element of a collective's format. -/
def collSize (fmt : Nat) : Nat := if fmt == fmtBF16 then 2 else 4

/-- Are RCRC and the Zero fields right, and OP, FMT and ROP known and allowed together (R413, R416)? -/
def CollDesc.formOk (d : CollDesc) : Bool :=
  leAt d.raw 0x3C 4 == crc32c (d.raw.take 0x3C) && zeroAt d.raw 5 1 && zeroAt d.raw 0x34 8 && d.group < 64 &&
  1 ≤ d.op && d.op ≤ 4 && (d.fmt == fmtFP32 || d.fmt == fmtBF16 || d.fmt == fmtINT32) &&
  (if d.op ≤ 2 then d.rop ≤ 2 else d.rop == 0) && (d.op == 4 || d.root == 0)

/-- The checks of R416 beside the own position's. -/
def Pkg.collDescOk (p : Pkg) (claims n : Nat) (d : CollDesc) : Bool :=
  d.formOk && d.count != 0 && alignedTo 4096 (d.count * collSize d.fmt) &&
  alignedTo 4096 d.src && alignedTo 4096 d.dst && alignedTo 4096 d.dstLen &&
  p.userRange d.src (d.count * collSize d.fmt) && (d.dstLen == 0 || p.userRange d.dst d.dstLen) &&
  alignedTo 4096 d.stg && (d.stgLen == 0 || p.claimedRange claims d.stg d.stgLen) &&
  (d.op != 4 || d.root < n)

/-- The digest of a call (R428). -/
def Pkg.callDigest (p : Pkg) (g seq mask : Nat) (d : CollDesc) : Nat :=
  crcCE (leBytes 1 d.op ++ leBytes 1 d.fmt ++ leBytes 1 d.rop ++
    leBytes 1 (d.group % 64 + p.getF F.COLL_GRP_CFG.LEVEL g * 128) ++ leBytes 1 d.root ++ leBytes 3 0 ++
    leBytes 8 d.count ++ leBytes 4 seq ++ leBytes 1 (p.getF F.COLL_GRP_CFG.NM1 g) ++ leBytes 11 0 ++ leBytes 32 mask)

/-! ### Arrivals and the late-arrival record (R431) -/

/-- The arrival entries of a group's active members: position and time. -/
def Pkg.arrivals (p : Pkg) (g mask : Nat) : List (Nat × Nat) :=
  (p.positions g mask).filterMap fun q =>
    let w := (p.reg .COLL_LATE (g * 256 + q)).toNat
    if bitOf w 63 then some (q, w % 2 ^ 63) else none

/-- The slowest of the entries: latest time, lowest position among equals. -/
def slowest : List (Nat × Nat) → Nat × Nat
  | [] => (0, 0)
  | [x] => x
  | x :: t => let y := slowest t; if y.2 ≤ x.2 then x else y

/-- The late-arrival record of the group's last call is written. -/
def Pkg.lateRecord (p : Pkg) (g kind : Nat) : Pkg :=
  match (p.collGrp g).late with
  | none => p
  | some l =>
    let es := p.arrivals g l.mask
    let n := (p.positions g l.mask).length
    let slow := slowest es
    let first := es.foldl (fun a x => min a x.2) slow.2
    let w0 := 2 ^ 63 + kind * 2 ^ 61 + p.getF F.COLL_GRP_CFG.LEVEL g * 2 ^ 60 + g * 2 ^ 54 + slow.1 * 2 ^ 46 +
      p.member g slow.1 * 2 ^ 34 + (n - 1) % 256 * 2 ^ 26 + (n - es.length) % 256 * 2 ^ 18
    let p := p.setColl g { p.collGrp g with late := some { l with written := true } }
    let p := if p.fifoFits 3 4 then p else p.addF F.COLL_STAT.LATE_LOST 0 1
    p.pushFifo 3 [w0, timeWord first, timeWord slow.2, 2 ^ 63 + l.seq % 2 ^ 32]

/-- Does this member record the group's last call? -/
def Pkg.records (p : Pkg) (g : Nat) : Bool :=
  match (p.collGrp g).late with
  | some l => p.recorder g l.mask == p.getF F.COLL_GRP_CFG.OWN_POS g && !l.written
  | none => false

/-- An arrival noted; the record of a complete call is written when the spread reaches LATE_NS. -/
def Pkg.noteArrival (p : Pkg) (g src time : Nat) : Pkg :=
  match (p.collGrp g).late with
  | none => p
  | some l =>
    let p := match (p.positions g l.mask).find? fun q => p.member g q == src with
      | some q => p.setReg .COLL_LATE (g * 256 + q) (BitVec.ofNat 64 (timeWord time))
      | none => p
    let es := p.arrivals g l.mask
    let slow := slowest es
    let first := es.foldl (fun a x => min a x.2) slow.2
    let aborted := match (p.collGrp g).call with
      | some c => c.aborted
      | none => false
    if p.records g && !aborted && es.length == (p.positions g l.mask).length &&
        p.getF F.COLL_CFG.LATE_NS 0 ≤ slow.2 - first then p.lateRecord g 0
    else p

/-- COLL_ARRIVAL_RECEIVE (R416, R428, R431): an arrival for the last call is noted and its digest compared; one for the
next call waits for it to open; any other differs. -/
def Pkg.arrivalReceive (p : Pkg) (m : Memory) (src g seq digest time : Nat) : Pkg :=
  let x := p.collGrp g
  let last := match x.late with
    | some l => l.seq == seq
    | none => false
  if last then
    let p := p.noteArrival g src time
    if digest == (p.reg .COLL_GRP_DIGEST g).toNat then p
    else if x.call.isSome then p.abortOpen m g 0 src
    else p.abortClosed g 0 src
  else if seq == p.getF F.COLL_GRP_STATE.SEQ_NEXT g then p.setColl g { x with soon := x.soon ++ [⟨src, digest, time⟩] }
  else if x.call.isSome then p.abortOpen m g 0 src
  else p.abortNext g 0 src

/-! ### Opening (R414–R416) -/

/-- SC.COPEN (R414, R415) on a director core: the descriptor is read, once its memory serves it; an accepted op holds dispatch
until the call is registered. A compute core's was refused when it was dispatched (R574). -/
def Pkg.scCopen (p : Pkg) (m : Memory) (k b : Nat) : Pkg :=
  p.scOp k 0x34 b fun e q =>
    let a := scal e.sc (fld e.bits 17 13)
    match q.addrCode (q.core k).hdr.claims a with
    | some code => q.skipSc k e code
    | none =>
      if !alignedTo 64 a || !q.isUser a then q.skipSc k e 0x27
      else
        match q.direct 7 false false a 64 with
        | none => q.onCore k fun c => { c with fe := { c.fe with sc := some e } }
        | some q =>
        let got := m.fetch q 7 a 64
        let q := (q.noteRead 7 a 64).badDelivery m 7 a 64 7
        let d := collDesc got.bytes
        let g := d.group % 64
        if got.bad then q.skipOp k .fe 1 e.bits e.slate e.idx e.brk 0x230 (moveDetail .fe e.bits 8)
        else if 64 ≤ d.group || !q.collValid g || some (q.getF F.COLL_GRP_CFG.DIRECTOR g) != q.logicalOf k then
          q.skipSc k e 0x27
        else if (q.callOf k).isSome then q.skipSc k e 0x28
        else q.onCore k fun c => { c with fe := { c.fe with hold := .copen g (ofLe got.bytes) } }

/-- The call whose COPEN holds core `k` is registered in group `g` (R416): sequence number, mask, digest, arrival time,
arrival message, descriptor checks; then the aborts that already name it, and the digests of its early blocks and
arrivals (R422, R429). -/
def Pkg.openCall (p : Pkg) (m : Memory) (k g : Nat) (d : CollDesc) : Pkg :=
  let x := p.collGrp g
  let seq := p.getF F.COLL_GRP_STATE.SEQ_NEXT g
  let p := p.setF F.COLL_GRP_STATE.SEQ_NEXT g ((seq + 1) % 2 ^ 32)
  let mask := p.collMask g
  let ps := p.positions g mask
  let own := p.getF F.COLL_GRP_CFG.OWN_POS g
  let digest := p.callDigest g seq mask d
  let p := p.setReg .COLL_GRP_DIGEST g (BitVec.ofNat 64 digest)
  let p := (p.setF F.COLL_GRP_STATE.STATE g 1).setF F.COLL_GRP_STATE.ARRIVED g (min x.earlyN d.expect)
  let p := p.setColl g { x with
    call := some ⟨k, seq, mask, digest, d.expect, d.dst, d.dstLen, d.stg, d.stgLen, false, 0, false⟩,
    early := none, earlyN := 0, mark := none, late := some ⟨seq, mask, false, false⟩, soon := [] }
  let p := (List.range 256).foldl (fun q i => q.setReg .COLL_LATE (g * 256 + i) 0) p
  let head := p.recorder g mask
  let p := p.noteArrival g p.pkgId p.time
  let p := if head == own || ps.isEmpty then p else p.send .arrival (p.member g head) [g, seq, digest, p.time]
  let p :=
    match x.mark with
    | some c => p.callAborts m g (c / 2) (c % 2 == 1)
    | none =>
      if !ps.contains own then
        let p := p.event 0x2020 0 0x21 false g 0 (3 * 2 ^ 14 + p.pkgId)
        (p.addF F.COLL_STAT.RAISED 0 1).callAborts m g 3 true
      else if !p.collDescOk (p.core k).hdr.claims ps.length d then p.abortOpen m g 3 p.pkgId
      else
        match x.early with
        | some (dg, src) => if dg != digest then p.abortOpen m g 0 src else if d.expect < x.earlyN then p.abortOpen m g 1 src else p
        | none => if d.expect < x.earlyN then p.abortOpen m g 1 p.pkgId else p
  x.soon.foldl (fun q a =>
    let q := q.noteArrival g a.src a.time
    if a.digest == digest then q else q.abortOpen m g 0 a.src) p

/-- CALL_REGISTER (R416): the hub registers the call of director core `k`, and dispatch goes on. -/
def Pkg.callRegister (p : Pkg) (m : Memory) (k : Nat) : Pkg :=
  let c := p.core k
  match c.fe.hold with
  | .copen g desc =>
    if c.st != .run then p
    else (p.openCall m k g (collDesc (leBytes 64 desc))).onCore k fun c => { c with fe := { c.fe with hold := .free } }
  | _ => p

/-! ### Closing (R417, R418) -/

/-- SC.CCLOSE: dispatch is held until the core has drained; the wait is one of the front end (R279). -/
def Pkg.scCclose (p : Pkg) (k b : Nat) : Pkg :=
  p.scOp k 0x35 b fun e q =>
    match q.callOf k with
    | none => q.skipSc k e 0x29
    | some (g, _) =>
      let w : Waiter := ⟨.fe, .lclose, 0, 0, false, 0, 0, e.slate, q.time⟩
      q.onCore k fun c => { c with fe := { c.fe with hold := .cclose (fld e.bits 12 8) g }, waits := c.waits ++ [w] }

/-- The outcome word of a call (R418). -/
def Call.outcome (c : Call) : Nat :=
  c.seq * 2 ^ 32 + (if c.aborted then c.cause * 4 + b2n c.raiser * 2 + 1 else 0)

/-- The invalid mark over every block of the destination of an aborted call (R417). -/
def Dev.spoilDst (d : Dev) (a n : Nat) : Dev :=
  (unitsOf 4096 a n).foldl (fun d b =>
    if d.pkg.isUser b then d.storeRind 1 0 b (invalidMark (rindOf (d.mem.view d.pkg b 4096))) else d) d

/-- CCLOSE_DRAINED (R417, R431). -/
def Dev.ccloseDrained (d : Dev) (k : Nat) : Dev :=
  let c := d.pkg.core k
  match c.fe.hold with
  | .cclose sd g =>
    if c.st != .run || !c.drained then d
    else
      let p := match (d.pkg.collGrp g).call with
        | some x => if d.pkg.getF F.COLL_GRP_STATE.ARRIVED g != x.expect then d.pkg.abortOpen d.mem g 1 d.pkg.pkgId else d.pkg
        | none => d.pkg
      match (p.collGrp g).call with
      | none => d
      | some x =>
        let d' : Dev := { d with pkg := p }
        let d' := if x.aborted then d'.spoilDst x.dst x.dstLen else d'
        let p := if x.aborted && d'.pkg.records g then d'.pkg.lateRecord g 1 else d'.pkg
        let p := p.callEnds g
        { d' with pkg := p.onCore k fun c =>
          ({ c with fe := { c.fe with hold := .free }, waits := c.waits.filter (·.eng != .fe) } : Core).setS sd x.outcome }
  | _ => d

/-- COLL_ABORT_RECEIVE (R429). -/
def Pkg.abortReceive (p : Pkg) (m : Memory) (g seq cause : Nat) : Pkg :=
  let p := p.addF F.COLL_STAT.RECEIVED 0 1
  let x := p.collGrp g
  let isOpen := match x.call with
    | some c => c.seq == seq
    | none => false
  if isOpen then p.callAborts m g cause false
  else if seq == p.getF F.COLL_GRP_STATE.SEQ_NEXT g && x.mark.isNone then
    p.setColl g { x with mark := some (cause * 2) }
  else p

/-! ### Sending (R420, R421) -/

/-- A run of bytes cut at the borders of 4 KiB blocks. -/
def splitAt4k (q : Run) : List Run :=
  (unitsOf 4096 q.addr q.len).map fun b =>
    let lo := max q.addr b
    ⟨lo, min (q.addr + q.len) (b + 4096) - lo⟩

/-- ST.CX: every block that a memory source touches is read and checked whole (R218, R421). -/
def Dev.stCx (d : Dev) (k bits : Nat) (err : SramErr) : Dev :=
  d.moveIssue k .st 0x52 bits err fun e d =>
    match d.pkg.callOf k with
    | none => { d with pkg := d.pkg.skipHead k .st e 0x253 (moveDetail .st e.bits 1) }
    | some (g, c) =>
      let dst := scal e.sc (fld e.bits 45 41)
      let n := scal e.sc (fld e.bits 40 36)
      let a := scal e.sc (fld e.bits 30 26)
      let pkg := dst / 2 ^ 48
      let addrs := (List.range n).map (a + · * 4096)
      let (src, d) : List SrcBlk × Dev :=
        if bitOf e.bits 31 then
          let r := d.readBlocks k e.slate (unitsOf 4096 a (n * 4096)) false
          (addrs.map fun x => ⟨x, ((splitAt4k ⟨x, 4096⟩).map (fromBlocks r.1)).flatten,
            (unitsOf 4096 x 4096).any fun b => r.1.any fun y => y.addr == b && y.taint⟩, r.2)
        else
          (addrs.map fun x => ⟨x, (d.pkg.core k).scrRead x 4096, (d.pkg.core k).scrTainted [⟨x, 4096⟩]⟩, d)
      let xs := src.zipIdx.map fun x => XBlk.make (dst % 2 ^ 48 + x.2 * 4096) x.1.bytes x.1.taint
      let p := d.pkg.addF F.CORE_TAKE.TAINT_STORES k (src.filter (·.taint)).length
      if !p.reaches pkg then
        let p := p.onCore k fun c => { c with issueNo := c.issueNo + 1 }
        { d with pkg := xs.foldl (fun q _ => (q.noRoute pkg).blockFailed k e.slate pkg 1) p }
      else
        { d with pkg := p.stFlight k e (.cx pkg g c.seq c.digest n xs) }

/-- CX_ACK: the acknowledgement or refusal of a collective block reaches the sender (R421). -/
def Pkg.cxAck (p : Pkg) (k no a : Nat) : Pkg :=
  match (p.core k).flightOf no with
  | some ⟨_, _, _, _, _, _, .cx _ _ _ _ _ _⟩ => (p.onCore k fun c => c.dropBlock no a).pumpAll k
  | _ => p

/-! ### Receiving (R422, R423) -/

/-- Is a block refused (R422): outside the slots that the group's director claims, or inside the staging range of an
open call of another sequence number? -/
def Pkg.cxRefused (p : Pkg) (g seq a : Nat) : Bool :=
  let claims := match p.physOf (p.getF F.COLL_GRP_CFG.DIRECTOR g) with
    | some k => (p.core k).hdr.claims
    | none => 0
  !alignedTo 4096 a || !p.claimedRange claims a 4096 ||
    p.coll.any fun x => match x.2.call with
      | some c => c.seq != seq && decide (c.stg ≤ a) && decide (a < c.stg + c.stgLen)
      | none => false

/-- One more block of an ST.CX has arrived: `ok` says that it was written. -/
def CollGrp.block (x : CollGrp) (src core no : Nat) (ok : Bool) : CollGrp :=
  let fresh : CxRun := ⟨src, core, no, 1, !ok⟩
  { x with cx := match x.cx with
    | some r => if r.src == src && r.core == core && r.no == no then some { r with got := r.got + 1, broken := r.broken || !ok }
        else some fresh
    | none => some fresh }

/-- A signal to a logical core, with what the read of its semaphore meets there (R67, R69). -/
def Pkg.signalRead (p : Pkg) (m : Memory) (id : Nat) (s : Sig) (err : SramErr) : Pkg :=
  match p.physOf id with
  | some k => if !p.vatReady (id / 128) || (p.core k).st == .swap then p.signalTo id s
      else p.sramRead m k 6 s.slate 5 err fun p => p.signalTo id s
  | none => p.signalTo id s

/-- A delivery (R423): ARRIVED rises and RECV_SEM is signalled, or the call aborts on one delivery too many. `now` says
that it counts toward the open call. -/
def Pkg.deliver (p : Pkg) (m : Memory) (g src core : Nat) (now : Bool) (err : SramErr) : Pkg :=
  let dir := p.getF F.COLL_GRP_CFG.DIRECTOR g
  let sig : Sig := ⟨0, src, core, .st, dir, p.getF F.COLL_GRP_CFG.RECV_SEM g, 1, 0, 0, 0, true⟩
  let x := p.collGrp g
  if now then
    let n := p.getF F.COLL_GRP_STATE.ARRIVED g
    let tooMany : Bool := match x.call with
      | some c => decide (c.expect ≤ n)
      | none => true
    if tooMany then p.abortOpen m g 1 src else (p.setF F.COLL_GRP_STATE.ARRIVED g (n + 1)).signalRead m dir sig err
  else
    let n := satAdd 16 x.earlyN 1
    let p := p.setColl g { x with earlyN := n }
    let p := if x.call.isNone then p.setF F.COLL_GRP_STATE.ARRIVED g n else p
    p.signalRead m dir sig err

/-- The delivery of an ST.CX whose last block arrived. -/
def Pkg.cxCount (p : Pkg) (m : Memory) (g src core no count : Nat) (now ok : Bool) (err : SramErr) : Pkg :=
  let x := (p.collGrp g).block src core no ok
  match x.cx with
  | some r =>
    if count ≤ r.got then
      let p := p.setColl g { x with cx := none }
      if r.broken then p else p.deliver m g src core now err
    else p.setColl g x
  | none => p

/-- A block written as under R232, or refused with an abort of its call; answers whether it was refused. -/
def Dev.cxPut (d : Dev) (src core no g seq count : Nat) (now : Bool) (x : XBlk) (err : SramErr) : Bool × Dev :=
  if d.pkg.cxRefused g seq x.addr then
    let p := d.pkg.cxCount d.mem g src core no count now false err
    (true, { d with pkg := if now then p.abortOpen d.mem g 2 src else p.abortNext g 2 src })
  else
    let d := d.store 4 0 x.addr x.data (if rindOf x.data == x.rind then .correct else .invalid)
    (false, { d with pkg := d.pkg.cxCount d.mem g src core no count now true err })

/-- A collective block at its receiving hub (R422): answers whether it was refused. -/
def Dev.cxTake (d : Dev) (src core no g seq digest count : Nat) (x : XBlk) (err : SramErr) : Bool × Dev :=
  let y := d.pkg.collGrp g
  let dropped (p : Pkg) : Bool × Dev := (false, { d with pkg := p })
  match y.call with
  | some c =>
    if c.seq == seq then
      if c.aborted then
        dropped ((d.pkg.addF F.COLL_STAT.DROPS 0 1).cxCount d.mem g src core no count true false err)
      else if c.digest != digest then
        dropped ((d.pkg.cxCount d.mem g src core no count true false err).abortOpen d.mem g 0 src)
      else d.cxPut src core no g seq count true x err
    else if seq == d.pkg.getF F.COLL_GRP_STATE.SEQ_NEXT g then early d y
    else dropped ((d.pkg.addF F.COLL_STAT.DROPS 0 1).abortOpen d.mem g 1 src)
  | none =>
    if seq == d.pkg.getF F.COLL_GRP_STATE.SEQ_NEXT g then early d y
    else dropped ((d.pkg.addF F.COLL_STAT.DROPS 0 1).abortNext g 1 src)
where
  /-- A block for SEQ_NEXT (R422): written; its digest is kept or compared with the first one's. -/
  early (d : Dev) (y : CollGrp) : Bool × Dev :=
    let p := match y.early with
      | none => d.pkg.setColl g { y with early := some (digest, src) }
      | some (dg, _) => if dg == digest then d.pkg else d.pkg.abortNext g 0 src
    Dev.cxPut { d with pkg := p } src core no g seq count false x err

/-- CX_BLOCK_ARRIVE (R422, R423). A block from the own package is the one its store engine holds. -/
def Dev.cxArrive (d : Dev) (src core no g seq digest count : Nat) (x : XBlk) (err : SramErr) : Dev :=
  if src == d.pkg.pkgId then
    match d.pkg.physOf core with
    | none => d
    | some k =>
      match (d.pkg.core k).flightOf no with
      | some ⟨_, _, _, _, _, _, .cx pkg h s dg n bs⟩ =>
        match bs.find? (·.addr == x.addr) with
        | some y =>
          if pkg != src || !(d.pkg.core k).firstBlock pkg 1 no y.addr then d
          else
            let r := d.cxTake src core no h s dg n y err
            { r.2 with pkg := r.2.pkg.cxAck k no y.addr }
        | none => d
      | _ => d
  else if x.data.length != 4096 then d
  else
    let r := d.cxTake src core no g seq digest count x err
    { r.2 with pkg := r.2.pkg.send (if r.1 then .cxRefuse else .cxAck) src [core, no, x.addr] }

end Sys2Proof.Machine
end

