-- ==== Sys2Proof/Machine/Collector.lean ====
section
/-! DEFINITION. The layer-group collectors, the scale table's registers and the loss watch (R285–R306, R312–R316). -/
namespace Sys2Proof.Machine

/-! ### Rounds (R296–R303, R306) -/

/-- Collector state of layer group `g`. -/
def Pkg.lgroup (p : Pkg) (g : Nat) : LGroup := tget LGroup.init p.groups g

def Pkg.setLgroup (p : Pkg) (g : Nat) (x : LGroup) : Pkg := { p with groups := tset LGroup.init p.groups g x }

/-- A CUR as the collector merges it (R289). -/
def curOf (x : Nat) : Nat := if posFinite x then x else 0

/-- The merged entries of a round: tensor id, CUR, CUR_EXC (R297). -/
def mergeTouched (rs : List Report) : List (Nat × Nat × Nat) :=
  let all := (rs.map (·.touched)).flatten
  (dedup (all.map (·.1))).map fun t =>
    let here := all.filter (·.1 == t)
    (t, maxOf (here.map fun x => curOf x.2.1), maxOf (here.map (·.2.2)))

/-- The merge written into a member's scale table; TOUCHED is cleared (R297). -/
def Core.mergeIn (c : Core) (es : List (Nat × Nat × Nat)) : Core :=
  let c := es.foldl (fun c e => c.setEnt e.1 { c.ent e.1 with cur := e.2.1, curExc := e.2.2 }) c
  (c.sct.map (·.1)).foldl (fun c t => c.setEnt t { c.ent t with touched := false }) c

/-- The retake format of a ladder rank (R300). -/
def retakeFmt (rank : Nat) : Nat := if rank == 1 then 0x5 else if rank == 2 then 0x2 else 0x0

/-- What the collector decides (R301): rung, whether a retake is ordered, its rank, whether the ladder's top is met. -/
structure Verdict where
  rung : Nat
  retake : Bool
  rank : Nat
  top : Bool
  deriving DecidableEq, Repr

/-- R301, over the group's pending retake and the round's reports. -/
def LGroup.decide (x : LGroup) (layer : Nat) (rs : List Report) : Verdict :=
  let again := x.pend && x.pLayer == layer
  let rung := if again then x.pRung else 0
  let ovf := rs.filter (·.ovf)
  if ovf.isEmpty then ⟨rung, false, 0, false⟩
  else
    let high := maxOf (ovf.map (·.rank))
    let next := (if again then max high x.pRank else high) + 1
    if next ≤ 3 then ⟨rung, true, next, false⟩ else ⟨rung, false, 0, true⟩

/-- Address of the layer counter entry of a layer in a vat (R306). -/
def layerEntry (v layer : Nat) : Nat := v * 0x4000000000 + 0x3F000000 + 32 * layer

/-- The layer counter entry after a round (R306). -/
def layerCount (old : List Byte) (rs : List Report) (y : Verdict) (step : Nat) : List Byte :=
  let up (o n add : Nat) : List Byte := leBytes n (satAdd (8 * n) (leAt old o n) add)
  let sum (f : Report → Nat) : Nat := rs.foldl (fun a r => a + f r) 0
  let last := y.rung % 4 + b2n (rs.any (·.ovf)) * 4 + b2n (rs.any (·.nf)) * 8 + b2n (rs.any (·.skip)) * 16 + b2n y.top * 32
  up 0 4 (sum (·.cOvf)) ++ up 4 4 (sum (·.cNf)) ++ up 8 4 (sum (·.cUnf)) ++ up 12 4 (sum (·.cRng)) ++ up 16 4 1 ++
    up 20 2 (b2n y.retake) ++ leBytes 1 last ++ leBytes 1 0 ++ leBytes 8 step

/-- The retake record (R303). -/
def retakeRecord (time g layer : Nat) (rs : List Report) (y : Verdict) (step excess : Nat) : List Nat :=
  let ovf := rs.filter (·.ovf)
  let kind := if y.retake then 0 else if y.top then 2 else 1
  let fmt := if y.retake then retakeFmt y.rank else 0
  let w0 := 2 ^ 63 + kind * 2 ^ 61 + y.rung * 2 ^ 59 + fmt * 2 ^ 55 + maxOf (ovf.map (·.rank)) * 2 ^ 53 +
    b2n (rs.any (·.nf)) * 2 ^ 52 + b2n (rs.any (·.skip)) * 2 ^ 51 + g * 2 ^ 40 + excess * 2 ^ 32 + layer * 2 ^ 16 + ovf.length
  let first := (ovf.map (·.core)).foldl min 0x1FF
  let sum := rs.foldl (fun a r => satAdd 32 a r.cOvf) 0
  [w0, timeWord time, timeWord step, 2 ^ 63 + first * 2 ^ 54 + sum]

/-- A complete round (R297, R301, R303, R306): entries merged into every member, the outcome decided, counted and sent. -/
def Dev.roundDone (d : Dev) (g layer : Nat) (rs : List Report) : Dev :=
  let p := d.pkg
  let x := p.lgroup g
  let dir := p.getF F.NUM_GRP_DIR.DIRECTOR g
  let y := x.decide layer rs
  let ms := p.members g
  let es := mergeTouched rs
  let p := ms.foldl (fun p id => match p.physOf id with
    | some k => p.onCore k (·.mergeIn es)
    | none => p) p
  let step := match rs.find? fun r => some r.core == ms.head? with
    | some r => r.step
    | none => 0
  let d := ({ d with pkg := p } : Dev)
  let a := layerEntry (dir / 128) layer
  let d := d.put a (layerCount (d.mem.view d.pkg a 32) rs y step)
  let p := d.pkg.setLgroup g { x with
    layer := none, reports := [], pend := y.retake, pLayer := layer, pRank := y.rank, pRung := y.rung + b2n y.retake }
  let p := if y.retake then p.addF F.NUM_STAT.RETAKES 0 1 else p
  let p := if y.top then (p.addF F.NUM_STAT.TOP 0 1).event 0x1001 (dir / 128) 8 false (dir % 128) 0 layer else p
  let p := if y.retake || y.top || y.rung != 0 then
      let p := if p.fifoFits 1 4 then p else p.addF F.NUM_STAT.RETAKE_LOST 0 1
      p.pushFifo 1 (retakeRecord p.time g layer rs y step (maxOf (es.map (·.2.2))))
    else p
  let word (id : Nat) : Nat := y.rung * 256 + (if y.retake then retakeFmt y.rank * 16 + 1 else 0) +
    b2n (rs.any fun r => r.core == id && r.skip) * 2
  { d with pkg := { p with outs := p.outs ++ ms.map fun id => ⟨id, layer, word id⟩ } }

/-- A report offered to its collector: it joins or opens the round of its layer, or is held behind another's; the reports
held behind a completed round are offered again (R296). -/
def Dev.offer : Nat → Dev → Report → Bool → Dev
  | 0, d, _, _ => d
  | n + 1, d, r, fresh =>
    let g := r.group
    let x := d.pkg.lgroup g
    if x.layer.getD r.layer != r.layer then
      let p := d.pkg.setLgroup g { x with held := x.held ++ [r] }
      { d with pkg := if fresh then
          (p.addF F.NUM_STAT.HELD 0 1).event 0x1003 (r.core / 128) 8 false (r.core % 128) r.slate r.layer
        else p }
    else
      let rs := x.reports.filter (·.core != r.core) ++ [r]
      if (d.pkg.members g).all fun id => rs.any (·.core == id) then
        let d : Dev := { d with pkg := d.pkg.setLgroup g { x with held := [] } }
        x.held.foldl (fun d h => Dev.offer n d h false) (d.roundDone g r.layer rs)
      else { d with pkg := d.pkg.setLgroup g { x with layer := some r.layer, reports := rs } }

/-- REPORT_ARRIVE (R296–R303): the close report of logical core `core` reaches its group's collector, or is dropped at a
vat that is not READY (R39). -/
def Dev.reportArrive (d : Dev) (core : Nat) : Dev :=
  match d.pkg.reps.find? (·.core == core) with
  | none => d
  | some r =>
    let p := { d.pkg with reps := d.pkg.reps.filter (·.core != core) }
    let v := p.getF F.NUM_GRP_DIR.DIRECTOR r.group / 128
    if !p.vatReady v then { d with pkg := p.vatDrop v }
    else Dev.offer ((p.lgroup r.group).held.length + 1) { d with pkg := p } r true

/-! ### Scale-table words (R285, R292) -/

/-- Word `w` of a scale-table entry as CORE_SCT_DATA shows it. -/
def ScEnt.word (e : ScEnt) (w : Nat) : Nat :=
  if w < 8 then (tget 0 e.hist (2 * w + 1)).toNat * 2 ^ 32 + (tget 0 e.hist (2 * w)).toNat
  else if w == 8 then
    e.cur * 2 ^ 32 + e.curExc * 2 ^ 24 + e.corr * 2 ^ 16 + e.hptr * 2 ^ 12 + e.head * 2 ^ 8 + b2n e.ceilEn * 2 + b2n e.touched
  else if w == 9 then e.rhi * 2 ^ 32 + e.rlo
  else 0

/-- Word `w` of a scale-table entry written. -/
def ScEnt.setWord (e : ScEnt) (w v : Nat) : ScEnt :=
  if w < 8 then
    { e with hist := tset 0 (tset 0 e.hist (2 * w) (BitVec.ofNat 32 v)) (2 * w + 1) (BitVec.ofNat 32 (v / 2 ^ 32)) }
  else if w == 8 then
    { e with cur := fld v 63 32, curExc := fld v 31 24, corr := fld v 23 16, hptr := fld v 15 12, head := fld v 11 8,
             ceilEn := bitOf v 1, touched := bitOf v 0 }
  else if w == 9 then { e with rhi := fld v 63 32, rlo := fld v 31 0 }
  else e

/-- CORE_SCT_DATA_WRITE (R292, R453): taken while the physical core is IDLE, HALT or held at its rejoin boundary; the
last of the 2,560 words releases a held core. -/
def Pkg.sctWrite (p : Pkg) (k tid w v : Nat) : Pkg :=
  let c := p.core k
  if 10 ≤ w then p
  else
    let put (c : Core) : Core := c.setEnt tid ((c.ent tid).setWord w v)
    match c.st, c.fe.hold with
    | .run, .rejoin done =>
      let i := tid * 10 + w
      let done := if bitOf done i then done else done + 2 ^ i
      let hold := if done + 1 == 2 ^ 2560 then Hold.free else .rejoin done
      p.setCore k (put { c with fe := { c.fe with hold := hold } })
    | .idle, _ => p.setCore k (put c)
    | .halt, _ => p.setCore k (put c)
    | _, _ => p

/-! ### The loss watch (R312–R316) -/

/-- LOSS_SAMPLE (R313, R314): the oldest sample is judged; the state moves or the sample is flagged, and the verdict
reaches the registers and every vat's press units. -/
def Pkg.lossSample (p : Pkg) : Pkg :=
  match p.lossQ with
  | [] => p
  | (step, v, slate) :: rest =>
    let p := { p with lossQ := rest }
    let x := dec32 v
    let mean := dec32 (p.getF F.NUM_LOSS_STATE.MEAN 0)
    let var := dec32 (p.getF F.NUM_LOSS_STATE.VAR 0)
    let n := p.getF F.NUM_LOSS_STAT.SAMPLES 0
    let d := rnd32 (x.sub mean)
    let above := n != 0 && p.getF F.NUM_LOSS_CFG.WARMUP 0 ≤ n &&
      (rnd32 ((dec32 (p.getF F.NUM_LOSS_CFG.K 0)).mul (rnd32 (sqrtV var)))).lt d
    let nf := !x.isFin
    let flag := nf || above
    let a : FV := .fin false 1 (-(max 1 (p.getF F.NUM_LOSS_CFG.ALPHA 0) : Int))
    let ad := rnd32 (a.mul d)
    let one : FV := .fin false 1 0
    let mean' := if n == 0 then v else (encFP 0 (mean.add ad)).bits
    let var' := if n == 0 then 0
      else (encFP 0 ((rnd32 (one.sub a)).mul (rnd32 ((ad.mul d).add var)))).bits
    let p := if flag then p
      else
        let p := (p.setF F.NUM_LOSS_STATE.MEAN 0 mean').setF F.NUM_LOSS_STATE.VAR 0 var'
        p.setF F.NUM_LOSS_STAT.SAMPLES 0 (min 255 (n + 1))
    let p := (p.setF F.NUM_LOSS_STAT.LAST 0 v).setF F.NUM_LOSS_STAT.NF_LAST 0 (b2n nf)
    let p := (p.setF F.NUM_LOSS_STAT.SPIKE_LAST 0 (b2n flag)).setReg .NUM_LOSS_STEP 0 (BitVec.ofNat 64 step)
    let p := (List.range 4).foldl (fun p i => if p.vatReady i then p.setVat i { p.vat i with verdict := some (step, flag) } else p) p
    if flag then
      (p.addF F.NUM_LOSS_STAT.SPIKES 0 1).event 0x1002 0 0x30 false (p.getF F.NUM_LOSS_CFG.SRC 0 % 128) slate
        (b2n nf * 2 + b2n (!nf && above))
    else p

/-- NUM_LOSS_STATE_WRITE (R316): mean and variance while the source core is not in RUN; SAMPLES is cleared. -/
def Pkg.lossStateWrite (p : Pkg) (w : Nat) : Pkg :=
  if p.runs (p.getF F.NUM_LOSS_CFG.SRC 0) then p
  else (p.setReg .NUM_LOSS_STATE 0 (BitVec.ofNat 64 w)).setF F.NUM_LOSS_STAT.SAMPLES 0 0

/-- NUM_LOSS_SAMPLES_WRITE (R316). -/
def Pkg.lossSamplesWrite (p : Pkg) (n : Nat) : Pkg :=
  if p.runs (p.getF F.NUM_LOSS_CFG.SRC 0) then p else p.setF F.NUM_LOSS_STAT.SAMPLES 0 (n % 256)

end Sys2Proof.Machine
end

