-- ==== Sys2Proof/Machine/MemCtl.lean ====
section
/-! DEFINITION. The stack controllers, the cellar and the repair resources (R346–R378). -/
namespace Sys2Proof.Machine

/-- An event of stack `s` (R378). -/
def Pkg.mcEvent (p : Pkg) (code s detail : Nat) : Pkg := p.event code (s / 4) 0x11 false s 0 detail

/-- A request of op `no` of core `k` is performed, whatever the op is (R210). -/
def Dev.performAt (d : Dev) (k no a : Nat) : Dev := ((d.ldArrive k no a).storeDone k no a).atomicPerform k no a

/-- MEM_READ_SERVICE (R355, R360, R375, R39): the controller serves a read; `errs` have come into memory before. -/
def Dev.memReadService (d : Dev) (c ready : Nat) (errs : List CwErr) : Dev :=
  let p := d.pkg.struck errs
  match p.serveNext c ready false with
  | none => { d with pkg := p }
  | some (r, p) =>
    let d : Dev := { d with pkg := p }
    let v := c / 256
    match r.op with
    | some x => d.performAt x.1 x.2 r.addr
    | none =>
      if !p.vatReady v then { d with pkg := p.vatDrop v }
      else if r.kind != 6 && p.held (c / 64) then { d with pkg := p.holdDrop (c / 64) r.kind }
      else
        let a := if r.rind then blockOf r.addr else r.addr
        let n := if r.rind then 4096 else r.len
        let d : Dev := { d with pkg := (p.decodeRange a n).ueRange d.mem a n 1 }
        if r.rind then d.noteRind r.kind a 1 else d

/-- MEM_WRITE_SERVICE (R356, R371, R375, R39): the controller serves a write; `errs` have come into memory before. -/
def Dev.memWriteService (d : Dev) (c ready : Nat) (errs : List CwErr) : Dev :=
  let p := d.pkg.struck errs
  match p.serveNext c ready true with
  | none => { d with pkg := p }
  | some (r, p) =>
    let d : Dev := { d with pkg := p }
    match r.op with
    | some x => d.performAt x.1 x.2 r.addr
    | none =>
      let data := (r.data ++ List.replicate r.len 0).take r.len
      d.store r.kind r.slate r.addr data (if r.rind then .correct else .keep)

/-- INNER_COUNT_POLL (R354). -/
def Pkg.innerPoll (p : Pkg) (c n : Nat) : Pkg := p.addF F.MC_ERR.INNER c n

/-- SCRUB_READ (R357, R355, R360, R470): the patrol reads the codeword at `a`; `errs` have come into memory before. -/
def Pkg.scrubRead (p : Pkg) (m : Memory) (a : Nat) (errs : List CwErr) : Pkg :=
  let p := p.struck errs
  match p.place a with
  | .user v | .reserved v =>
    if !p.flag F.MC_ERR_CFG.SCRUB_EN 0 || !p.vatReady v then p
    else
      let p := p.decodeRange a 1
      (p.badIn a 1).foldl (fun q u => q.ueMet m u 1 2) p
  | _ => p

/-! ### Marking and retirement (R358, R359) -/

/-- PIN_MARKED (R358): a pin's count has reached PIN_THRESH. -/
def Pkg.pinMarked (p : Pkg) (c pin : Nat) : Pkg :=
  let x := p.pch c
  if tget 0 x.pins pin < max 1 (p.getF F.MC_ERR_CFG.PIN_THRESH 0) || x.pinLog.contains pin then p
  else
    let p := p.setPch c { x with pinLog := x.pinLog ++ [pin] }
    if p.getF F.MC_LANE.MARKED c == 0 then
      (p.setF F.MC_LANE.MARKED c (2 ^ pin)).mcEvent 0x1844 (c / 64) (pin * 64 + c % 64)
    else p.mcEvent 0x1844 (c / 64) (2 ^ 11 + pin * 64 + c % 64)

/-- The marked pin of a pseudo-channel mapped onto a free repair lane, at a vat reset (R358). -/
def Pkg.pinRepair (p : Pkg) (c : Nat) : Pkg :=
  let x := p.pch c
  let m := p.getF F.MC_LANE.MARKED c
  if m == 0 || x.laneFree == 0 then p
  else
    let p := p.setPch c { x with laneFree := x.laneFree - 1, softLanes := x.softLanes ++ [Nat.log2 m] }
    (p.setF F.MC_LANE.REPAIRED c (p.getF F.MC_LANE.REPAIRED c ||| m)).setF F.MC_LANE.MARKED c 0

/-- The units of a row of pseudo-channel `c` that hold errors: read, corrected and written back by a row copy (R359) or repair (R376). -/
def Pkg.rowUnits (p : Pkg) (c bank row : Nat) : List Nat :=
  (dedup (p.flaws.map (·.1))).filter fun u => 8 * u < 0x010000000000 && pchKey (8 * u) == c && p.rowOf (8 * u) == (bank, row)

/-- ROW_RETIRED (R359): a row's count has reached ROW_THRESH; it is copied into a free remap row, or stays. -/
def Pkg.rowRetired (p : Pkg) (c bank row : Nat) : Pkg :=
  let x := p.pch c
  match x.rows.find? fun r => r.bank == bank && r.row == row with
  | none => p
  | some r =>
    if r.cnt < max 1 (p.getF F.MC_ERR_CFG.ROW_THRESH 0) || (x.copying ++ x.retired).any fun y => (y.1, y.2.1) == (bank, row)
    then p
    else
      let used := p.getF F.MC_REMAP.USED c
      if 2048 ≤ used then
        if x.fullLog then p else (p.setPch c { x with fullLog := true }).mcEvent 0x1843 (c / 64) (c % 64)
      else
        let p := p.setPch c { x with copying := x.copying ++ [(bank, row, used)] }
        let p := (p.setF F.MC_REMAP.USED c (used + 1)).setF F.MC_REMAP.FULL c (b2n (used + 1 == 2048))
        ((p.rowUnits c bank row).foldl Pkg.decodeUnit p).mcEvent 0x1842 (c / 64) (bank * 64 + c % 64)

/-- ROW_COPY_DONE (R359): later accesses go to the remap row. -/
def Pkg.rowCopyDone (p : Pkg) (c bank row : Nat) : Pkg :=
  let x := p.pch c
  let here (y : Nat × Nat × Nat) : Bool := (y.1, y.2.1) == (bank, row)
  p.setPch c { x with copying := x.copying.filter (!here ·), retired := x.retired ++ x.copying.filter here,
                      rows := if x.copying.any here then x.rows.filter fun r => !(r.bank == bank && r.row == row) else x.rows }

/-! ### The cellar (R372, R373) -/

/-- CELLAR_ACCESS (R372, R373): the slice of block `b` of vat `v` reads it, or (`write`) writes the 4,096 bytes with their rind; `errs` have
come into memory before. -/
def Dev.cellarAccess (d : Dev) (v b : Nat) (errs : List CwErr) (write : Bool) (data : List Byte) : Dev :=
  let a := 0x010000000000 + v * 0x100000000 + b * 4096
  let d : Dev := { d with pkg := d.pkg.struck errs }
  if write then d.store 6 0 a data .correct
  else if !d.pkg.vatReady v then { d with pkg := d.pkg.vatDrop v }
  else { d with pkg := (d.pkg.decodeRange a 4096).ueRange d.mem a 4096 1 }

/-! ### Maintenance and repair (R375–R377) -/

/-- Is every slot of a stack empty? -/
def Pkg.stackIdle (p : Pkg) (s : Nat) : Bool := p.pchs.all fun x => x.1 / 64 != s || x.2.q.isEmpty

/-- MC_MAINT.IDLE (R375). -/
def Pkg.maintIdle (p : Pkg) (s : Nat) : Bool := p.held s && p.stackIdle s

/-- MC_MAINT_HOLD (R375): HOLD is set while no core of the vat runs, or released. -/
def Pkg.maintHold (p : Pkg) (s : Nat) (on : Bool) : Pkg :=
  if !on then p.setF F.MC_MAINT.HOLD s 0
  else if p.anyRunIn (s / 4) || p.held s then p
  else { (p.setF F.MC_MAINT.HOLD s 1) with holdLog := tset false p.holdLog s false }

/-- A repair ends with a result (R376). -/
def Pkg.repairEnds (p : Pkg) (s op pch res : Nat) : Pkg :=
  ((p.setF F.MC_REPAIR_STAT.DONE s 1).setF F.MC_REPAIR_STAT.RESULT s res).mcEvent 0x1847 s (op * 4096 + res * 256 + pch)

/-- A GO written to MC_REPAIR (R376, R377): ignored while an operation runs, refused without HOLD and IDLE or with a
reserved OP, else started. -/
def Pkg.repairGo (p : Pkg) (s op pch bank row lane : Nat) : Pkg :=
  let p := ((p.setF F.MC_REPAIR.OP s op).setF F.MC_REPAIR.BANK s bank).setF F.MC_REPAIR.ROW s row
  let p := p.setF F.MC_REPAIR.LANE s lane
  if !p.flag F.MC_REPAIR_STAT.DONE s then p
  else if !p.maintIdle s || op == 0 || 5 < op then p.repairEnds s op pch 3
  else { (p.setF F.MC_REPAIR_STAT.DONE s 0) with repairs := tins p.repairs s ⟨op, pch, bank, row, lane⟩ }

def Pkg.sppr (p : Pkg) (s pch bank row lane : Nat) : Pkg := p.repairGo s 1 pch bank row lane
def Pkg.hppr (p : Pkg) (s pch bank row lane : Nat) : Pkg := p.repairGo s 2 pch bank row lane
def Pkg.laneSoft (p : Pkg) (s pch bank row lane : Nat) : Pkg := p.repairGo s 3 pch bank row lane
def Pkg.laneHard (p : Pkg) (s pch bank row lane : Nat) : Pkg := p.repairGo s 4 pch bank row lane
def Pkg.undoSoft (p : Pkg) (s pch bank row lane : Nat) : Pkg := p.repairGo s 5 pch bank row lane

/-- What a repair that is done changes (R376): the row of a row repair is saved before and written back corrected. -/
def Pkg.repaired (p : Pkg) (c : Nat) (r : Repair) : Pkg :=
  let x := p.pch c
  let lanes := p.getF F.MC_LANE.REPAIRED c
  let clear (p : Pkg) : Pkg := p.setF F.MC_LANE.REPAIRED c (putFld lanes r.lane r.lane 0)
  let saved : Pkg := (p.rowUnits c r.bank r.row).foldl Pkg.decodeUnit p
  let y := saved.pch c
  if r.op == 1 then saved.setPch c { y with softRows := y.softRows ++ [(r.bank, r.row)] }
  else if r.op == 2 then saved.setPch c { y with hardRows := y.hardRows ++ [(r.bank, r.row)] }
  else if r.op == 5 then
    if r.row == 0x1FFF then
      if x.softLanes.contains r.lane then
        clear (p.setPch c { x with softLanes := x.softLanes.filter (· != r.lane), laneFree := x.laneFree + 1 })
      else p
    else p.setPch c { x with softRows := x.softRows.filter (· != (r.bank, r.row)) }
  else
    let x := { x with laneFree := x.laneFree - 1 }
    let x := if r.op == 3 then { x with softLanes := x.softLanes ++ [r.lane] } else { x with hardLanes := x.hardLanes ++ [r.lane] }
    (p.setPch c x).setF F.MC_LANE.REPAIRED c (putFld lanes r.lane r.lane 1)

/-- REPAIR_RESULT (R376): the operation of stack `s` ends with the result that the stack reports: 0x1 done, 0x2 no
resource, else 0x4 failure; a lane repair without a free lane has no resource. -/
def Pkg.repairResult (p : Pkg) (s res : Nat) : Pkg :=
  match tfind p.repairs s with
  | none => p
  | some r =>
    let c := s * 64 + r.pch
    let res := if res == 1 && (r.op == 3 || r.op == 4) && (p.pch c).laneFree == 0 then 2
      else if res == 1 || res == 2 then res else 4
    let p := { p with repairs := tdel p.repairs s }
    let p := if res == 1 then p.repaired c r else p
    p.repairEnds s r.op r.pch res

end Sys2Proof.Machine
end

