-- ==== Sys2Proof/Machine/Ports.lean ====
section
/-! DEFINITION. The commands of the Aedun ports: flits, lanes, training, routing (R379–R407). -/
namespace Sys2Proof.Machine

/-- Instance of a lane register. -/
def laneInst (n lane : Nat) : Nat := n * 8 + lane

/-- Is the port UP (R388)? -/
def Pkg.portUp (p : Pkg) (n : Nat) : Bool := p.portWidth n != 0

/-- Is the port in RETRAIN (R383)? -/
def Pkg.retraining (p : Pkg) (n : Nat) : Bool := p.portState n == 8

/-! ### Refusals (R387, R396, R397) -/

/-- A collective or transfer block of a core that was discarded on its way (R387): done with, counted, logged with
reason 0x1. -/
def Pkg.blockRefused (p : Pkg) (k no a : Nat) : Pkg :=
  match (p.core k).flightOf no with
  | some ⟨_, _, _, slate, _, _, .xfer pkg _ bs⟩ =>
    if bs.any (·.addr == a) then ((p.onCore k fun c => c.dropBlock no a).pumpAll k).blockFailed k slate pkg 1 else p
  | some ⟨_, _, _, slate, _, _, .cx pkg _ _ _ _ bs⟩ =>
    if bs.any (·.addr == a) then ((p.onCore k fun c => c.dropBlock no a).pumpAll k).blockFailed k slate pkg 1 else p
  | _ => p

/-- REFUSAL_RECEIVE (R387): a refusal reaches the logical core that sent the block. -/
def Pkg.refusalReceive (p : Pkg) (core no a : Nat) : Pkg :=
  match p.physOf core with
  | some k => p.blockRefused k no a
  | none => p

/-- A discarded packet is refused to its sender; a packet of TC0 is lost (R387). -/
def Pkg.refusePacket (p : Pkg) (src dst tc : Nat) (blk : Option (Nat × Nat × Nat)) : Pkg :=
  if tc == 0 then p
  else
    match blk with
    | some (core, no, a) =>
      if src == p.pkgId then p.refusalReceive core no a else p.send .refusal src [dst, tc, core, no, a]
    | none => if src == p.pkgId then p else p.send .refusal src [dst, tc]

/-- The packets of a list of flits: the first flit of each. -/
def packetsOf : List Flit → List Nat → List Flit
  | [], _ => []
  | f :: fs, seen => if seen.contains f.pkt then packetsOf fs seen else f :: packetsOf fs (f.pkt :: seen)

/-- The port goes to OFF (R385, R387): its flits are discarded, their packets refused. -/
def Pkg.portOff (p : Pkg) (n : Nat) : Pkg :=
  let fs := (p.port n).kept ++ (p.port n).out
  let p := (p.setPortState n 7).portEvent 0x2003 n 0
  let p := p.setPort n { p.port n with kept := [], out := [], late := [] }
  (packetsOf fs []).foldl (fun q f => q.refusePacket f.src f.dst f.tc f.blk) p

/-! ### Flits (R381–R383, R399–R401) -/

/-- Credits of a virtual channel of a port. The spec gives no number: DESIGN CHOICE (log entry 109). -/
def linkCredits : Nat := 64

/-- Key of a class's virtual channel. -/
def vcKey (tc vc : Nat) : Nat := 8 * tc + vc

/-- The 4-byte header of a flit (R382): sequence number, acknowledgement, class, virtual channel, credits returned. Their
order, their widths beyond the 12-bit numbers and their coding (class 2 bits, channel 3 bits as hop − 1, credits 3 bits) are a DESIGN
CHOICE (log entry 132). -/
def flitHeader (seq ack tc vc cred : Nat) : Nat := seq + 2 ^ 12 * ack + 2 ^ 24 * tc + 2 ^ 26 * vc + 2 ^ 29 * cred

/-- The payload of a flit: 312 bytes. -/
def flitPayload (bs : List Byte) : List Byte := (bs ++ List.replicate 312 0).take 312

/-- The CRC-32C of a flit (R382). -/
def flitCrc (header : Nat) (payload : List Byte) : Nat := crc32c (leBytes 4 header ++ flitPayload payload)

/-- How far the sequence number `a` is ahead of `b`. -/
def seqAhead (a b : Nat) : Nat := (a + 4096 - b) % 4096

/-- A flit goes out on the link, with the acknowledgement of what has come in (R382). -/
def Pkg.flitOut (p : Pkg) (n : Nat) (f : Flit) : Pkg :=
  let h := flitHeader f.seq (((p.port n).rxSeq + 4095) % 4096) f.tc f.vc f.cred
  p.send .flitSend n [h, ofLe (flitPayload f.payload), flitCrc h f.payload]

/-- The first flit of a class that waits for the port and whose virtual channel has a credit (R399). -/
def Port.sendable (x : Port) (tc : Nat) : Option Flit :=
  x.out.find? fun f => f.tc == tc && tget 0 x.spent (vcKey f.tc f.vc) < linkCredits

/-- The weight of a class in the round robin (R400); TC0 beyond its bucket has TC1's (R401). -/
def Pkg.tcWeight (p : Pkg) (tc : Nat) : Nat :=
  max 1 (p.getF (if tc == 3 then F.PORT_TCW.W3 else if tc == 2 then F.PORT_TCW.W2 else F.PORT_TCW.W1) 0)

/-- The next flit to send, and the port with its round robin moved on (R400, R401): TC0 first while its bucket holds a flit,
else the class whose turn it is, else the next one that has a flit. TC0's place behind TC3 is a DESIGN CHOICE (log entry 133). -/
def Pkg.nextFlit (p : Pkg) (n : Nat) : Option (Flit × Bool × Port) :=
  let x := p.port n
  let t := p.tc0Tokens n
  match (if 16000 ≤ t then x.sendable 0 else none) with
  | some f => some (f, false, { x with tokens := t - 16000, refill := p.time })
  | none =>
    match (if x.left == 0 then none else x.sendable x.turn) with
    | some f => some (f, x.turn == 0, { x with left := x.left - 1 })
    | none =>
      ([1, 2, 3, 4].map fun i => (x.turn + i) % 4).findSome? fun c => (x.sendable c).map fun f =>
        (f, c == 0, { x with turn := c, left := p.tcWeight c - 1 })

/-- One flit leaves: it takes its number, spends a credit, returns credits, and is kept until acknowledged (R382, R399). -/
def Pkg.flitLeaves (p : Pkg) (n : Nat) (f : Flit) (extra : Bool) (x : Port) : Pkg :=
  let key := vcKey f.tc f.vc
  let cred := min 7 (tget 0 x.owed key)
  let g := { f with seq := x.txSeq, cred := cred }
  let x := { x with
    out := x.out.erase f, kept := x.kept ++ [g], txSeq := (x.txSeq + 1) % 4096,
    spent := tset 0 x.spent key (tget 0 x.spent key + 1), owed := tset 0 x.owed key (tget 0 x.owed key - cred) }
  let q := p.setPort n x
  let q := if !extra then q
    else
      let q' := q.addF F.PORT_TC_STAT.TC0_OVER n 1
      if p.getF F.PORT_TC_STAT.TC0_OVER n == 0 then q'.portEvent 0x200A n 0 else q'
  q.flitOut n g

/-- The port sends what it can: `k` bounds the flits. -/
def Pkg.serveFlits : Nat → Pkg → Nat → Pkg
  | 0, p, _ => p
  | k + 1, p, n =>
    if !p.portUp n then p
    else match p.nextFlit n with
      | some (f, extra, x) => Pkg.serveFlits k (p.flitLeaves n f extra x) n
      | none => p

/-- A port's egress is served (R400); it holds its flits while it is not UP (R383, R386). -/
def Pkg.servePort (p : Pkg) (n : Nat) : Pkg := Pkg.serveFlits (p.port n).out.length p n

/-- The partner returns credits of its buffers, in a flit's header or in a link control block (R399). -/
def Port.credited (x : Port) (key n : Nat) : Port := { x with spent := tset 0 x.spent key (tget 0 x.spent key - n) }

/-- PORT_FLIT_ACK (R382, R399): the kept flits up to the acknowledged one are freed, the returned credits of each 8 × class +
virtual channel let waiting flits go; with a replay asked for, the kept flits after the acknowledged one go out again. -/
def Pkg.flitAck (p : Pkg) (n seq : Nat) (replay : Bool) (credits : List (Nat × Nat)) : Pkg :=
  let x := p.port n
  let kept := if x.kept.any (·.seq == seq) then (x.kept.dropWhile (·.seq != seq)).drop 1 else x.kept
  let p := p.setPort n { credits.foldl (fun y c => y.credited c.1 c.2) x with kept := kept }
  (if replay && p.portUp n then kept.foldl (fun q f => q.flitOut n f) p else p).servePort n

/-- What no flit of this end carries back goes to the partner in a link control block: the acknowledgement of what has come in
and every credit that is owed (R382, R399). When it is sent is a DESIGN CHOICE (log entry 151). -/
def Pkg.giveBack (p : Pkg) (n : Nat) : Pkg :=
  let x := p.port n
  if x.owed.isEmpty then p
  else (p.setPort n { x with owed := [] }).send .flitAck n (((x.rxSeq + 4095) % 4096) :: x.owed.flatMap fun y => [y.1, y.2])

/-- The flit that was awaited is delivered: its acknowledgement frees kept flits, its credits let waiting flits go, and its own
buffer's credit goes back to the partner (R382, R399). -/
def Pkg.flitDeliver (p : Pkg) (n header : Nat) (payload : List Byte) : Pkg :=
  let x := p.port n
  let key := vcKey (fld header 25 24) (fld header 28 26)
  let x := { x with rxSeq := (x.rxSeq + 1) % 4096, asked := false, fails := 0, owed := tset 0 x.owed key (tget 0 x.owed key + 1) }
  let p := (p.setPort n x).send .flit n [header, ofLe (flitPayload payload)]
  (p.flitAck n (fld header 23 12) false [(key, fld header 31 29)]).giveBack n

/-- This end asks the partner to replay from the awaited flit on (R382). -/
def Pkg.askReplay (p : Pkg) (n : Nat) : Pkg :=
  (p.setPort n { p.port n with asked := true }).send .flitNak n [(p.port n).rxSeq]

/-- PORT_FLIT_RECEIVE (R381–R383): a codeword arrives whose symbols `syms` were damaged; up to 8 are corrected. A flit that
is uncorrectable, whose CRC fails, or that shows an earlier one lost is discarded, and a replay asked for; one that came
before is discarded. The header of a flit that failed says nothing: `again` is the number that such a flit has by its place in
a replay, none when it is no replay (log entry 151). -/
def Pkg.flitReceive (p : Pkg) (n header : Nat) (payload : List Byte) (crc : Nat) (syms : List Nat) (again : Option Nat) : Pkg :=
  if !p.portUp n then p
  else
    let syms := dedup syms
    let uncorr := decide (8 < syms.length)
    let bad := uncorr || flitCrc header payload != crc
    let seq := fld header 11 0
    let lanes := p.rxLanes n
    let hit := if uncorr || p.optical n then [] else syms.filterMap fun i => lanes[i % max 1 lanes.length]?
    let p := hit.foldl (fun q l => q.addF F.PORT_LANE_ERR.SYM_CORR (laneInst n l) 1) p
    let x := p.port n
    let p := p.setPort n { x with win := hit.foldl (fun t l => tset 0 t l (tget 0 t l + 1)) x.win }
    let replay :=
      if bad then again.isSome else decide (0 < seqAhead x.rxTop seq) && decide (seqAhead x.rxTop seq < 2048)
    let p := if replay then p.addF F.PORT_ERR.REPLAYS n 1 else p
    let p := if uncorr then p.addF F.PORT_ERR.UNCORR n 1 else p
    if bad then
      if again == some x.rxSeq then (p.setPort n { p.port n with fails := x.fails + 1 }).askReplay n
      else if x.asked then p
      else p.askReplay n
    else
      let p := if replay then p else p.setPort n { p.port n with rxTop := (seq + 1) % 4096 }
      if seq == x.rxSeq then p.flitDeliver n header payload
      else if replay || x.asked then p
      else p.askReplay n

/-- PORT_REPLAY_LIMIT (R383): a flit failed its replays at this end, or at the partner's, and both ends retrain. -/
def Pkg.replayLimit (p : Pkg) (n : Nat) (partner : Bool) : Pkg :=
  let x := p.port n
  if !p.portUp n || (!partner && x.fails < max 1 (p.getF F.PORT_CFG.REPLAY_LIMIT 0)) then p
  else
    let p := p.setPort n { x with fails := 0 }
    let p := (p.setPortState n 8).addF F.PORT_ERR.RETRAINS n 1
    p.portEvent 0x2004 n 0

/-! ### Lanes (R384–R386) -/

/-- A lane failed in a direction (0 receive, 1 transmit): its failed bit is set. -/
def Pkg.markLane (p : Pkg) (n dir lane : Nat) : Pkg :=
  if dir == 0 then
    (p.setF F.PORT_STATUS.RX_FAILED n (p.getF F.PORT_STATUS.RX_FAILED n ||| 2 ^ lane)).setF F.PORT_LANE_ERR.FAILED
      (laneInst n lane) 1
  else p.setF F.PORT_STATUS.TX_FAILED n (p.getF F.PORT_STATUS.TX_FAILED n ||| 2 ^ lane)

/-- A failed lane is out of use: the switch away from it is made (R386). -/
def Pkg.dropLane (p : Pkg) (n dir lane : Nat) : Pkg :=
  let x := p.port n
  let late := x.late.filter fun y => (y.1, y.2.1) != (dir, lane)
  p.setPort n (if dir == 0 then { x with rxOut := x.rxOut ||| 2 ^ lane, late := late }
    else { x with txOut := x.txOut ||| 2 ^ lane, late := late })

/-- The width of a state code that the guest die reports (R405). -/
def guestWidth (st : Nat) : Nat := match st with | 4 => 4 | 5 => 2 | 6 => 1 | _ => 0

/-- The width that the port's lanes allow (R385); an optical port has the one adopted from the guest die (R405). -/
def Pkg.lanesWidth (p : Pkg) (n : Nat) : Nat := if p.optical n then (p.port n).cap else widthOf (p.healthy n)

/-- The event of a failed lane, for the widths before and after (R385). -/
def Pkg.laneEvent (p : Pkg) (n dir lane w w' : Nat) : Pkg :=
  if w' == 0 then p
  else if w' == w then p.portEvent 0x2001 n (dir * 256 + lane)
  else p.portEvent 0x2002 n (widthCode w')

/-- A lane of this end's receive direction fails (R384, R386): the partner is told, the switch waits for the agreed
boundary. -/
def Pkg.failLane (p : Pkg) (n lane : Nat) : Pkg :=
  let x := p.port n
  let p := p.setPort n { x with late := x.late ++ [(0, lane, x.winNo)] }
  (p.markLane n 0 lane).send .linkControl n [lane]

/-- May a lane of the port fail now? -/
def Pkg.laneLive (p : Pkg) (n lane : Nat) : Bool :=
  (p.portUp n || p.retraining n) && !p.optical n && lane < 5 && !bitOf (p.getF F.PORT_STATUS.RX_FAILED n) lane

/-- LANE_WINDOW_END (R384): every lane's corrections of the 1 ms window are judged. -/
def Pkg.laneWindowEnd (p : Pkg) (n : Nat) : Pkg :=
  let x := p.port n
  let lim := p.getF F.PORT_CFG.WIN_LIMIT 0
  let p := (List.range 5).foldl (fun q l =>
    if lim < tget 0 x.win l then q.addF F.PORT_LANE_ERR.BAD_WIN (laneInst n l) 1 else q) p
  p.setPort n { x with win := [], winNo := x.winNo + 1 }

/-- LANE_FAIL (R384). -/
def Pkg.laneFail (p : Pkg) (n lane : Nat) : Pkg :=
  if p.laneLive n lane && max 1 (p.getF F.PORT_CFG.LANE_THRESH 0) ≤ p.getF F.PORT_LANE_ERR.BAD_WIN (laneInst n lane)
  then p.failLane n lane else p

/-- LANE_SIGNAL_LOSS (R384). -/
def Pkg.laneSignalLoss (p : Pkg) (n lane : Nat) : Pkg :=
  if p.laneLive n lane then p.failLane n lane else p

/-- The port retrains for a change of width (R386). -/
def Pkg.widthRetrain (p : Pkg) (n : Nat) : Pkg := (p.setPortState n 8).addF F.PORT_ERR.RETRAINS n 1

/-- Both ends switch away from a failed lane of an UP port (R385, R386). -/
def Pkg.switchLane (p : Pkg) (n dir lane : Nat) : Pkg :=
  let w := p.portWidth n
  let p := p.dropLane n dir lane
  let w' := p.lanesWidth n
  if w' == 0 then p.portOff n
  else
    let p := p.laneEvent n dir lane w (min w w')
    if w ≤ w' then p else p.widthRetrain n

/-- Does a failed receive lane wait behind a lower one that failed in the same window (R386)? -/
def Port.behindLane (x : Port) (lane : Nat) : Bool :=
  x.late.any fun a => a.1 == 0 && a.2.1 == lane && x.late.any fun b => b.1 == 0 && decide (b.2.1 < lane) && b.2.2 == a.2.2

/-- LINK_CONTROL_BLOCK (R385–R387): both ends switch away from a failed lane; `dir` 0 names a receive lane failed at
this end, 1 a transmit lane that the partner reports. During a retrain the switch waits for its end. -/
def Pkg.linkControl (p : Pkg) (n dir lane : Nat) : Pkg :=
  let x := p.port n
  if p.optical n || !(p.portUp n || p.retraining n) || 5 ≤ lane then p
  else if dir == 0 then
    if !p.portUp n || !(x.late.any fun y => y.1 == 0 && y.2.1 == lane) || x.behindLane lane then p
    else p.switchLane n 0 lane
  else if bitOf (p.getF F.PORT_STATUS.TX_FAILED n) lane then p
  else
    let p := p.markLane n 1 lane
    if p.retraining n then p.setPort n { x with late := x.late ++ [(1, lane, x.winNo)] } else p.switchLane n 1 lane

/-- PORT_RETRAIN_DONE (R383–R387, R405): lanes that failed to train, `rx` here and `tx` as the partner reports, and those that
failed during the retrain are handled one at a time, in ascending lane number; an optical port takes what was reported. A replay
still awaited is asked for again. -/
def Pkg.retrainDone (p : Pkg) (n rx tx : Nat) : Pkg :=
  if !p.retraining n then p
  else
    let late := (p.port n).late
    let lost := (List.range 5).flatMap fun l =>
      [(0, rx, F.PORT_STATUS.RX_FAILED), (1, tx, F.PORT_STATUS.TX_FAILED)].filterMap fun y =>
        if (late.any fun z => (z.1, z.2.1) == (y.1, l)) || (bitOf y.2.1 l && !bitOf (p.getF y.2.2 n) l) then some (y.1, l) else none
    let p :=
      if p.optical n then
        let w := guestWidth (p.port n).guest
        if w < (p.port n).cap then (p.setPort n { p.port n with cap := w }).portEvent 0x2002 n (widthCode w) else p
      else lost.foldl (fun q x =>
        let w := q.lanesWidth n
        let q := (q.markLane n x.1 x.2).dropLane n x.1 x.2
        q.laneEvent n x.1 x.2 w (q.lanesWidth n)) p
    let w := p.lanesWidth n
    if w == 0 then p.portOff n
    else
      let p := p.setPortState n (widthState w)
      (if (p.port n).asked then p.askReplay n else p).servePort n

/-! ### Training (R388–R392, R403, R406) -/

/-- LINK_TRAINING_START (R388): every port starts training. -/
def Pkg.linkTrainingStart (p : Pkg) : Pkg :=
  (List.range 18).foldl (fun q n => if q.portState n == 0 then q.setPortState n 1 else q) p

/-- The cabling rules (R391, R392, R403). -/
def Pkg.cabled (p : Pkg) (n pid pport : Nat) (popt : Bool) : Bool :=
  let wheel := p.pkgId / 16
  let pos := p.pkgId % 16
  let ok := if n < 15 then pid == wheel * 16 + (pos + n + 1) % 16 && pport == 14 - n
    else pid / 16 != wheel && pid % 16 == pos && 15 ≤ pport && pport < 18
  ok && popt == p.optical n

/-- A port without a partner (R389). -/
def Pkg.noPartner (p : Pkg) (n : Nat) : Pkg :=
  let p := p.setPortState n 2
  if bitOf (p.getF F.PORT_CFG.EXPECT 0) n then p.portEvent 0x2007 n 0 else p

/-- Training ends at the width that the lanes allow (R388). -/
def Pkg.portTrains (p : Pkg) (n : Nat) : Pkg :=
  let w := p.lanesWidth n
  let p := if w == 0 then p.portOff n else p.setPortState n (widthState w)
  if p.getF F.PORT_STATUS.RATE n == 1 then p.portEvent 0x2006 n 0 else p

/-- The rate codes that a port supports (R379), bit n for code n. -/
def linkRates : Nat := 6

/-- The identity block that a port sends (R388, R406). -/
def Pkg.sendIdentity (p : Pkg) (n : Nat) : Pkg :=
  p.send .identity n [p.pkgId, n, b2n (p.optical n), linkRates, Config.linkVersion]

/-- PORT_TRAIN_DONE (R388, R389, R406): the partner's identity block (package, port, optical flag, rate codes, version), and
the lanes that trained here and at the partner. The rate is the highest that both support; ends without a common one are no
partners, and a difference of versions has no effect (DESIGN CHOICE, log entry 134). -/
def Pkg.portTrainDone (p : Pkg) (n pid pport : Nat) (popt : Bool) (rates ver rx tx : Nat) : Pkg :=
  if p.portState n != 1 then p
  else
    let both := rates &&& linkRates
    let p := p.sendIdentity n
    if both == 0 then p.noPartner n
    else
    let p := (p.setF F.PORT_STATUS.PARTNER_ID n pid).setF F.PORT_STATUS.PARTNER_PORT n pport
    let p := p.setPort n { p.port n with partner := some (rates, ver) }
    if !p.cabled n pid pport popt then (p.setPortState n 3).portEvent 0x2005 n (pid % 4096)
    else
      let p := p.setF F.PORT_STATUS.RATE n (Nat.log2 both)
      if p.optical n then
        let x := p.port n
        if x.guest == 0 then p.setPort n { x with ready := true }
        else (p.setPort n { x with cap := guestWidth x.guest }).portTrains n
      else
        ((List.range 5).foldl (fun q l =>
          let q := if bitOf rx l then q else (q.markLane n 0 l).dropLane n 0 l
          if bitOf tx l then q else (q.markLane n 1 l).dropLane n 1 l) p).portTrains n

/-- PORT_NO_PARTNER (R389, R406). -/
def Pkg.portNoPartner (p : Pkg) (n : Nat) : Pkg := if p.portState n != 1 then p else p.noPartner n

/-- GUEST_PORT_STATE (R405): the guest die reports ×4, ×2, ×1 or OFF (state codes 4 to 7) for an optical port. OFF is taken at
once, a lower width by a retrain, during one at its end; the width never rises (R386). -/
def Pkg.guestPortState (p : Pkg) (n st : Nat) : Pkg :=
  let x := p.port n
  if !p.optical n || st < 4 || 7 < st || x.guest == st then p
  else
    let w := guestWidth st
    let p := (p.setPort n { x with guest := st }).portEvent 0x200B n (if w == 0 then 4 else widthCode w)
    if p.portState n == 1 then
      if w == 0 then p.portOff n
      else if x.ready then (p.setPort n { p.port n with cap := w }).portTrains n else p
    else if p.retraining n then (if w == 0 then p.portOff n else p)
    else if !p.portUp n then p
    else if w == 0 then p.portOff n
    else if w < p.portWidth n then
      ((p.setPort n { p.port n with cap := w }).portEvent 0x2002 n (widthCode w)).widthRetrain n
    else p

/-! ### Routing (R393–R401) -/

/-- A malformed routing-table entry (R394). -/
def rtBad (e : Nat) : Bool :=
  fld e 62 40 != 0 || (List.range 4).any fun i =>
    let s := slotOf e i
    17 < s.2.1 || (s.1 && s.2.2 == 0)

/-- PORT_RT_DATA_WRITE (R394, R398). -/
def Pkg.rtWrite (p : Pkg) (table entry e : Nat) : Pkg :=
  if p.anyRun || (table == 0 && 16 ≤ entry) then p
  else if rtBad e then
    (p.setReg .PORT_RT_DATA (rtInst table entry) (BitVec.ofNat 64 (putFld e 63 63 0))).portEvent 0x2009 0
      (table * 256 + entry)
  else p.setReg .PORT_RT_DATA (rtInst table entry) (BitVec.ofNat 64 e)

/-- The flits of a packet that takes hop `hop` (R382, R397): 312 bytes each, on the virtual channel of the hop. -/
def packetFlits (src dst tc hop eng pkt : Nat) (blk : Option (Nat × Nat × Nat)) (data : List Byte) : List Flit :=
  (List.range (max 1 ((data.length + 311) / 312))).map fun i =>
    ⟨0, tc, hop - 1, 0, src, dst, eng, pkt, blk, (data.drop (312 * i)).take 312⟩

/-- A packet joins a port's egress (R397, R399, R400). -/
def Pkg.sendOn (p : Pkg) (n src dst tc hop eng : Nat) (blk : Option (Nat × Nat × Nat)) (data : List Byte) : Pkg :=
  let fs := packetFlits src dst tc hop eng p.net.pktNo blk data
  let p := p.setPort n { p.port n with out := (p.port n).out ++ fs }
  ({ p with net := { p.net with pktNo := p.net.pktNo + 1 } } : Pkg).servePort n

/-- PACKET_ROUTE (R393–R401): a packet that has made `hops` hops is at this hub; `eng` is 8 × core + engine of its source. One for
this package is delivered to the hub, whose acts on it are commands of their own (log entry 152). -/
def Pkg.packetRoute (p : Pkg) (src dst tc hops eng : Nat) (blk : Option (Nat × Nat × Nat)) (data : List Byte) : Pkg :=
  if dst == p.pkgId then
    p.send .packet dst ([src, tc, hops, eng] ++ (match blk with | some b => [1, b.1, b.2.1, b.2.2] | none => [0]) ++ [data.length, ofLe data])
  else if 8 ≤ hops then (p.hopDrop dst).refusePacket src dst tc blk
  else
    match p.egress src eng dst tc with
    | none => (p.noRoute dst).refusePacket src dst tc blk
    | some n => p.sendOn n src dst tc (hops + 1) eng blk data

end Sys2Proof.Machine
end

