-- ==== Sys2Proof/Machine/Swap.lean ====
section
/-! DEFINITION. Core fault thresholds and the core swap (R80–R90, R573). -/
namespace Sys2Proof.Machine

/-- The lowest-numbered spare of a vat. -/
def Pkg.lowestSpare (p : Pkg) (v : Nat) : Option Nat :=
  ((List.range 100).map (v * 128 + ·)).find? fun k => (p.core k).st == .spare

/-- CORE_FAULT_THRESH (R83): the fault count of physical core `k` has reached THRESH; SWAP_WANTED is set, logged once and
reported to the lead. -/
def Pkg.coreFaultThresh (p : Pkg) (k : Nat) : Pkg :=
  match tfind p.faultBy k with
  | none => p
  | some (kind, slate) =>
    if p.flag F.CORE_FAULT.SWAP_WANTED k then p
    else
      let p := (p.setF F.CORE_FAULT.SWAP_WANTED k 1).event 0x4010 (k / 128) kind true (k % 128) slate (k % 128)
      p.send .swapWanted (p.getF F.CLAP_ROLE.LEAD_ID 0) [p.pkgId, k, b2n (p.lowestSpare (k / 128)).isSome]

/-- CORE_CE_THRESH (R83): CE_COUNT has reached CE_THRESH; logged once. -/
def Pkg.coreCeThresh (p : Pkg) (k : Nat) : Pkg :=
  match tfind p.ceBy k with
  | none => p
  | some kind =>
    if kind == 255 then p
    else ({ p with ceBy := tins p.ceBy k 255 }).event 0x4014 (k / 128) kind true (k % 128) 0 (k % 128)

/-- A swap request is refused (R84). -/
def Pkg.swapRefused (p : Pkg) (logical : Nat) : Pkg :=
  (p.setF F.CORE_SWAP.RESULT 0 3).event 0x4013 (logical / 128 % 4) 1 false (logical % 128) 0 (logical % 512)

/-- CORE_SWAP_START (R85, R86): the copy starts. An uncorrectable error that the copy meets in a store of the retiring core
halts it, and the swap proceeds at once with the halted core's state (R69, R89). -/
def Pkg.swapStartRead (p : Pkg) (m : Memory) (err : SramErr) : Pkg :=
  match p.swap with
  | none => p
  | some w =>
    match p.physOf w.logical with
    | none => p
    | some r =>
      let q := p.swapStart
      let starts := !w.running && (q.swap.map (·.running)) == some true
      match err with
      | .store s => if starts then p.coreUe m r 1 0 s.toNat else p
      | .corrected => if starts then q.ceCount r 1 1 else p
      | _ => q

/-- A logical core moves to a spare in a vat under reset, with no state copied (R89, R484). -/
def Pkg.moveLogical (p : Pkg) (logical r k : Nat) : Pkg :=
  let p := p.setCore r (Core.init .retired)
  (p.setCore k (Core.init .idle)).remap logical k

/-- The pending swap of a vat under reset is done there (R89). -/
def Pkg.swapInReset (p : Pkg) (v : Nat) : Pkg :=
  match p.swap with
  | none => p
  | some w =>
    if w.logical / 128 != v then p
    else
      let p := { p with swap := none }
      let p := (p.setF F.CORE_SWAP.PENDING 0 0).setF F.CORE_SWAP.RESULT 0 4
      match p.physOf w.logical with
      | none => p
      | some r => p.moveLogical w.logical r w.spare

/-- CORE_SWAP_REQUEST (R84, R85, R89): a write of CORE_SWAP with GO = 1. A core that is IDLE or HALT is at its point at
once. DEDUCED (log entry 112): in a vat that is past QUIESCE the table changes at once, with no state copied. DESIGN CHOICE
(log entry 141): a named core that is not SPARE is refused also where the vat has no spare at all. -/
def Pkg.swapRequest (p : Pkg) (spare logical : Nat) : Pkg :=
  let p := (p.setF F.CORE_SWAP.SPARE 0 spare).setF F.CORE_SWAP.LOGICAL 0 logical
  let v := logical / 128
  let named := v * 128 + spare
  if !p.isCore logical || isDirIdx (logical % 128) || p.swap.isSome then p.swapRefused logical
  else if spare != 0x7F && !(spare < 100 && (p.core named).st == .spare) then p.swapRefused logical
  else
    match (if spare == 0x7F then p.lowestSpare v else some named), p.physOf logical with
    | some k, some r =>
      let q : Pkg := { (p.setF F.CORE_SWAP.PENDING 0 1) with swap := some ⟨logical, k, false, (p.core r).st⟩ }
      if p.vatReady v then (if (p.core r).st == .idle || (p.core r).st == .halt then q.swapStart else q)
      else if (p.vat v).st == .quiesce then q else q.swapInReset v
    | _, _ =>
      (p.setF F.CORE_SWAP.RESULT 0 2).event 0x4012 v 1 false (logical % 128) 0 (logical % 128)

end Sys2Proof.Machine
end

