-- ==== Sys2Proof/Machine/D2d.lean ====
section
/-! DEFINITION. The die-to-die edges: flits, replay, lane repair, half width (R18–R27). -/
namespace Sys2Proof.Machine

/-- The vat named in an edge's events: the vat of its end 0, vat 0 for edge 8. -/
def edgeVat (e : Nat) : Nat := if e == 8 then 0 else e % 4

/-- The receiving end `en` of a module. -/
def D2dMod.endOf (x : D2dMod) (en : Nat) : D2dEnd := if en == 0 then x.e0 else x.e1

def D2dMod.setEnd (x : D2dMod) (en : Nat) (y : D2dEnd) : D2dMod := if en == 0 then { x with e0 := y } else { x with e1 := y }

/-- An event of a module (R45). -/
def Pkg.d2dEvent (p : Pkg) (code e m lane : Nat) : Pkg :=
  p.event code (edgeVat e) 0x13 false e 0 (e * 4096 + m * 128 + lane)

/-- EDGE_BW (R19, R20, R26): the sum of the modules' bandwidths, in proportion to the lane rate. -/
def Pkg.edgeBw (p : Pkg) (e : Nat) : Nat :=
  let full := ((List.range (p.edgeModules e)).map fun m =>
    match (p.d2dMod e m).st with
    | 0 => 250 | 1 => 125 | _ => 0).foldl (· + ·) 0
  let rate := (tget (0, 0) p.edges e).2
  if rate == 4 then full else if rate == 2 then full * 24 / 32 else if rate == 1 then full * 16 / 32 else 0

/-! ### Rates (R20, R46) -/

/-- Highest version and lane rate in two capability words: bit number and one-hot code; none without a common one. -/
def negotiate (a b : Nat) : Option (Nat × Nat) :=
  let pr := fld a 63 56 &&& fld b 63 56
  let rt := fld a 55 48 &&& fld b 55 48
  if pr == 0 || rt == 0 then none else some (Nat.log2 pr, 2 ^ Nat.log2 rt)

/-- The capability words of the two ends of an edge. -/
def Pkg.edgeCaps (p : Pkg) (e guest : Nat) : Nat × Nat :=
  let hub := (p.reg .TOP_CAPS_HUB 0).toNat
  let gx (v : Nat) : Nat := capsGx p.fuse v
  if e < 4 then (gx e, hub) else if e < 8 then (gx (e - 4), gx ((e - 3) % 4)) else (hub, guest)

/-- The rate at which an edge trains: the highest of the negotiated set, or the lower one of the set that `low` says it
trained at. -/
def pickRate (caps : Nat × Nat) (top : Nat) (low : List (Nat × Nat)) (e : Nat) : Nat :=
  let set := fld caps.1 55 48 &&& fld caps.2 55 48
  match low.find? fun x => x.1 == e && x.2 != 0 && x.2 < top && x.2 &&& set == x.2 && 2 ^ Nat.log2 x.2 == x.2 with
  | some x => x.2
  | none => top

/-- An edge takes a version and a rate; one below 32 GT/s is logged. -/
def Pkg.setRate (p : Pkg) (e pr rt : Nat) : Pkg :=
  let p := { p with edges := tins p.edges e (pr, rt) }
  if rt < 4 then p.event 0x2806 (edgeVat e) 0x13 false e 0 (e * 4096 + rt) else p

/-- A trained edge to a vat trains again at the vat's boot (R20, R37). -/
def Pkg.retrainEdge (p : Pkg) (low : List (Nat × Nat)) (e : Nat) : Pkg :=
  if !thas p.edges e then p
  else
    let c := p.edgeCaps e 0
    match negotiate c.1 c.2 with
    | none => p
    | some (pr, rt) => p.setRate e pr (pickRate c rt low e)

/-- The edges of a vat: to the hub and to its two neighbours. -/
def vatEdges (v : Nat) : List Nat := [v, 4 + v, 4 + (v + 3) % 4]

/-- The failed lanes of a module end: those mapped onto repair lanes (R24). -/
def Pkg.failedLanes (p : Pkg) (e m en : Nat) : List Nat :=
  (List.range 68).filter fun l => p.flag F.D2D_LANE_ERR.REPAIRED (d2dLane e m en l)

/-- Is a lane of the half `h`? Repair lanes serve either. -/
def inHalf (h lane : Nat) : Bool := 64 ≤ lane || lane / 32 == h

/-- Repair lanes in use at a module end (REPAIRS_USED). -/
def Pkg.repairsUsed (p : Pkg) (e m en : Nat) : Nat :=
  let x := p.d2dMod e m
  let fs := p.failedLanes e m en
  min 4 (if x.st == 1 || x.want == 1 then (fs.filter (inHalf x.half)).length else fs.length)

/-! ### Flits -/

/-- A flit as sent (R19): a 2-byte header with the number in bits 11:0 and the credits it returns in bits 15:12 (DESIGN
CHOICE, log entry 106), the payload, and the CRC-32 over both. -/
def d2dFlit (seq cred : Nat) (payload : List Byte) : List Byte :=
  let body := leBytes 2 (seq % 4096 + cred % 16 * 4096) ++ payload
  body ++ leBytes 4 (crc32 body)

/-- Does a flit as received pass its CRC? -/
def flitGood (flit : List Byte) : Bool := ofLe (flit.drop 252) == crc32 (flit.take 252)

/-- A flit with the bits at the given places inverted on the way. -/
def flipBits (flit : List Byte) (places : List Nat) : List Byte :=
  places.foldl (fun bs i => bs.modify (i / 8) (· ^^^ BitVec.ofNat 8 (2 ^ (i % 8)))) flit

/-- The lane that carries bit `i` of a flit (DESIGN CHOICE, log entry 106): the bits take the data lanes in turn, those of
the half in use when the module is HALF; the bits of the n-th failed lane travel on the n-th repair lane that works. -/
def Pkg.flitLane (p : Pkg) (e m en i : Nat) : Nat :=
  let x := p.d2dMod e m
  let l := if x.st == 1 then x.half * 32 + i % 32 else i % 64
  let fs := p.failedLanes e m en
  if fs.contains l then
    let n := (fs.filter fun j => j < l && (x.st != 1 || inHalf x.half j)).length
    (((List.range 4).map (64 + ·)).filter (!fs.contains ·)).getD n l
  else l

/-- The lanes whose bits differ between two copies of a flit (R22). -/
def Pkg.differing (p : Pkg) (e m en : Nat) (a b : List Byte) : List Nat :=
  dedup (((List.range 2048).filter fun i =>
    bitOf (a.getD (i / 8) 0).toNat (i % 8) != bitOf (b.getD (i / 8) 0).toNat (i % 8)).map (p.flitLane e m en))

/-- Replays of the flit awaited that failed in a row on module `m` (R23): a flit that another module handed over comes there as
a replay from the first. -/
def D2dEnd.fails (y : D2dEnd) (m : Nat) : Nat :=
  let bs := y.bads.filter (·.no == y.rx)
  (bs.filter (·.mod == m)).length - b2n (bs.all (·.mod == m))

/-- The traffic class of a flit, and of the credits in its header (R29): the spec places it nowhere; DESIGN CHOICE (log entry 106),
the low bits of the payload. -/
def flitTc (payload : List Byte) : Nat := (payload.headD 0).toNat % 4

/-- Flits received are delivered as far as their numbers follow on (R21). -/
def D2dEnd.deliver : Nat → D2dEnd → D2dEnd
  | 0, y => y
  | n + 1, y =>
    match tfind y.ahead y.rx with
    | none => y
    | some f => D2dEnd.deliver n
        { y with rx := y.rx + 1, ahead := tdel y.ahead y.rx, cred := tset 0 y.cred (flitTc f.2) (tget 0 y.cred (flitTc f.2) + f.1), got := y.got ++ [f.2] }

/-- The flits of a module end's replay buffer that were not delivered move to the first other module that works, in order,
and with them the copies that failed (R22, R23). DESIGN CHOICE (log entry 107): while no other module works they stay. -/
def Pkg.moveFlits (p : Pkg) (e m en : Nat) : Pkg :=
  match (List.range (p.edgeModules e)).find? fun j => j != m && (p.d2dMod e j).works with
  | none => p
  | some j =>
    let x := p.d2dMod e m
    let y := p.d2dMod e j
    let a := x.endOf en
    let b := y.endOf en
    let ks := a.kept.filter (a.rx ≤ ·.1)
    let fs := ks.map (·.2)
    let moved := a.bads.filterMap fun t => (ks.findIdx? fun x => x.1 == t.no).map fun i => { t with no := b.next + i }
    let b := { b with kept := fs.foldl (fun t f => (tins t.1 t.2 f, t.2 + 1)) (b.kept, b.next) |>.1, next := b.next + fs.length,
                      bads := b.bads ++ moved }
    (p.setMod e m (x.setEnd en { a with kept := [], rx := a.next, bads := [], ahead := [] })).setMod e j (y.setEnd en b)

/-- A module takes MOD_STATE `st`; one that stops carrying traffic hands its flits over. -/
def Pkg.modState (p : Pkg) (e m st : Nat) : Pkg :=
  let p := if st == 2 || st == 3 then (p.moveFlits e m 0).moveFlits e m 1 else p
  p.setMod e m { p.d2dMod e m with st := st }

/-- A module goes to OFF (R23, R26). -/
def Pkg.modOff (p : Pkg) (e m : Nat) : Pkg := (p.modState e m 2).d2dEvent 0x2803 e m 0x7F

/-- D2D_FLIT_RECEIVE (R21, R22): flit number `seq` with its credits and payload arrives at end `en` with the bits at
`flips` inverted. One that fails its CRC is discarded; its good replay is compared with each copy that failed. Flits that
arrive ahead of their turn wait for it. -/
def Pkg.d2dReceive (p : Pkg) (e m en seq cred : Nat) (payload : List Byte) (flips : List Nat) : Pkg :=
  let x := p.d2dMod e m
  let y := x.endOf en
  if !x.works || seq < y.rx || thas y.ahead seq || payload.length != 250 then p
  else
    let flit := flipBits (d2dFlit seq cred payload) flips
    let y := { y with kept := if thas y.kept seq then y.kept else tins y.kept seq (cred, payload), next := max y.next (seq + 1) }
    let tries := y.bads.filter (·.no == seq)
    let p := if tries.isEmpty then p else p.addF F.D2D_REPLAY_CNT.REPLAYS (endInst e m en) 1
    if !flitGood flit then p.setMod e m (x.setEnd en { y with bads := y.bads ++ [⟨seq, m, seq, flit⟩] })
    else
      let good (t : BadFlit) : List Byte := if t.mod == m then flit else d2dFlit t.sent cred ((flit.drop 2).take 250)
      let p := tries.foldl (fun q t => (q.differing e t.mod en t.flit (good t)).foldl (fun q l =>
        q.addF F.D2D_LANE_ERR.ERR_COUNT (d2dLane e t.mod en l) 1) q) p
      let y := { y with bads := y.bads.filter (·.no != seq), ahead := tins y.ahead seq (cred, (flit.drop 2).take 250) }
      p.setMod e m (x.setEnd en (D2dEnd.deliver y.ahead.length y))

/-- D2D_FLIT_ACK (R21): the flit is acknowledged and leaves its sender's buffer. -/
def Pkg.d2dAck (p : Pkg) (e m en seq : Nat) : Pkg :=
  let x := p.d2dMod e m
  let y := x.endOf en
  if seq < y.rx then p.setMod e m (x.setEnd en { y with kept := tdel y.kept seq }) else p

/-- D2D_REPLAY_LIMIT (R23). -/
def Pkg.d2dReplayLimit (p : Pkg) (e m en : Nat) : Pkg :=
  let x := p.d2dMod e m
  if !x.works || (x.endOf en).fails m < max 1 (p.getF F.D2D_CFG.REPLAY_LIMIT 0) then p
  else
    let p := p.setMod e m { x with want := x.st }
    (p.modState e m 3).d2dEvent 0x2804 e m 0x7F

/-- D2D_RETRAIN_DONE (R23). -/
def Pkg.d2dRetrainDone (p : Pkg) (e m : Nat) (ok : Bool) : Pkg :=
  let x := p.d2dMod e m
  if x.st != 3 || !thas p.edges e then p
  else if ok then p.setMod e m { x with st := x.want } else p.modOff e m

/-- D2D_LANE_THRESH (R24–R26): a lane's ERR_COUNT has reached LANE_THRESH. DESIGN CHOICE (log entry 108): with as many
failed lanes in either half, the module keeps lanes 0–31. -/
def Pkg.d2dLaneThresh (p : Pkg) (e m en lane : Nat) : Pkg :=
  let x := p.d2dMod e m
  let inst := d2dLane e m en lane
  let narrow := x.st == 1 || x.want == 1
  if x.st == 2 || !thas p.edges e || m ≥ p.edgeModules e || lane ≥ 68 ||
      p.getF F.D2D_LANE_ERR.ERR_COUNT inst < max 1 (p.getF F.D2D_CFG.LANE_THRESH 0) ||
      p.flag F.D2D_LANE_ERR.REPAIRED inst || (narrow && !inHalf x.half lane) then p
  else
    let marked := p.setF F.D2D_LANE_ERR.REPAIRED inst 1
    if p.repairsUsed e m en < 4 then
      let q := marked.setMod e m { x with want := if narrow then 1 else 0 }
      (q.modState e m 3).d2dEvent 0x2801 e m lane
    else if narrow then p.modOff e m
    else
      let fs := marked.failedLanes e m 0 ++ marked.failedLanes e m 1
      let n (h : Nat) : Nat := (fs.filter fun l => l < 64 && l / 32 == h).length
      let h := if n 1 < n 0 then 1 else 0
      let q := (if inHalf h lane then marked else p).setMod e m { x with st := 1, want := 1, half := h }
      let q := q.d2dEvent 0x2802 e m 0x7F
      if ((q.failedLanes e m 0).filter (inHalf h)).length ≤ 4 && ((q.failedLanes e m 1).filter (inHalf h)).length ≤ 4
      then q else q.modOff e m

end Sys2Proof.Machine
end

