-- ==== Sys2Proof/Machine/FlashOps.lean ====
section
/-! DEFINITION. The flash: layout, directory, objects and their checks (R511, R520–R527). -/
namespace Sys2Proof.Machine

/-- `n` bytes from the flash; 0xFF where nothing was written. -/
def Flash.read (f : Flash) (a n : Nat) : List Byte := (List.range n).map fun i => tget 0xFF f.bytes (a + i)

/-- Bytes written to the flash. -/
def Flash.write (f : Flash) (a : Nat) (bs : List Byte) : Flash :=
  { f with bytes := bs.zipIdx.foldl (fun t x => tset 0xFF t (a + x.2) x.1) f.bytes }

/-- A range erased. -/
def Flash.erase (f : Flash) (a n : Nat) : Flash :=
  { f with bytes := f.bytes.filter fun c => !(a ≤ c.1 && c.1 < a + n) }

/-- S: the size of a scan library slot (R521). -/
def Flash.scanSlot (f : Flash) : Nat :=
  alignDown (64 * 1024) (min (512 * 1048576) ((f.mib - 48) * 1048576 / 2))

/-- The objects with slots, in the bit order of ACTIVE (R522). -/
inductive Obj where
  | config | owner | scan | key
  deriving DecidableEq, Repr

def Obj.bit : Obj → Nat
  | .config => 0 | .owner => 1 | .scan => 2 | .key => 3

/-- Offset of slot `i` of an object (R521). -/
def Flash.slotAt (f : Flash) (o : Obj) (i : Nat) : Nat :=
  match o with
  | .config => 0x70000 + i * 0x40000
  | .owner => 0x50000 + i * 0x10000
  | .scan => 0x3000000 + i * f.scanSlot
  | .key => 0x30000 + i * 0x10000

def Flash.slotSize (f : Flash) : Obj → Nat
  | .config => 0x40000
  | .owner => 0x10000
  | .scan => f.scanSlot
  | .key => 0x10000

/-- Offset of a firmware image: 0 A, 1 B. -/
def imageAt (i : Nat) : Nat := 0x1000000 + i * 0x1000000

/-! ### The directory (R522, R523) -/

structure Directory where
  dseq : Nat
  active : Nat
  erase : Nat
  fw : Nat
  rej : Nat
  deriving DecidableEq, Repr

/-- The first 60 bytes of a directory copy. -/
def Directory.body (d : Directory) : List Byte :=
  List.flatten [leBytes 4 0x56444952, leBytes 2 1, leBytes 2 0, leBytes 8 d.dseq, leBytes 1 d.active, leBytes 1 d.erase,
    leBytes 1 d.fw, leBytes 5 0, leBytes 8 d.rej, leBytes 28 0]

/-- A directory copy, if it is valid (R523); ERASE has its bits as ACTIVE, and like it zeros above them. -/
def Flash.copyOf (f : Flash) (i : Nat) : Option Directory :=
  let b := f.read (i * 0x10000) 64
  let d : Directory := ⟨leAt b 8 8, leAt b 16 1, leAt b 17 1, leAt b 18 1, leAt b 24 8⟩
  if b.take 60 == d.body && leAt b 60 4 == rindOf (b.take 60) && d.active < 16 && d.erase < 16 && d.fw < 16 then some d else none

/-- The directory in force, and the copy that holds it. -/
def Flash.dir (f : Flash) : Directory × Nat :=
  match f.copyOf 0, f.copyOf 1 with
  | some a, some b => if a.dseq < b.dseq then (b, 1) else (a, 0)
  | some a, none => (a, 0)
  | none, some b => (b, 1)
  | none, none => (⟨0, 0, 0, 0x0F, 0⟩, 1)

/-- A directory write (R523): DSEQ rises by 1, the copy not in force is erased and written. -/
def Flash.writeDir (f : Flash) (d : Directory) : Flash :=
  let (old, i) := f.dir
  let d := { d with dseq := (old.dseq + 1) % 2 ^ 64 }
  let a := (1 - i) * 0x10000
  (f.erase a 0x10000).write a (d.body ++ leBytes 4 (rindOf d.body))

def Directory.slot (d : Directory) (o : Obj) : Nat := fld d.active o.bit o.bit

def Directory.confirmed (d : Directory) : Nat := fld d.fw 1 0
def Directory.trial (d : Directory) : Nat := fld d.fw 3 2

/-! ### Firmware images (R510, R513, R524) -/

/-- LEN, SVN and BUILD of an image. -/
def Flash.imgLen (f : Flash) (i : Nat) : Nat := ofLe (f.read (imageAt i + 4) 4)
def Flash.imgSvn (f : Flash) (i : Nat) : Nat := ofLe (f.read (imageAt i + 8) 2)
def Flash.imgBuild (f : Flash) (i : Nat) : Nat := ofLe (f.read (imageAt i + 16) 8)

/-- The signed bytes of an image. -/
def Flash.imgBody (f : Flash) (i : Nat) : List Byte := f.read (imageAt i) (f.imgLen i - 384)

/-- An object of `len` bytes at `a` that ends in its signature verifies under `n` (R510). -/
def Flash.signed (f : Flash) (n a len : Nat) : Bool :=
  384 ≤ len && pssVerify n (f.read a (len - 384)) (f.read (a + len - 384) 384)

/-- The Verpin root key's modulus, once its SHA-256 is found equal to the fused hash (R509, R524); 0 where it is not. What octets of the
key the hash covers is not stated: its modulus (DESIGN CHOICE, log entry 156). -/
def Flash.rootKey (f : Flash) (hash : Nat) : Nat := if ofBe (sha256 (beBytes 384 f.rootN)) == hash then f.rootN else 0

def Pkg.rootKey (p : Pkg) : Nat := p.flash.rootKey p.fuse.rootHash

/-- The identity private key unwrapped for use (R509): the exponent's octets (log entry 156). -/
def Pkg.idKey (p : Pkg) : Option Nat := (unwrapPad p.fuse.devKey p.flash.idWrap).map ofBe

/-- Is the image a candidate under the root key (R524)? -/
def Flash.candidate (f : Flash) (root minSvn rej i : Nat) : Bool :=
  root != 0 && 24 + 384 ≤ f.imgLen i && f.imgLen i ≤ 0x1000000 && f.signed root (imageAt i) (f.imgLen i) &&
    minSvn ≤ f.imgSvn i && f.imgBuild i != rej

/-- The image that the boot ROM chooses (R525 step 2). -/
def Flash.choose (f : Flash) (root minSvn rej : Nat) : Option Nat :=
  match f.candidate root minSvn rej 0, f.candidate root minSvn rej 1 with
  | true, true => some (if f.imgBuild 0 < f.imgBuild 1 then 1 else 0)
  | true, false => some 0
  | false, true => some 1
  | false, false => none

/-! ### Staged objects (R511, R527) -/

/-- The owner key of a certificate at `a`, if the certificate is valid for the device (R511). -/
def Flash.ownerAt (f : Flash) (root serial a : Nat) : Option Nat :=
  let b := f.read a 800
  let any := leAt b 6 2
  if root != 0 && leAt b 0 4 == 0x4F574E31 && leAt b 4 2 == 1 && any < 2 && leAt b 8 8 == (if any == 1 then 0 else serial) &&
      leAt b 16 4 == 65537 && zeroAt b 20 12 && pssVerify root (b.take 416) (b.drop 416) then
    some (ofBe ((b.drop 32).take 384))
  else none

/-- Is a slot empty (R527)? -/
def Flash.emptyAt (f : Flash) (a : Nat) : Bool := (f.read a 8).all (· == 0xFF)

/-- The slots named in ERASE are erased, and the directory written with ERASE cleared (R527). -/
def Flash.doErase (f : Flash) : Flash :=
  let d := f.dir.1
  if d.erase == 0 then f
  else
    let f := [Obj.config, .owner, .scan, .key].foldl (fun f o =>
      if bitOf d.erase o.bit then f.erase (f.slotAt o (1 - d.slot o)) (f.slotSize o) else f) f
    f.writeDir { d with erase := 0 }

/-- The bytes of the scan library's copy at offset `o` of the copy region, read again from the flash (R471, R482). -/
def Pkg.scanBytes (p : Pkg) (o n : Nat) : List Byte :=
  match p.boot.lib with
  | some (slot, len) =>
    let k := min n (len - o)
    p.flash.read (p.flash.slotAt .scan slot + o) k ++ List.replicate (n - k) 0
  | none => List.replicate n 0

/-- CFG_DIR shows the directory in force. -/
def Pkg.showDir (p : Pkg) : Pkg :=
  let d := p.flash.dir.1
  let p := (p.setF F.CFG_DIR.ERASE 0 d.erase).setF F.CFG_DIR.ACTIVE 0 d.active
  (p.setF F.CFG_DIR.FW 0 d.fw).setF F.CFG_DIR.DSEQ 0 d.dseq

end Sys2Proof.Machine
end

