-- ==== Sys2Proof/Machine/VatOps.lean ====
section
/-! DEFINITION. Vat resets, in-field scans, PLL loss and requests to a vat under reset (R31–R41, R470–R485). -/
namespace Sys2Proof.Machine

/-- VAT_PLL_UNLOCK (R31, R38). DESIGN CHOICE (log entry 111): INDEX of the 0x2805 record is the vat, for a PLL belongs to no
edge. -/
def Pkg.vatPllUnlock (p : Pkg) (m : Memory) (v : Nat) : Pkg :=
  (p.event 0x2805 v 0x13 false v 0 v).requestReset m v 4 false

/-- VAT_RESET_REQUEST (R38, R40): a write of TOP_VAT_RESET; a write with another cause than host, sit-out or watchdog
recovery is ignored. -/
def Pkg.vatResetRequest (p : Pkg) (m : Memory) (mask cause : Nat) (scan : Bool) : Pkg :=
  if cause == 1 || cause == 2 || cause == 5 then
    (List.range 4).foldl (fun q v => if bitOf mask v then q.requestReset m v cause scan else q) p
  else p

/-- The per-core registers that a vat reset and a program load clear; CORE_FAULT and CORE_MX_FAULT survive (R82). -/
def coreRegs : List Reg :=
  [.CORE_TC_STAT, .CORE_TC_CFG, .CORE_CVT_CNT0, .CORE_CVT_CNT1, .CORE_CVT_FLAGS, .CORE_MX_STAT, .CORE_MX_TONE,
   .CORE_MX_TAINT, .CORE_IFAULT, .CORE_STEP, .CORE_BRACKET, .CORE_RIND_STAT, .CORE_TAKE, .CORE_XF_STAT, .CORE_VE_STAT,
   .CORE_VE_TAINT, .CORE_SY_STAT, .CORE_WDOG, .CORE_NUM_CNT, .CORE_NUM_BRK0, .CORE_NUM_BRK1, .CORE_NUM_BRK2]

/-- A core's registers cleared. -/
def Pkg.clearCore (p : Pkg) (k : Nat) : Pkg := p.clearRegs coreRegs k

/-- What a reset of vat `v` leaves of an op of its cores (R34, R37): the requests that a credit sent to a place outside the vat,
and the blocks that the own hub still holds, which the fabric delivers; what was to come back goes. -/
def FKind.delivered (v pkg : Nat) (sent : Nat → Bool) : FKind → Option FKind
  | .store ws =>
    let r := ws.filter fun w => sent w.addr && dieOf w.addr != v
    if r.isEmpty then none else some (.store r)
  | .atomic x =>
    let r := x.blocks.filter fun b => sent b.blk && dieOf b.blk != v
    if r.isEmpty then none else some (.atomic { x with blocks := r })
  | .xfer q t bs =>
    let r := bs.filter fun b => q == pkg && sent b.addr
    if r.isEmpty then none else some (.xfer q t r)
  | .cx q g n dg c bs =>
    let r := bs.filter fun b => q == pkg && sent b.addr
    if r.isEmpty then none else some (.cx q g n dg c r)
  | _ => none

/-- A physical core through a vat reset (R37): one that carries a logical core is IDLE with no program; spare, fused-off
and retired cores stay. Its credit counters are full, and what the fabric has taken from it stays under way (R34). -/
def Pkg.resetCore (p : Pkg) (k : Nat) : Pkg :=
  let c := p.core k
  let st := if c.st == .off || c.st == .spare || c.st == .retired then c.st else .idle
  let fl := c.flight.filterMap fun f =>
    (f.kind.delivered (k / 128) p.pkgId fun a => !c.unsent.any fun r => r.no == f.no && r.addr == a).map fun x => { f with kind := x }
  (p.setCore k { Core.init st with
    issueNo := c.issueNo, flight := fl, fab := c.fab.filter fun r => fl.any fun f => f.no == r.no && dieOf r.addr != k / 128 }).clearCore k

/-- The updates pending in a vat under reset are abandoned (R319): their ops leave the issuing cores, and each logs the drop of
its writes (R39; DEDUCED, log entry 144). -/
def Pkg.dropPress (p : Pkg) (v : Nat) : Pkg :=
  let x := p.vat v
  let p := (List.range (x.pressQ.length + b2n x.press.isSome)).foldl (fun q _ => q.vatDrop v) p
  let gone (f : Flight) : Bool := match f.kind with
    | .press w _ => w == v
    | _ => false
  let p := (p.cores.map (·.1)).foldl (fun q k =>
    (q.onCore k fun c => ({ c with flight := c.flight.filter (!gone ·) } : Core).capSpent .st).pumpAll k) p
  let p := p.setVat v { x with pressQ := [], press := none, digs := [], verdict := none }
  let p := (List.range 4).foldl (fun q i => q.clearRegs [.PRESS_STAT, .PRESS_STAT2] (4 * v + i)) p
  let p := if p.getF F.PRESS_DIG_CTL.ENTRIES 0 == 0 then p else p.countEntries
  p.clearRegs [.PRESS_QUEUE, .PRESS_VDIG_CE, .PRESS_VDIG_CI] v

/-- The requests queued or held at the pseudo-channels of a vat under reset are gone (R37); each that is no op's, which was done
with before, is a drop (R39). -/
def Pkg.dropQueues (p : Pkg) (v : Nat) : Pkg :=
  let mine := p.pchs.filter fun x => x.1 / 256 == v
  let n := ((mine.map fun x => (x.2.q ++ x.2.held).filter (·.op.isNone)).flatten).length
  let p := (List.range n).foldl (fun q _ => q.vatDrop v) p
  { p with pchs := p.pchs.filterMap fun x =>
      if x.1 / 256 != v then some x
      else
        let y : Pch := { x.2 with q := [], held := [], drain := false }
        if y = Pch.init then none else some (x.1, y) }

/-- The requests to a vat in QUIESCE that credits sent are done with (R34, R38, R39): writes and atomics drop, reads complete with
the invalid mark, those of instruction fetch and of the fill partition too. -/
def Dev.dropWaiting (d : Dev) (v : Nat) : Dev :=
  (d.pkg.cores.map (·.1)).foldl (fun d k =>
    let d := (d.pkg.core k).flight.foldl (fun d f =>
      (f.kind.requests.filter fun a => f.kind.toMemory && dieOf a == v).foldl (fun d a => d.performAt k f.no a) d) d
    let d := ((d.pkg.core k).refetch.filter fun l => dieOf (l * 512) == v).foldl (fun d l => d.refetch k l) d
    match (d.pkg.core k).fe.miss with
    | some l => if dieOf (l * 512) == v then { d with pkg := d.pkg.icacheArrive d.mem k false } else d
    | none => d) d

/-- VAT_QUIESCE_DRAINED (R34, R37–R39, R89, R319): what waits on the vat is done with, the vat enters RESET and its core state is
cleared. -/
def Dev.quiesceDrained (d : Dev) (v : Nat) : Dev :=
  if (d.pkg.vat v).st != .quiesce then d
  else
    let d := d.dropWaiting v
    let p := (d.pkg.dropPress v).dropQueues v
    let p := p.setVat v { p.vat v with st := .reset, since := p.time }
    let p := (vatCores v).foldl (·.resetCore ·) (p.swapInReset v)
    { d with pkg := { p with outs := p.outs.filter (·.core / 128 != v), reps := p.reps.filter (·.core / 128 != v) } }

/-- VAT_RESET_HOLD_END (R38): after at least 100 µs in RESET the vat enters SCAN or BOOT. -/
def Pkg.resetHoldEnd (p : Pkg) (v : Nat) : Pkg :=
  let x := p.vat v
  if x.st != .reset then p
  else
    let t := max p.time (x.since + 100000)
    ({ p with time := t }).setVat v { x with st := if x.scan then .scan else .boot, since := t }

/-! ### The scan (R482–R485) -/

/-- One failing compute core is retired in SCAN (R484); a logical core that no spare is left for is carried by none (log entry 154). -/
def Pkg.scanRetire (p : Pkg) (k : Nat) : Pkg :=
  match p.logicalOf k with
  | none => p.setCore k (Core.init .retired)
  | some l =>
    match p.lowestSpare (k / 128) with
    | some s => p.moveLogical l k s
    | none => { p.setCore k (Core.init .retired) with coreMap := tset (l % 128) p.coreMap l 0x7F }

/-- VAT_SCAN_DONE (R483–R485): the failing compute cores, the first failing unit of another kind (0 none), the length of
the scan in µs. -/
def Pkg.scanDone (p : Pkg) (v : Nat) (fails : List Nat) (unit dur : Nat) : Pkg :=
  let x := p.vat v
  if x.st != .scan then p
  else
    let ks := dedup ((fails.filter (· < 100)).map (v * 128 + ·))
    let ks := ks.filter fun k => (p.core k).st != .off && (p.core k).st != .retired
    let spares := (((List.range 100).map (v * 128 + ·)).filter fun k => (p.core k).st == .spare && !ks.contains k).length
    let moves := (ks.filter fun k => (p.logicalOf k).isSome).length
    let fit := unit == 0 && moves ≤ spares
    let res := if ks.isEmpty && unit == 0 then 1 else if fit then 2 else 3
    let first := if res != 3 then 0 else if ks.isEmpty then unit else 1
    let gone := ks.filter fun k => (p.logicalOf k).isNone
    let carried := ks.filter fun k => (p.logicalOf k).isSome
    let p := (gone ++ carried).foldl (·.scanRetire ·) p
    let n := ks.length
    let p := ((p.setF F.REL_SCAN.RESULT v res).setF F.REL_SCAN.FAIL_UNIT v first).setF F.REL_SCAN.RETIRED v n
    let p := (p.addF F.REL_SCAN.SCANS v 1).setF F.REL_SCAN.DURATION_US v (min dur (2 ^ 32 - 1))
    let p := p.event 0x4044 v 0x33 false 0 0 (res * 4096 + first * 256 + n % 32)
    p.setVat v { p.vat v with st := if res == 3 then .held else .boot, scan := false, since := p.time }

/-! ### Boot of a vat (R38, R358, R471, R472) -/

/-- Address of the block that a rind-table entry belongs to (R350). -/
def entryBlock (a : Nat) : Nat :=
  let o := a % 0x4000000000
  let k := o / 4096 / 256
  let n := 1024 * k + o % 4096 / 4
  let b0 := ((o / 4096 % 256) ^^^ k) ^^^ (n % 256) ^^^ (n / 256 % 256) ^^^ (n / 65536 % 4)
  a / 0x4000000000 * 0x4000000000 + 4096 * (256 * n + b0)

/-- Bytes written over a range that holds no error any more. -/
def Dev.renew (d : Dev) (a : Nat) (bs : List Byte) : Dev :=
  let touched := ((d.pkg.flaws.map (·.1)) ++ d.pkg.skew.map (·.1)).filter fun u => unitIn a bs.length u
  { mem := d.mem.write a bs, pkg := d.pkg.unflaw touched }

/-- A rind-table granule rebuilt with the invalid mark in each entry (R471). -/
def Dev.rebuildRinds (d : Dev) (g : Nat) : Dev :=
  d.renew g (((List.range 16).map fun i =>
    leBytes 4 (invalidMark (rindOf (d.mem.view d.pkg (entryBlock (g + 4 * i)) 4096)))).flatten)

/-- A listed block is rewritten during BOOT (R471); a block inside a cave is left (R472). -/
def Dev.rewriteListed (d : Dev) (b : Nat) : Dev :=
  match d.pkg.place b with
  | .user _ =>
    if d.pkg.inCave b then d
    else
      (d.renew b (List.replicate 4096 0)).putRind b (invalidMark zeroRind)
  | .reserved v =>
    let o := b % 0x4000000000
    if o < 0x0F000000 then
      (d.pkg.badIn b 4096).foldl (fun d u => d.rebuildRinds (8 * u)) d
    else if 0x3F000000 ≤ o && o < 0x3F200000 then d.renew b (List.replicate 4096 0)
    else if v == 0 && 0x10000000 ≤ o && o < 0x30000000 then d.renew b (d.pkg.scanBytes (o - 0x10000000) 4096)
    else d.renew b (d.mem.view d.pkg b 4096)
  | _ => d

/-- The cellar of a vat is cleared (R37, R353). -/
def Dev.clearCellar (d : Dev) (v : Nat) : Dev :=
  let a := 0x010000000000 + v * 0x100000000
  let inW (k n : Nat) : Bool := decide (a ≤ k * n) && decide (k * n < a + 0x10000000)
  { mem := d.mem.filter fun c => !inW c.1 1
    pkg := { d.pkg with
      flaws := d.pkg.flaws.filter (fun c => !inW c.1 8), skew := d.pkg.skew.filter (fun c => !inW c.1 8)
      crinds := d.pkg.crinds.filter fun c => !inW c.1 4096 } }

/-- VAT_BOOT_DONE (R31, R37, R38, R358, R471): the vat of a vat reset leaves BOOT; `relock` says that its PLLs locked, and
`lowRate` names the vat's edges that trained at a lower rate of the negotiated set (R20). -/
def Dev.bootDone (d : Dev) (v : Nat) (relock : Bool) (lowRate : List (Nat × Nat)) : Dev :=
  let x := d.pkg.vat v
  if x.st != .boot || x.cause == 0 then d
  else if !relock || d.pkg.flag F.REL_UE.FULL v then
    { d with pkg := d.pkg.setVat v { x with st := .held } }
  else
    let p := (List.range 256).foldl (fun q c => q.pinRepair (256 * v + c)) d.pkg
    let p := (vatEdges v).foldl (·.retrainEdge lowRate ·) p
    let d := (x.ues.foldl Dev.rewriteListed (Dev.mk d.mem p)).clearCellar v
    let p := d.pkg.setF F.REL_UE.COUNT v 0
    { d with pkg := p.setVat v { p.vat v with st := .ready, cause := 0, ues := [] } }

/-! ### The hub's fatal errors (R31, R479) -/

/-- The package stops: FAULT_N is asserted, every core halts (R479). -/
def Pkg.assertFault (p : Pkg) : Pkg :=
  let p := p.haltAll 0
  { p with pins := { p.pins with faultN := true } }

/-- NR1_PLL_UNLOCK (R31, R479): the hub no longer runs, so nothing is logged. -/
def Pkg.nr1PllUnlock (p : Pkg) : Pkg := p.assertFault

/-- HUB_SRAM_UE (R479). -/
def Pkg.hubSramUe (p : Pkg) : Pkg := (p.event 0x4048 0 0x34 false 0 0 2).assertFault

/-! ### Requests that reach their die (R28, R29, R34, R39) -/

/-- FABRIC_REQUEST_ARRIVE (R28, R29, R34, R39): the oldest request of an engine to a die reaches it over the edges of its
route. At a vat that is not READY it is dropped: a write is lost, a read returns with the invalid mark. With none of the
engine under way, a request from elsewhere arrives, and a drop of it is logged. -/
def Dev.fabricArrive (d : Dev) (k : Nat) (e : Eng) (die : Nat) : Dev :=
  match (d.pkg.core k).fab.find? fun r => r.eng == e && dieOf r.addr == die with
  | none => if die < 4 && d.pkg.hasVat die && !d.pkg.vatReady die then { d with pkg := d.pkg.vatDrop die } else d
  | some r =>
    if !d.pkg.routeUp (k / 128) die then d
    else if 4 ≤ die || (r.addr < 0x010000000000 && d.pkg.vatReady die) then
      { d with pkg := d.pkg.reachAll k r (d.pkg.core k).fab }
    else d.performAt k r.no r.addr

end Sys2Proof.Machine
end

