-- ==== Sys2Proof/Machine/Programs.lean ====
section
/-! DEFINITION. Program load, start and halt (R186–R190, R286, R287, R506). -/
namespace Sys2Proof.Machine

/-- A program header as read (R186). -/
structure PHdr where
  core : Nat
  grade : Nat
  kind : Nat
  ways : Nat
  bundles : Nat
  text : Nat
  entry : Nat
  wdog : Nat
  step : Nat
  claim : Nat
  owners : Nat
  deriving DecidableEq, Repr

/-- The fields of the 128 bytes of a header. -/
def PHdr.ofBytes (b : List Byte) : PHdr :=
  { core := leAt b 8 2 % 512, grade := leAt b 5 1, kind := leAt b 6 1, ways := leAt b 7 1, bundles := leAt b 12 4,
    text := leAt b 16 8, entry := leAt b 24 4, wdog := leAt b 28 4, step := leAt b 32 8, claim := leAt b 40 4,
    owners := leAt b 48 24 }

/-- Check 1 of R188. -/
def hdrOk (b : List Byte) : Bool :=
  leAt b 0 4 == 0x56484452 && leAt b 4 1 == 1 && leAt b 5 1 < 16 && leAt b 8 2 < 512 && zeroAt b 10 2 && zeroAt b 44 4 &&
    zeroAt b 72 52 && leAt b 124 4 == rindOf (b.take 124)

/-- The slots that loaded programs of cores outside the load claim (check 10). -/
def Pkg.slotsHeld (p : Pkg) (named : List Nat) : Nat :=
  (p.cores.filter fun c => c.2.hdr.loaded && !((p.logicalOf c.1).any named.contains)).foldl (fun a c => a ||| c.2.hdr.claims) 0

/-- The first check of R188 that a header fails. `before` holds the earlier headers of the load, `named` the cores of
the whole load. -/
def Pkg.hdrCheck (p : Pkg) (b : List Byte) (before : List PHdr) (named : List Nat) : Option Nat :=
  let h := PHdr.ofBytes b
  let dir := isDirIdx (h.core % 128)
  let free := match p.physOf h.core with
    | some k => ((p.core k).st == .idle || (p.core k).st == .halt) && !(p.swap.any (·.logical == h.core))
    | none => false
  let taken := before.foldl (fun a x => a ||| x.claim) (p.slotsHeld named)
  if !hdrOk b then some 0x101
  else if h.grade != p.fuse.grade then some 0x102
  else if !(p.isCore h.core && h.kind == b2n dir) then some 0x103
  else if before.any (·.core == h.core) then some 0x109
  else if !(p.vatReady (h.core / 128) && free) then some 0x108
  else if (if dir then 6 else 20) < h.ways then some 0x104
  else if h.bundles == 0 || 2 ^ 24 < h.bundles || !alignedTo 64 h.text || !p.userRange h.text (64 * h.bundles) ||
      h.bundles ≤ h.entry then some 0x105
  else if 2000000 < h.wdog then some 0x10A
  else if (List.range 64).any fun i => 6 ≤ h.owners / 8 ^ i % 8 then some 0x106
  else if (!dir && h.claim != 0) || h.claim &&& taken != 0 then some 0x107
  else none

/-- The first refusal of a load: code and CORE field. -/
def Pkg.loadCheck (p : Pkg) (named : List Nat) : List (List Byte) → List PHdr → Option (Nat × Nat)
  | [], _ => none
  | b :: bs, before =>
    match p.hdrCheck b before named with
    | some code => some (code, (PHdr.ofBytes b).core)
    | none => p.loadCheck named bs (before ++ [PHdr.ofBytes b])

/-! ### The scale table at load (R286, R287) -/

/-- The default entry. -/
def ScEnt.default : ScEnt := { ScEnt.empty with head := 2, ceilEn := true, rlo := 0xFF800000, rhi := 0x7F800000 }

def isNaN32 (x : Nat) : Bool := 0x7F800000 < x % 2 ^ 31

/-- An entry of the tensor configuration table; none where it is taken as default. -/
def tcfgEnt (b : List Byte) : Option ScEnt :=
  let head := leAt b 0 1
  let fl := leAt b 1 1
  if 16 ≤ head || 2 ≤ fl || !zeroAt b 2 6 || isNaN32 (leAt b 8 4) || isNaN32 (leAt b 12 4) then none
  else some { ScEnt.empty with head := head, ceilEn := fl == 1, rlo := leAt b 8 4, rhi := leAt b 12 4 }

/-- The scale table that a load gives each core, with the DETAIL of code 0x1004 when it is logged. -/
def Dev.tcfg (d : Dev) : Tab ScEnt × Option Nat × Dev :=
  let a := (d.pkg.reg .NUM_TCFG_ADDR 0).toNat
  let all := (List.range 256).map fun i => (i, ScEnt.default)
  if a == 0 then (all, none, d)
  else if !d.pkg.userRange a 4096 then (all, some 256, d)
  else
    let g := d.mem.fetch d.pkg 7 a 4096
    let d : Dev := { d with pkg := d.pkg.noteRead 7 a 4096 }
    if g.bad then (all, some 256, d.badDelivery 7 a 4096 7)
    else
      let es := (List.range 256).map fun i => (i, tcfgEnt ((g.bytes.drop (16 * i)).take 16))
      let first := (es.find? fun e => e.2.isNone).map (·.1)
      (es.foldl (fun t e => tset ScEnt.empty t e.1 (e.2.getD ScEnt.default)) [], first, d)

/-! ### Load (R189) -/

/-- The per-core registers that a program load clears. -/
def loadRegs : List Reg :=
  [.CORE_TC_STAT, .CORE_MX_STAT, .CORE_MX_TONE, .CORE_MX_TAINT, .CORE_RIND_STAT, .CORE_TAKE, .CORE_XF_STAT, .CORE_VE_STAT,
   .CORE_VE_TAINT, .CORE_SY_STAT, .CORE_WDOG, .CORE_NUM_CNT, .CORE_NUM_BRK0, .CORE_NUM_BRK1, .CORE_NUM_BRK2]

/-- A core with a program: every store as R66 gives it at load; requests of earlier ops that other units still perform
stay in flight. -/
def Core.loaded (c : Core) (h : PHdr) (sct : Tab ScEnt) : Core :=
  { (Core.init .idle).inherit c with
    hdr := ⟨true, h.kind, h.ways, h.bundles, h.text, h.entry, h.wdog, h.claim, h.owners⟩
    fe := { Fe.init with ptr := h.entry, seq := c.fe.seq, brkNo := c.fe.brkNo + 1 }
    gateNo := c.gateNo, sct := sct }

/-- One core loaded with its header; a load of a director discards the rounds of its groups (R299). -/
def Pkg.loadCore (p : Pkg) (h : PHdr) (sct : Tab ScEnt) : Pkg :=
  match p.physOf h.core with
  | none => p
  | some k =>
    let dir := isDirIdx (h.core % 128)
    let p := (p.setCore k ((p.core k).loaded h sct)).clearRegs loadRegs k
    let p := (p.setReg .CORE_STEP k (BitVec.ofNat 64 h.step)).setF F.CORE_WDOG.PERIOD_US k (if h.wdog == 0 then 100000 else h.wdog)
    let p := (p.setF F.CORE_BRACKET.OPEN k 0).setF F.CORE_BRACKET.CLOSING k 0
    let p := p.setF F.CORE_IFAULT.SKIP_STICKY k 0
    let p := (p.setF F.CORE_CVT_FLAGS.OVF_STICKY k 0).setF F.CORE_CVT_FLAGS.NF_STICKY k 0
    let p := (p.setF F.CORE_TC_CFG.SCRATCH_WAYS k h.ways).setF F.CORE_TC_CFG.FILL_WAYS k ((if dir then 8 else 24) - h.ways)
    let p := { p with outs := p.outs.filter (·.core != h.core), reps := p.reps.filter (·.core != h.core) }
    if dir then { p with groups := p.groups.filter fun x => p.getF F.NUM_GRP_DIR.DIRECTOR x.1 != h.core } else p

/-- The 128 bytes of a header at an address; bytes that cannot be read are zero. -/
def Dev.readHdr (d : Dev) (a : Nat) : List Byte × Dev :=
  let g := d.mem.fetch d.pkg 7 a 128
  let d : Dev := { d with pkg := d.pkg.noteRead 7 a 128 }
  if g.bad then (List.replicate 128 0, d.badDelivery 7 a 128 7) else (g.bytes, d)

/-- A list of headers read in order. -/
def Dev.readHdrs (d : Dev) : List Nat → List (List Byte) × Dev
  | [] => ([], d)
  | a :: as =>
    let (b, d) := d.readHdr a
    let (bs, d) := d.readHdrs as
    (b :: bs, d)

/-- The load of a binary: refusal code and CORE field, or none, with `fix` applied to each header before it is put in
force (R453). -/
def Dev.loadBinary (d : Dev) (slate : Nat) (addrs : List Nat) (fix : Nat → PHdr → PHdr) : Option (Nat × Nat) × Dev :=
  let (bs, d) := d.readHdrs addrs
  let hs := bs.map PHdr.ofBytes
  match d.pkg.loadCheck (hs.map (·.core)) bs [] with
  | some (code, core) =>
    (some (code, core), { d with pkg := d.pkg.event code (core / 128) 7 false (core % 128) slate core })
  | none =>
    let (sct, det, d) := d.tcfg
    let p := match det with
      | some x => d.pkg.event 0x1004 0 7 false 0 slate x
      | none => d.pkg
    (none, { d with pkg := (addrs.zip hs).foldl (fun q x => q.loadCore (fix x.1 x.2) sct) p })

/-! ### Start and halt (R506) -/

/-- Is the named core one that START acts on? -/
def Pkg.startable (p : Pkg) (id : Nat) : Bool :=
  match p.physOf id with
  | some k => p.isCore id && p.vatReady (id / 128) && (p.core k).st == .idle && (p.core k).hdr.loaded
  | none => false

/-- Is the named core one that HALT acts on? -/
def Pkg.haltable (p : Pkg) (id : Nat) : Bool := p.runs id && p.vatReady (id / 128)

/-- The IDs of a mask of `n` bits. -/
def maskIds (n mask : Nat) : List Nat := (List.range n).filter (bitOf mask ·)

def Pkg.startCore (p : Pkg) (id : Nat) : Pkg :=
  match p.physOf id with
  | some k => p.onCore k fun c => { c with st := .run }
  | none => p

def Pkg.haltLogical (p : Pkg) (id cause : Nat) : Pkg :=
  match p.physOf id with
  | some k => p.haltCore k cause
  | none => p

/-- The first of the package's cores start: check steps count from their STEP_NO (R446). -/
def Pkg.startFrom (p : Pkg) (ids : List Nat) : Pkg :=
  if p.anyRun then p
  else match ids.filterMap p.physOf with
    | [] => p
    | k :: ks =>
      let s := ks.foldl (fun a k => min a (p.reg .CORE_STEP k).toNat) (p.reg .CORE_STEP k).toNat
      { p with lead := { p.lead with
        first := s, own := none, last := none,
        decided := match p.lead.decided with
          | some x => if s ≤ x then none else some x
          | none => none } }

/-- A START on a package where no core runs begins a job (R480; DESIGN CHOICE, log entry 153): the orders of the job before are over,
but a replica that they left out of the rings stays out, from the first step on. -/
def Pkg.jobBegins (p : Pkg) (ids : List Nat) : Pkg :=
  if p.anyRun || ids.isEmpty then p
  else
    let out := p.outAt p.appliedStep
    let keep := (p.orders.filter fun o => (o.kind == .expel || o.kind == .sitout) && o.logged && out.contains o.replica).map fun o =>
      { o with step := 0, imm := true }
    let p := { p with orders := keep, lead := { p.lead with
      checks := [], rejoins := [], dead := [], ready := [], wdog := none, wdogged := false, poisoned := false } }
    if p.getF F.CLAP_CONT_STATE.STATE 0 == 4 then p.setF F.CLAP_CONT_STATE.STATE 0 0 else p

/-- The named cores that START acts on run; answers the mask of the others. -/
def Pkg.startMask (p : Pkg) (mask : Nat) : Nat × Pkg :=
  let ids := maskIds 512 mask
  let go := ids.filter (p.startable ·)
  ((ids.filter (!p.startable ·)).foldl (fun a i => a + 2 ^ i) 0, go.foldl (·.startCore ·) ((p.jobBegins go).startFrom go))

/-- The named cores that HALT acts on stop with HALT_CAUSE 0x3; answers the mask of the others. -/
def Pkg.haltMask (p : Pkg) (mask : Nat) : Nat × Pkg :=
  let ids := maskIds 512 mask
  ((ids.filter (!p.haltable ·)).foldl (fun a i => a + 2 ^ i) 0, (ids.filter (p.haltable ·)).foldl (fun q i => q.haltLogical i 3) p)

end Sys2Proof.Machine
end

