-- ==== Sys2Proof/Machine/Gaffer.lean ====
section
/-! DEFINITION. The gaffer: power and thermal terms, throttle level, temperatures, general-purpose pins
(R545–R557). -/
namespace Sys2Proof.Machine

/-- An event of the gaffer (R557). -/
def Pkg.gaffEvent (p : Pkg) (code detail : Nat) : Pkg := p.event code 0 0x38 false 0 0 detail

/-! ### Settings, within their limits -/

def Pkg.sustainW (p : Pkg) : Nat := max 1200 (min 3200 (p.getF F.GAFF_CFG.SUSTAIN_W 0))
def Pkg.burstW (p : Pkg) : Nat := max p.sustainW (min 3800 (p.getF F.GAFF_CFG.BURST_W 0))
def Pkg.floorW (p : Pkg) : Nat := min (p.sustainW - 100) (p.getF F.GAFF_CFG.FLOOR_W 0)
def Pkg.brakeTerm (p : Pkg) : Nat := if p.pins.brakeLow then min 56 (p.getF F.GAFF_CFG.BRAKE_LEVEL 0) else 0
def Pkg.tjWarn (p : Pkg) : Nat := min 105 (p.getF F.GAFF_TEMP_CFG.TJ_WARN 0)
def Pkg.stackWarn (p : Pkg) : Nat := min 95 (p.getF F.GAFF_TEMP_CFG.STACK_WARN 0)

/-! ### The throttle level (R546, R547) -/

/-- L (R547 step 4). -/
def Pkg.level (p : Pkg) : Nat := min 56 (max p.pow.power (max p.pow.thermal p.brakeTerm))

/-- LEVEL shows L; its rise from 0 and its return to 0 are counted and logged. -/
def Pkg.showLevel (p : Pkg) : Pkg :=
  let was := p.getF F.GAFF_POWER.LEVEL 0
  let l := p.level
  let p := p.setF F.GAFF_POWER.LEVEL 0 l
  if was == 0 && l != 0 then
    let p := { p with pow := { p.pow with since := some p.time } }
    (p.addF F.GAFF_THR_STAT.EPISODES 0 1).gaffEvent 0x3801
      (b2n (p.pow.power != 0) + 2 * b2n (p.pow.thermal != 0) + 4 * b2n (p.brakeTerm != 0))
  else if was != 0 && l == 0 then
    let ms := (p.time - p.pow.since.getD p.time) / 1000000
    ({ p with pow := { p.pow with since := none } }).gaffEvent 0x3802 (min 65535 ms)
  else p

/-- Sums of the 1 ms groups of samples, newest first; 100 samples each. -/
def msSums : Nat → List Nat → List Nat
  | 0, _ => []
  | n + 1, s => (s.take 100).foldl (· + ·) 0 :: msSums n (s.drop 100)

/-- The largest of the averages of R547 step 1, times 100,000: `kept` sums the 1 ms groups still in the window, oldest
group next. -/
def projGo (pnow floor : Nat) : List Nat → Nat → Nat → Nat → Nat
  | [], _, _, best => best
  | s :: ss, k, kept, best =>
    let kept := kept - s
    projGo pnow floor ss (k + 1) kept (max best (kept + 100 * (pnow + k * floor)))

/-- The sustained projection (R547), in W × 100,000. -/
def projection (samples : List Nat) (pnow floor : Nat) : Nat :=
  let ms := msSums 1000 samples
  projGo pnow floor ms.reverse 0 (ms.foldl (· + ·) 0) 0

/-- GAFFER_SAMPLE (R545, R547): the 10 µs sample of the input power, in W. -/
def Pkg.gafferSample (p : Pkg) (w : Nat) : Pkg :=
  let x := p.pow
  let ss := (w :: x.samples).take 100000
  let p10 := (ss.take 1000).foldl (· + ·) 0
  let p1 := ss.foldl (· + ·) 0
  let proj := projection ss w p.floorW
  let sus := p.sustainW
  let bst := p.burstW
  let rise := 100000 * (sus - 20) ≤ proj || 1000 * (bst - 50) ≤ p10
  let calm := proj ≤ 100000 * (sus - 60) && p10 ≤ 1000 * (bst - 100)
  let n := if calm then x.calm + 1 else 0
  let power := if rise then min 56 (x.power + 1) else if n == 10 then x.power - 1 else x.power
  let t (i : Nat) : Nat := fld (p.getF F.GAFF_TEMP.VAT 0) (8 * i + 7) (8 * i)
  let tj := max (maxOf ((List.range 4).map t)) (p.getF F.GAFF_TEMP.HUB 0)
  let stack := p.getF F.GAFF_TEMP.STACK 0
  let hot := p.tjWarn ≤ tj || p.stackWarn ≤ stack
  let cold := tj + 2 ≤ p.tjWarn && stack + 2 ≤ p.stackWarn
  let c := if cold then x.cool + 1 else 0
  let thermal := if hot then min 56 (x.thermal + 1) else if c == 10 then x.thermal - 1 else x.thermal
  let on := p.getF F.GAFF_POWER.LEVEL 0 != 0
  let x := { x with samples := ss, power := power, thermal := thermal, calm := n % 10, cool := c % 10 }
  let p := { p with pow := x }
  let p := (p.setF F.GAFF_POWER.P1_W 0 (p1 / 100000)).setF F.GAFF_POWER.P10_W 0 (p10 / 1000)
  let p := p.setF F.GAFF_POWER.PNOW_W 0 (min 65535 w)
  let p := if on then p.addF F.GAFF_THR_STAT.THROTTLE_US 0 10 else p
  p.showLevel

/-! ### The brake (R547, R552) -/

/-- The level of MGPIO2 or MGPIO3 as the board drives it (R552). -/
def Pkg.drivePin (p : Pkg) (pin : Nat) (high : Bool) : Pkg :=
  if pin == 2 then { p with pins := { p.pins with m2 := high } }
  else if pin == 3 then { p with pins := { p.pins with m3 := high } }
  else p

/-- BRAKE_N_FALL. -/
def Pkg.brakeFall (p : Pkg) : Pkg :=
  if p.pins.brakeLow then p
  else
    let p := { p with pins := { p.pins with brakeLow := true } }
    (p.addF F.GAFF_THR_STAT.BRAKES 0 1).showLevel

/-- BRAKE_N_RISE. -/
def Pkg.brakeRise (p : Pkg) : Pkg := ({ p with pins := { p.pins with brakeLow := false } }).showLevel

/-! ### Temperatures (R549–R551, R557) -/

/-- One warning, when a sensor first reaches its limit; sensor `i` of die `die` (0–3 a vat, 4 the hub, 5 the stacks). -/
def Pkg.warnAt (p : Pkg) (die lim i temp : Nat) : Pkg :=
  let key := 16 * die + i
  if temp < lim then { p with pow := { p.pow with warned := p.pow.warned.filter (· != key) } }
  else if p.pow.warned.contains key then p
  else ({ p with pow := { p.pow with warned := key :: p.pow.warned } }).gaffEvent 0x3803 (die * 256 + min 255 temp)

/-- The warnings of a die's sensors, or of the stacks. -/
def Pkg.warnAll (p : Pkg) (die lim : Nat) (ts : List Nat) : Pkg := ts.zipIdx.foldl (fun q x => q.warnAt die lim x.2 x.1) p

/-- TEMP_SAMPLE (R549): the readings of the 16 junction sensors of each present vat and of the hub's 8, and of each stack of a
present vat, in °C; the highest of each die and of the stacks is shown. -/
def Pkg.tempSample (p : Pkg) (vats : List (List Nat)) (hubs cubes : List Nat) : Pkg :=
  let ts (v : Nat) : List Nat := if p.hasVat v then (vats.getD v []).take 16 else []
  let hs := hubs.take 8
  let ss := (cubes.take 16).zipIdx.map fun x => if p.hasVat (x.2 / 4) then x.1 else 0
  let t (v : Nat) : Nat := min 255 (maxOf (ts v))
  let hub := maxOf hs
  let stack := maxOf ss
  let tj := max (maxOf ((List.range 4).map t)) hub
  let p := p.setF F.GAFF_TEMP.VAT 0 ((List.range 4).foldl (fun a v => a + t v * 2 ^ (8 * v)) 0)
  let p := (p.setF F.GAFF_TEMP.HUB 0 (min 255 hub)).setF F.GAFF_TEMP.STACK 0 (min 255 stack)
  let p := (List.range 4).foldl (fun q v => q.warnAll v q.tjWarn (ts v)) p
  let p := (p.warnAll 4 p.tjWarn hs).warnAll 5 p.stackWarn ss
  let x := p.pow
  let p := { p with pow := { x with tjSum := x.tjSum + tj, tjN := x.tjN + 1 } }
  let p := p.setF F.GAFF_TJ_AVG.AVG 0 (min 65535 (p.pow.tjSum * 256 / p.pow.tjN))
  p.setF F.GAFF_TJ_AVG.HOURS 0 (min (2 ^ 32 - 1) (p.pow.tjN / 36000000))

/-- THERMTRIP (R543, R551): a junction (die 0–3 a vat, 4 the hub) reached 110 °C. THERMTRIP_N is asserted whenever VIN is there, also
while RESET_N is low; only the record needs a hub that runs. -/
def Pkg.thermtrip (p : Pkg) (die temp : Nat) : Pkg :=
  if temp < 110 || !p.pins.supply then p
  else if !p.alive then { p with pins := { p.pins with thermtrip := true } }
  else
    let p := (p.gaffEvent 0x3804 (die % 8 * 256 + min 255 temp)).haltAll 0
    { p with pins := { p.pins with thermtrip := true } }

/-! ### MGPIO (R552, R556) -/

/-- GAFF_GPIO_WRITE (R556): both roles of MGPIO2 at once set M2_CONFLICT, logged each time it becomes set. -/
def Pkg.gpioWrite (p : Pkg) (w : Nat) : Pkg :=
  let both := bitOf w 9 && bitOf w 10
  let was := p.flag F.GAFF_GPIO.M2_CONFLICT 0
  let p := (p.setF F.GAFF_GPIO.ALERT_L 0 (fld w 31 26)).setF F.GAFF_GPIO.ALERT_EN 0 (fld w 10 10)
  let p := (p.setF F.GAFF_GPIO.TIME_EN 0 (fld w 9 9)).setF F.GAFF_GPIO.M3_OUT 0 (fld w 8 8)
  let p := p.setF F.GAFF_GPIO.M2_CONFLICT 0 (b2n both)
  if both && !was then p.event 0x480E 0 0x37 false 0 0 0 else p

/-- Is ALERT_OUT asserted? TIME_IN wins over it (R556). -/
def Pkg.alert (p : Pkg) : Bool :=
  p.flag F.GAFF_GPIO.ALERT_EN 0 && !p.flag F.GAFF_GPIO.TIME_EN 0 &&
    (p.pow.thermal != 0 || p.getF F.GAFF_GPIO.ALERT_L 0 ≤ p.level)

/-- Levels of MGPIO3–MGPIO0: general purpose, TIME_IN or ALERT_OUT, READY, BRAKE_N. -/
def Pkg.gpioPins (p : Pkg) : Nat :=
  b2n (!p.pins.brakeLow) + 2 * b2n (p.getF F.CFG_BOOT.PHASE 0 == 8) + 4 * b2n (p.pins.m2 && !p.alert) +
    8 * b2n (p.pins.m3 && !p.flag F.GAFF_GPIO.M3_OUT 0)

end Sys2Proof.Machine
end

