-- ==== Sys2Proof/Machine/Press.lean ====
section
/-! DEFINITION. The update op of the press units (R309, R310, R318, R319, R328–R340) and the continuity digest
(R341–R343). -/
namespace Sys2Proof.Machine

/-! ### Records (R328, R329) -/

/-- An optimizer record from its 128 bytes. -/
def optRecOf (bs : List Byte) : OptRec :=
  let fl := leAt bs 1 1
  { opt := leAt bs 0 1, whey := bitOf fl 0, nesterov := bitOf fl 1, digest := bitOf fl 2, gbf16 := bitOf fl 3,
    layer := leAt bs 2 2, slices := leAt bs 4 4, hi := leAt bs 8 8, lo := leAt bs 0x10 8, wheyA := leAt bs 0x18 8,
    grad := leAt bs 0x20 8, mom1 := leAt bs 0x28 8, mom2 := leAt bs 0x30 8, lr := leAt bs 0x38 4, wd := leAt bs 0x3C 4,
    b1 := leAt bs 0x40 4, b2 := leAt bs 0x44 4, eps := leAt bs 0x48 4, gscale := leAt bs 0x4C 4,
    bc1 := leAt bs 0x50 4, bc2 := leAt bs 0x54 4 }

/-- Does the optimizer use B1, B2, EPS with the bias corrections, the first and the second moment (R331)? -/
def OptRec.usesB1 (r : OptRec) : Bool := r.opt != 0
def OptRec.usesB2 (r : OptRec) : Bool := r.opt == 2 || r.opt == 3
def OptRec.usesAdam (r : OptRec) : Bool := r.opt == 2
def OptRec.usesM1 (r : OptRec) : Bool := r.opt != 0
def OptRec.usesM2 (r : OptRec) : Bool := r.opt == 2

/-- Check FORMAT (reason 0x1). -/
def formatBad (bs : List Byte) (r : OptRec) : Bool :=
  crc32c (bs.take 0x7C) != leAt bs 0x7C 4 || 3 < r.opt || (r.nesterov && r.opt != 1) || leAt bs 1 1 / 16 != 0 ||
  !zeroAt bs 0x58 36 || (!r.whey && r.wheyA != 0) || (!r.usesM1 && r.mom1 != 0) || (!r.usesM2 && r.mom2 != 0) ||
  (!r.usesB1 && r.b1 != 0) || (!r.usesB2 && r.b2 != 0) ||
  (!r.usesAdam && (r.eps != 0 || r.bc1 != 0 || r.bc2 != 0)) ||
  [r.hi, r.lo, r.wheyA, r.grad, r.mom1, r.mom2].any fun a => 2 ^ 48 ≤ a

/-- Is an FP32 pattern in [0, 1]? −0 counts as 0. -/
def inUnit (x : Nat) : Bool := x ≤ 0x3F800000 || x == 0x80000000

/-- Check VALUE (reason 0x2). -/
def valueBad (r : OptRec) : Bool :=
  let fin (x : Nat) : Bool := (dec32 x).isFin
  !fin r.lr || !fin r.wd || !fin r.gscale || (r.usesB1 && !(fin r.b1 && inUnit r.b1)) ||
  (r.usesB2 && !(fin r.b2 && inUnit r.b2)) ||
  (r.usesAdam && !(fin r.eps && fin r.bc1 && fin r.bc2 && 0 < r.eps && r.eps < 0x80000000))

/-- The tensors of a record: address and bytes per slice. -/
def OptRec.tensors (r : OptRec) : List (Nat × Nat) :=
  [(r.hi, 8192), (r.lo, 8192)] ++ (if r.whey then [(r.wheyA, 4096)] else []) ++
    [(r.grad, if r.gbf16 then 8192 else 16384)] ++ (if r.usesM1 then [(r.mom1, 16384)] else []) ++
    (if r.usesM2 then [(r.mom2, 16384)] else [])

/-- Do any two ranges of a list overlap? -/
def rangesMeet : List (Nat × Nat) → Bool
  | [] => false
  | x :: t => t.any (fun y => !disjointRange x.1 x.2 y.1 y.2) || rangesMeet t

/-- Does a range of program memory touch a cave? -/
def Pkg.touchesCave (p : Pkg) (a n : Nat) : Bool := (unitsOf 0x40000000 a n).any fun g => p.inCave g

/-- Check PLACE (reason 0x3). -/
def Pkg.placeBad (p : Pkg) (v : Nat) (r : OptRec) : Bool :=
  let ts := r.tensors.map fun t => (t.1, t.2 * r.slices)
  ts.any (fun t => !alignedTo 4096 t.1 || !p.userRange t.1 t.2 || vatOfAddr t.1 != v || p.touchesCave t.1 t.2) ||
    rangesMeet ts

/-- The reason for which a record is refused (R329, R361). -/
def Pkg.recordReason (p : Pkg) (v : Nat) (g : Got) : Option Nat :=
  let r := optRecOf g.bytes
  if g.bad then some 5
  else if formatBad g.bytes r then some 1
  else if valueBad r then some 2
  else if p.placeBad v r then some 3
  else if r.slices == 0 then some 4
  else none

/-- An ST.PRESS is complete for its core (R326, R330). -/
def Pkg.pressDone (p : Pkg) (o : PressOp) : Pkg :=
  p.onCore o.phys fun c => { c with flight := c.flight.filter fun f => match f.kind with
    | .press _ n => n != o.no
    | _ => true }

/-- Is the update of a step discarded (R337)? -/
def Pkg.discards (p : Pkg) (v step : Nat) : Bool :=
  p.flag F.NUM_LOSS_CFG.SKIP_ON_SPIKE 0 && (p.vat v).verdict == some (step, true)

/-- PRESS_OP_START (R329, R337, R361): the vat takes its next op, reads and checks its record. -/
def Pkg.pressStart (p : Pkg) (m : Memory) (v : Nat) : Pkg :=
  let x := p.vat v
  if !p.vatReady v || x.press.isSome then p
  else
    match x.pressQ with
    | [] => p
    | o :: rest =>
      match p.directs 7 false false ((pieces ⟨o.recA, 128⟩).map fun r => (r.addr, r.len)) with
      | none => p
      | some p =>
      let p := p.setVat v { p.vat v with pressQ := rest }
      let g := m.fetch p 7 o.recA 128
      let p := (p.noteRead 7 o.recA 128).badDelivery m 7 o.recA 128 7
      match p.recordReason v g with
      | some r =>
        let p := p.addF F.PRESS_STAT2.REFUSED (4 * v) 1
        (p.event 0x1830 v 0x10 false (4 * v) o.slate (o.core * 16 + r)).pressDone o
      | none =>
        let disc := p.discards v o.step
        let p := if disc then p.addF F.PRESS_QUEUE.DISCARDED v 1 else p
        let run : PressRun :=
          { op := o, r := optRecOf g.bytes, discard := disc, done := [], sums := [], sat := 0, nfG := 0, nfW := 0,
            rindHeld := false, nfLogged := false, digs := [] }
        p.setVat v { p.vat v with press := some run }

/-! ### Arithmetic of one parameter (R310, R331–R333) -/

/-- A value rounded to FP32 and the saturations so far. -/
abbrev RS := FV × Nat

def RS.round (v : FV) (n : Nat) : RS :=
  let e := encFP 0 v
  (dec32 e.bits, n + b2n (v.isFin && e.ovf))

/-- ulp(x) as an exponent (R310). -/
def ulpExp (v : FV) : Int :=
  match v with
  | .fin _ m e => if m == 0 then -149 else max (-149) (flog2 m e - 23)
  | _ => -149

/-- The whey addition (R310): new master bits, new whey, saturations. -/
def wheyAdd (m : FV) (q : Int) (delta : FV) (n : Nat) : Nat × Int × Nat :=
  let e := (m.add ((FV.ofInt q).scale (ulpExp m - 8))).add delta
  let b := encFP 0 e
  let m' := dec32 b.bits
  let n := n + b2n (e.isFin && b.ovf)
  match m' with
  | .fin _ _ _ =>
    let r := (e.sub m').scale (8 - ulpExp m')
    let q' : Int := match r with
      | .fin s mm x => let k := rneAt mm x 0; if s then -(k : Int) else (k : Int)
      | _ => 0
    (b.bits, max (-127) (min 127 q'), n)
  | _ => (b.bits, 0, n)

/-- The result for one parameter: master, whey, moments as FP32 bits, its gradient and applied update, why it was held
(1 gradient, 2 weight or moment). -/
structure Par where
  m : Nat
  q : Int
  m1 : Nat
  m2 : Nat
  g : FV
  delta : FV
  held : Nat
  sat : Nat

/-- The constants of an op: a1 and a2 with their saturations. -/
def OptRec.consts (r : OptRec) : FV × FV :=
  let one := FV.ofInt 1
  (rnd32 (one.sub (dec32 r.b1)), rnd32 (one.sub (dec32 r.b2)))

/-- One parameter's update Δ with new moments (R331). -/
def OptRec.delta (r : OptRec) (m g : FV) (m1 m2 : Nat) (n : Nat) : FV × Nat × Nat × Nat :=
  let f := dec32
  let fma (a b c : FV) (n : Nat) : RS := RS.round ((a.mul b).add c) n
  let bits (v : FV) : Nat := (encFP 0 v).bits
  let (a1, a2) := r.consts
  match r.opt with
  | 0 =>
    let (d, n) := fma (f r.wd) m g n
    let (x, n) := RS.round ((f r.lr).mul d) n
    (x.neg, m1, m2, n)
  | 1 =>
    let (d, n) := fma (f r.wd) m g n
    let (mp, n) := fma (f r.b1) (f m1) d n
    let (s, n) := if r.nesterov then fma (f r.b1) mp d n else (mp, n)
    let (x, n) := RS.round ((f r.lr).mul s) n
    (x.neg, bits mp, m2, n)
  | 2 =>
    let (g1, n) := RS.round (a1.mul g) n
    let (mp, n) := fma (f r.b1) (f m1) g1 n
    let (gg, n) := RS.round (g.mul g) n
    let (g2, n) := RS.round (a2.mul gg) n
    let (vp, n) := fma (f r.b2) (f m2) g2 n
    let (mh, n) := RS.round (mp.mul (f r.bc1)) n
    let (vh, n) := RS.round (vp.mul (f r.bc2)) n
    let (sq, n) := RS.round (sqrtV vh) n
    let (dn, n) := RS.round (sq.add (f r.eps)) n
    let (u, n) := RS.round (divV mh dn) n
    let (w, n) := fma (f r.wd) m u n
    let (x, n) := RS.round ((f r.lr).mul w) n
    (x.neg, bits mp, bits vp, n)
  | _ =>
    let (g2, n) := RS.round (a2.mul g) n
    let (mp, n) := fma (f r.b2) (f m1) g2 n
    let (g1, n) := RS.round (a1.mul g) n
    let (c, n) := fma (f r.b1) (f m1) g1 n
    let sg := if c.isZero then FV.fin false 0 0 else if c.sign then FV.ofInt (-1) else FV.ofInt 1
    let (w, n) := fma (f r.wd) m sg n
    let (x, n) := RS.round ((f r.lr).mul w) n
    (x.neg, bits mp, m2, n)

/-- One parameter (R331–R333). -/
def OptRec.param (r : OptRec) (mb : Nat) (q : Int) (grad m1 m2 : Nat) : Par :=
  let m := dec32 mb
  let gv := if r.gbf16 then decF fmtBF16 grad else dec32 grad
  let (g, n) := RS.round ((dec32 r.gscale).mul gv) 0
  let wOk := m.isFin && (!r.usesM1 || (dec32 m1).isFin) && (!r.usesM2 || (dec32 m2).isFin)
  if !g.isFin then ⟨mb, q, m1, m2, g, .fin false 0 0, 1, n⟩
  else if !wOk then ⟨mb, q, m1, m2, g, .fin false 0 0, 2, n⟩
  else
    let (d, p1, p2, n) := r.delta m g m1 m2 n
    let (b, q', n) := wheyAdd m q d n
    ⟨b, q', p1, p2, g, d, 0, n⟩

/-! ### Slices (R330–R334, R338, R342) -/

/-- The press unit (stack) that handles slice `j` (R330). -/
def OptRec.unit (r : OptRec) (j : Nat) : Nat := stackOf (r.hi + 8192 * j)

/-- Is the next slice of its unit slice `j` (R330)? A discarded op without a digest reads none (R337). -/
def PressRun.turn (x : PressRun) (j : Nat) : Bool :=
  j < x.r.slices && !(x.discard && !x.r.digest) && !x.done.contains j &&
    (List.range j).all fun i => x.r.unit i != x.r.unit j || x.done.contains i

/-- Are all slices done? -/
def PressRun.allDone (x : PressRun) : Bool :=
  (x.discard && !x.r.digest) || (List.range x.r.slices).all (x.done.contains ·)

/-- A block a slice reads: address, bytes, whether its rind check passed. -/
structure SliceBlk where
  addr : Nat
  bytes : List Byte
  ok : Bool

/-- The blocks from address `a` on, `n` of them. -/
def Dev.sliceRead (d : Dev) (a n : Nat) : List SliceBlk :=
  (List.range n).map fun i =>
    let b := a + 4096 * i
    let g := d.mem.fetch d.pkg 2 b 4096
    ⟨b, g.bytes, !g.bad && !g.inv && !d.pkg.rindBad b && rindCheck (d.rind b) g.bytes == .valid⟩

/-- What reading those blocks leaves behind. -/
def Dev.sliceNote (d : Dev) (bs : List SliceBlk) : Dev :=
  bs.foldl (fun d b =>
    (({ d with pkg := d.pkg.noteRead 2 b.addr 4096 } : Dev).badDelivery 2 b.addr 4096 1).noteRind 2 b.addr 1) d

/-- The bytes of blocks in order. -/
def sliceBytes (bs : List SliceBlk) : List Byte := (bs.map (·.bytes)).flatten

/-- Little-endian numbers of `w` bytes. -/
def numsOf (w : Nat) (bs : List Byte) : List Nat := (chunksOf w bs.length bs).map ofLe

/-- Blocks written with correct rinds from address `a` on. -/
def Dev.sliceWrite (d : Dev) (slate a : Nat) (bs : List Byte) : Dev :=
  ((chunksOf 4096 bs.length bs).zipIdx).foldl (fun d x => d.store 2 slate (a + 4096 * x.2) x.1 .correct) d

/-- Check values of blocks (R342). -/
def digsOf (a : Nat) (bs : List Byte) : List BlkDig :=
  ((chunksOf 4096 bs.length bs).zipIdx).map fun x => ⟨a + 4096 * x.2, crcCE x.1, crcCI x.1⟩

/-- The sum of the squares of values in order, each addition rounded to FP64 (R338). -/
def sumSq (vs : List FV) : FV := vs.foldl (fun s v => rnd64 (s.add (v.mul v))) (.fin false 0 0)

/-- A unit's sum with a slice's sum added. -/
def addSum (old : Nat) (s : FV) : Nat := (encFP 14 ((decF 14 old).add s)).bits

/-- A unit's sums with a slice's added. -/
def PressRun.addSums (x : PressRun) (u : Nat) (w g d : FV) : PressRun :=
  let o := tget ⟨0, 0, 0⟩ x.sums u
  { x with sums := tset ⟨0, 0, 0⟩ x.sums u ⟨addSum o.w w, addSum o.g g, addSum o.u d⟩ }

/-- PRESS_SLICE (R331–R334, R337, R338, R342): the press unit of slice `j` of the op that vat `v` runs handles it, once the
controllers serve its requests (R363). Of several blocks that fail, the record names the first in the order HI, LO, WHEY, GRAD, MOM1,
MOM2: DESIGN CHOICE (log entry 146), for the spec gives the reads of a slice no order. -/
def Dev.pressSlice (d : Dev) (v j : Nat) : Dev :=
  match (d.pkg.vat v).press with
  | none => d
  | some x =>
    if !d.pkg.vatReady v || !x.turn j then d
    else
      let r := x.r
      let u := r.unit j
      let hi := d.sliceRead (r.hi + 8192 * j) 2
      let lo := d.sliceRead (r.lo + 8192 * j) 2
      let wh := if r.whey then d.sliceRead (r.wheyA + 4096 * j) 1 else []
      let gr := if x.discard then []
        else if r.gbf16 then d.sliceRead (r.grad + 8192 * j) 2 else d.sliceRead (r.grad + 16384 * j) 4
      let m1 := if x.discard || !r.usesM1 then [] else d.sliceRead (r.mom1 + 16384 * j) 4
      let m2 := if x.discard || !r.usesM2 then [] else d.sliceRead (r.mom2 + 16384 * j) 4
      let all := [hi, lo, wh, gr, m1, m2].flatten
      match d.pkg.directs 2 false true (all.map fun b => (b.addr, 4096)) with
      | none => d
      | some p0 =>
      let writes := if x.discard || all.any (!·.ok) then [] else [hi, lo, wh, m1, m2].flatten
      match p0.directs 2 true true (writes.map fun b => (b.addr, 4096)) with
      | none => d
      | some p1 =>
      let d := ({ d with pkg := p1 } : Dev).sliceNote all
      let p := d.pkg.addF F.PRESS_STAT.SLICES u 1
      let x := { x with done := x.done ++ [j] }
      let digs (hb lb wb : List Byte) : List BlkDig :=
        if r.digest then
          [digsOf (r.hi + 8192 * j) hb, digsOf (r.lo + 8192 * j) lb, digsOf (r.wheyA + 4096 * j) wb].flatten
        else []
      match all.find? (!·.ok) with
      | some b =>
        let p := p.addF F.PRESS_STAT2.RIND_HELD u 1
        let p := if x.rindHeld then p else p.event 0x1831 v 0x10 false u x.op.slate (b.addr / 4096 % 2 ^ 16)
        let x := { x with rindHeld := true, digs := x.digs ++ digs (sliceBytes hi) (sliceBytes lo) (sliceBytes wh) }
        { d with pkg := p.setVat v { p.vat v with press := some x } }
      | none =>
        let his := numsOf 2 (sliceBytes hi)
        let los := numsOf 2 (sliceBytes lo)
        let ms := (his.zip los).map fun q => q.1 * 65536 + q.2
        if x.discard then
          let x := { x with digs := x.digs ++ digs (sliceBytes hi) (sliceBytes lo) (sliceBytes wh) }
          let x := x.addSums u (sumSq (ms.map dec32)) (.fin false 0 0) (.fin false 0 0)
          { d with pkg := p.setVat v { p.vat v with press := some x } }
        else
          let qs := (numsOf 1 (sliceBytes wh)).map (toSigned 8)
          let gs := numsOf (if r.gbf16 then 2 else 4) (sliceBytes gr)
          let as := numsOf 4 (sliceBytes m1)
          let bs := numsOf 4 (sliceBytes m2)
          let ps := ms.zipIdx.map fun q =>
            r.param q.1 (qs.getD q.2 0) (gs.getD q.2 0) (as.getD q.2 0) (bs.getD q.2 0)
          let nfg := (ps.filter (·.held == 1)).length
          let nfw := (ps.filter (·.held == 2)).length
          let sat := ps.foldl (fun n q => n + q.sat) 0
          let hb := (ps.map fun q => leBytes 2 (q.m / 65536)).flatten
          let lb := (ps.map fun q => leBytes 2 (q.m % 65536)).flatten
          let wb := if r.whey then ps.map fun q => BitVec.ofNat 8 (ofSigned 8 q.q) else []
          let ab := if r.usesM1 then (ps.map fun q => leBytes 4 q.m1).flatten else []
          let bb := if r.usesM2 then (ps.map fun q => leBytes 4 q.m2).flatten else []
          let p := (p.addF F.PRESS_STAT2.SAT u sat).addF F.PRESS_STAT2.HELD_NF u (nfg + nfw)
          let log := nfg + nfw != 0 && !x.nfLogged
          let p := if log then p.event 0x1011 v 0x10 false u x.op.slate r.layer else p
          let x := { x with sat := x.sat + sat, nfG := x.nfG + nfg, nfW := x.nfW + nfw, nfLogged := x.nfLogged || log,
                            digs := x.digs ++ digs hb lb wb }
          let x := x.addSums u (sumSq (ps.map fun q => dec32 q.m)) (sumSq ((ps.map (·.g)).filter (·.isFin)))
            (sumSq ((ps.filter (·.held == 0)).map (·.delta)))
          let out : List (Nat × List Byte) := [(r.hi + 8192 * j, hb), (r.lo + 8192 * j, lb), (r.wheyA + 4096 * j, wb),
            (r.mom1 + 16384 * j, ab), (r.mom2 + 16384 * j, bb)]
          out.foldl (fun d y => d.sliceWrite x.op.slate y.1 y.2) { d with pkg := p.setVat v { p.vat v with press := some x } }

/-! ### The end of an op (R338–R340, R342) -/

/-- RATIO (R339): √(u ÷ w) rounded once to FP32. -/
def ratioOf (u w : FV) : Nat :=
  match u, w with
  | .fin _ a x, .fin _ b y =>
    if b == 0 then (if a == 0 then 0 else 0x7F800000)
    else if a == 0 then 0
    else
      let e := x - y
      let (a, e) := if e % 2 == 0 then (a, e) else (2 * a, e - 1)
      let k := Nat.log2 b + 128
      let q := (a <<< (2 * k)) / b
      let r := isqrt q
      (encFP 0 (stickyFin false r (r * r == q && q * b == a <<< (2 * k)) (e / 2 - k))).bits
  | .nan, _ => 0x7FC00000
  | _, .nan => 0x7FC00000
  | .inf _, .inf _ => 0x7FC00000
  | .inf _, _ => 0x7F800000
  | _, .inf _ => 0

/-- The digest entries sorted by block address. -/
def digInsert (b : BlkDig) : List BlkDig → List BlkDig
  | [] => [b]
  | x :: t => if b.addr < x.addr then b :: x :: t else x :: digInsert b t

/-- A digest entry lands in its vat's table (R342, R343). -/
def Pkg.digLand (p : Pkg) (v slate : Nat) (e : DigEnt) : Pkg :=
  if (match p.lastDig with
      | some s => decide (e.step ≤ s)
      | none => false) then p.addF F.PRESS_DIG_CTL.STALE 0 1
  else if 1024 ≤ (p.vat v).digs.length then
    (p.setF F.PRESS_DIG_CTL.INCOMPLETE 0 1).event 0x1832 v 0x10 false (4 * v) slate v
  else (p.setVat v { p.vat v with digs := (p.vat v).digs ++ [e] }).countEntries

/-- PRESS_OP_DONE (R338–R340, R342): the op of vat `v` ends with its dailies record and digest entry. -/
def Pkg.pressOpDone (p : Pkg) (v : Nat) : Pkg :=
  match (p.vat v).press with
  | none => p
  | some x =>
    if !x.allDone then p
    else
      let p := p.setVat v { p.vat v with press := none }
      let o := x.op
      let us := x.sums.map (·.2)
      let tot (f : Sums → Nat) : FV := us.foldl (fun s y => rnd64 (s.add (decF 14 (f y)))) (.fin false 0 0)
      let w := tot (·.w)
      let g := tot (·.g)
      let u := tot (·.u)
      let ratio := if x.discard then 0 else ratioOf u w
      let lim := p.getF F.PRESS_CFG.RATIO_MAX 0
      let high := (dec32 lim).lt (dec32 ratio)
      let p := if high then p.event 0x1010 v 0x10 false (4 * v) o.slate x.r.layer else p
      let bits (v : FV) : Nat := (encFP 14 v).bits % 2 ^ 63
      let val := 2 ^ 63
      let ws := [val + b2n x.discard * 2 ^ 62 + b2n high * 2 ^ 61 + b2n x.rindHeld * 2 ^ 60 + x.r.opt * 2 ^ 56 +
          v * 2 ^ 54 + x.r.layer * 2 ^ 32 + o.slate * 2 ^ 16 + min x.sat 65535,
        val + o.step % 2 ^ 63, val + p.time % 2 ^ 63, val + bits w, val + bits g, val + bits u,
        val + ratio % 2 ^ 31 * 2 ^ 32 + min x.nfG (2 ^ 32 - 1), val + min x.nfW (2 ^ 31 - 1) * 2 ^ 32 + x.r.slices]
      let p := if p.fifoFits 2 8 then p else p.addF F.PRESS_QUEUE.DAILIES_LOST v 1
      let p := p.pushFifo 2 ws
      let p := if x.r.digest then
          let ds := x.digs.foldl (fun t b => digInsert b t) []
          p.digLand v o.slate ⟨o.step, x.r.hi, o.core, ceWords (ds.map (·.ce)), ciWords (ds.map (·.ci))⟩
        else p
      p.pressDone o

/-! ### The digest combination (R343) -/

/-- A digest entry placed in the order of R343: HI, issuing core, then issue. -/
def entInsert (e : DigEnt) : List DigEnt → List DigEnt
  | [] => [e]
  | x :: t => if e.hi < x.hi || (e.hi == x.hi && e.core < x.core) then e :: x :: t else x :: entInsert e t

/-- The digest of a vat at step `s` as CE and CI. -/
def Pkg.vatDigest (p : Pkg) (v s : Nat) : Nat × Nat :=
  let es := ((p.vat v).digs.filter (·.step == s)).foldl (fun t e => entInsert e t) []
  if es.isEmpty then (0, 0) else (ceWords (es.map (·.ce)), ciWords (es.map (·.ci)))

/-- DIGEST_GO (R343): a combination of step PRESS_DIG_STEP starts unless one runs. -/
def Pkg.digestGo (p : Pkg) : Pkg :=
  if !p.flag F.PRESS_DIG_CTL.DONE 0 then p
  else
    let s := (p.reg .PRESS_DIG_STEP 0).toNat
    let vs := (List.range 4).filter p.hasVat
    let ds := vs.map fun v => (v, p.vatDigest v s)
    let stale := vs.foldl (fun n v => n + ((p.vat v).digs.filter (·.step < s)).length) 0
    let p := vs.foldl (fun p v => p.setVat v { p.vat v with digs := (p.vat v).digs.filter fun e => s < e.step }) p
    let p := ((p.addF F.PRESS_DIG_CTL.STALE 0 stale).setF F.PRESS_DIG_CTL.DONE 0 0).countEntries
    { p with lastDig := some s,
             dig := some ⟨s, ds.map fun x => (x.1, x.2.1, x.2.2), ceWords (ds.map (·.2.1)), ciWords (ds.map (·.2.2))⟩ }

/-- DIGEST_DONE (R343): the combination ends. -/
def Pkg.digestDone (p : Pkg) : Pkg :=
  match p.dig with
  | none => p
  | some r =>
    let p := (p.setF F.PRESS_DIG_CTL.DONE 0 1).setReg .PRESS_DIG_CE 0 (BitVec.ofNat 64 r.ce)
    let p := p.setReg .PRESS_DIG_CI 0 (BitVec.ofNat 64 r.ci)
    let p := r.vats.foldl (fun p x => (p.setReg .PRESS_VDIG_CE x.1 (BitVec.ofNat 64 x.2.1)).setReg .PRESS_VDIG_CI x.1
      (BitVec.ofNat 64 x.2.2)) p
    { p with dig := none }

end Sys2Proof.Machine
end

