-- ==== Sys2Proof/Machine/RegAccess.lean ====
section
/-! DEFINITION. The CSR space as host, firmware and configuration record reach it: select contexts, reads, writes, the log
FIFOs (R11, R12, R15, R558–R572). -/
namespace Sys2Proof.Machine

/-! ### Select registers (R563, R564) -/

/-- Is it a select or index register? -/
def Reg.isSel (r : Reg) : Bool :=
  [Reg.ETH_SEL, .PORT_SEL, .PORT_RT_IDX, .D2D_SEL, .MC_SEL, .CORE_SEL, .CORE_SCT_IDX, .LOG_SEL, .COLL_SEL, .REL_SEL,
   .NUM_GRP_SEL].contains r

/-- A field of a select register in context `x`. -/
def selF (x : Tab Word) (f : Fd) : Nat := fld (tget 0 x f.reg.off).toNat f.hi f.lo

/-- The bits of a register that fields `fs` hold. -/
def fieldBits (fs : List Fd) : Nat := fs.foldl (fun acc f => acc + (2 ^ (f.hi + 1) - 2 ^ f.lo)) 0

/-- The bits of a register whose fields pass `f`. -/
def Reg.bits (r : Reg) (f : Fd → Bool) : Nat := fieldBits (r.fields.filter f)

/-- A select register written in its context. -/
def selSet (x : Tab Word) (r : Reg) (w : Nat) : Tab Word :=
  tset 0 x r.off (BitVec.ofNat 64 (w &&& r.bits (·.acc == .rw)))

/-- The block of a register. -/
def Reg.block (r : Reg) : Nat := r.off / 65536

/-- The physical core that CORE_SEL selects; none where no core carries the selection. -/
def Pkg.selCore (p : Pkg) (x : Tab Word) : Option Nat :=
  let id := selF x F.CORE_SEL.CORE
  if selF x F.CORE_SEL.PHYS == 1 then (if p.isPhys id then some id else none)
  else if p.isCore id then p.physOf id else none

/-- Is it a register per pseudo-channel, or per vat, of the MC and PRESS blocks? -/
def Reg.perPch (r : Reg) : Bool := [Reg.MC_ERR, .MC_REMAP, .MC_LANE, .MC_BANK_STAT].contains r
def Reg.perVat (r : Reg) : Bool :=
  [Reg.MC_CAVE0, .MC_CAVE1, .MC_CAVE2, .MC_CAVE3, .MC_CELLAR_ERR, .PRESS_QUEUE, .PRESS_VDIG_CE, .PRESS_VDIG_CI].contains r

/-- The instance of a register that context `x` reaches; none where the selection is absent or out of range: such a
register reads as 0 and ignores writes. -/
def Pkg.instOf (p : Pkg) (r : Reg) (x : Tab Word) : Option Nat :=
  let port := selF x F.PORT_SEL.PORT
  let lane := selF x F.PORT_SEL.LANE
  let stack := selF x F.MC_SEL.STACK
  let e := selF x F.D2D_SEL.EDGE
  let m := selF x F.D2D_SEL.MODULE
  let en := selF x F.D2D_SEL.END
  let g := selF x F.COLL_SEL.GROUP
  let pos := selF x F.COLL_SEL.POS
  match r with
  | .PORT_RT_DATA =>
    let t := selF x F.PORT_RT_IDX.TABLE
    let i := selF x F.PORT_RT_IDX.ENTRY
    if t == 0 && 16 ≤ i then none else some (rtInst t i)
  | .PORT_LANE_ERR => if 17 < port || 4 < lane then none else some (laneInst port lane)
  | .D2D_LANE_ERR =>
    let l := selF x F.D2D_SEL.LANE
    if p.edgeModules e ≤ m || 67 < l then none else some (d2dLane e m en l)
  | .COLL_GRP_MEMBER | .COLL_LATE =>
    if p.getF F.COLL_GRP_CFG.NM1 g < pos then none else some (g * 256 + pos)
  | r =>
    if !r.selected then some 0
    else match r.block with
      | 3 => some (selF x F.ETH_SEL.PORT)
      | 4 => if 17 < port || 4 < lane then none else some port
      | 5 => if p.edgeModules e ≤ m then none else some (endInst e m en)
      | 6 | 7 =>
        if !p.hasVat (stack / 4) then none
        else if r.perPch then some (stack * 64 + selF x F.MC_SEL.PCH)
        else if r.perVat then some (stack / 4) else some stack
      | 8 => p.selCore x
      | 0xB => some (selF x F.LOG_SEL.FIFO)
      | 0xC => some g
      | 0xD => if p.hasVat (selF x F.REL_SEL.VAT) then some (selF x F.REL_SEL.VAT) else none
      | _ => some (selF x F.NUM_GRP_SEL.GROUP)

/-! ### Reads -/

/-- Occupancy and pointer of an engine's queue (R65). -/
def Core.occQp (c : Core) (e : Eng) : Nat × Nat :=
  let q := c.queue e
  match e with
  | .fe => (0, c.fe.ptr)
  | .sy => (c.qSy.length, match c.qSy with
    | y :: _ => y.idx
    | [] => tget 0 c.lastIdx e.key)
  | _ => (q.length, match q with
    | y :: _ => y.idx
    | [] => tget 0 c.lastIdx e.key)

/-- A CORE_QP word of engines X and Y. -/
def Core.qpWord (c : Core) (a b : Eng) : Nat :=
  let x := c.occQp a
  let y := c.occQp b
  y.1 * 2 ^ 56 + x.1 * 2 ^ 48 + y.2 % 2 ^ 24 * 2 ^ 24 + x.2 % 2 ^ 24

/-- Word `n` of the semaphores. -/
def Core.semWord (c : Core) (n : Nat) : Nat :=
  c.semVal (4 * n) + c.semVal (4 * n + 1) * 2 ^ 16 + c.semVal (4 * n + 2) * 2 ^ 32 + c.semVal (4 * n + 3) * 2 ^ 48

/-- CORE_STATE of physical core `k` as context `x` selects it. -/
def Pkg.coreStateWord (p : Pkg) (k : Nat) (x : Tab Word) : Nat :=
  let c := p.core k
  let peer := if isDirIdx (k % 128) then k % 128
    else if selF x F.CORE_SEL.PHYS == 1 then (match p.logicalOf k with
      | some l => l % 128
      | none => 0x7F)
    else k % 128
  peer * 2 ^ 16 + c.halt * 2 ^ 8 + c.st.code

/-- The supervisor timer's period in ms, within its limits. -/
def Pkg.supMs (p : Pkg) : Nat := max 10 (min 1000 (p.getF F.REL_CFG.SUP_MS 0))

/-- Time to supervisor expiry in ms, 0 before firmware runs. -/
def Pkg.supLeft (p : Pkg) : Nat :=
  if p.getF F.CFG_BOOT.PHASE 0 < 2 then 0 else p.supMs - (p.time - p.lead.beatAt) / 1000000

/-- What instance `i` of a register holds, with the parts that stand elsewhere in the state filled in. -/
def Pkg.view (p : Pkg) (r : Reg) (i : Nat) (x : Tab Word) : Nat :=
  let w := (p.reg r i).toNat
  let c := p.core i
  let n := r.off % 65536
  match r with
  | .TOP_VAT_STATE =>
    putFld w 15 0 ((List.range 4).foldl (fun acc v => acc + (p.vat v).st.code * 16 ^ v) 0)
  | .CORE_STATE => p.coreStateWord i x
  | .CORE_QP0 => c.qpWord .ve .mx
  | .CORE_QP1 => c.qpWord .ld .st
  | .CORE_QP2 => c.qpWord .sy .fe
  | .CORE_TAKE => putFld w 13 0 c.take.length
  | .CORE_WDOG => putFld w 20 16 ((c.waits.map fun y => 2 ^ (y.eng.code - 1)).foldl (· ||| ·) 0)
  | .CORE_NUM_BRK2 => putFld w 8 0 (c.sct.filter (·.2.touched)).length
  | .CORE_SCT_DATA => (c.ent (selF x F.CORE_SCT_IDX.TID)).word (selF x F.CORE_SCT_IDX.WORD)
  | .LOG_FIFO_CFG => putFld w 63 40 (p.fifoDepth i)
  | .LOG_FIFO_STAT => putFld w 22 0 (p.fifo i).length
  | .COLL_GRP_CFG => putFld w 63 63 (b2n (p.collValid i))
  | .NUM_GRP_DIR => putFld w 63 63 (b2n (p.grpValid i))
  | .NUM_LOSS_SAMPLES => p.getF F.NUM_LOSS_STAT.SAMPLES 0
  | .PRESS_QUEUE => putFld w 35 32 ((p.vat i).pressQ.length + b2n (p.vat i).press.isSome)
  | .MC_MAINT => putFld w 1 1 (b2n (p.maintIdle i))
  | .MC_REPAIR_STAT =>
    let ch := i * 64 + selF x F.MC_SEL.PCH
    let bank := p.getF F.MC_REPAIR.BANK i
    let free (hard : Bool) (used : List (Nat × Nat)) : Nat :=
      Config.stackFree (2 * (ch * 64 + bank) + b2n hard) - (used.filter (·.1 == bank)).length
    putFld (putFld (putFld w 23 16 (p.pch ch).laneFree) 15 8 (free true (p.pch ch).hardRows)) 7 0
      (free false (p.pch ch).softRows)
  | .D2D_STATUS =>
    let e := selF x F.D2D_SEL.EDGE
    let m := selF x F.D2D_SEL.MODULE
    let en := selF x F.D2D_SEL.END
    let pr := tget (0, 0) p.edges e
    p.edgeBw e * 2 ^ 32 + pr.2 * 2 ^ 16 + pr.1 * 2 ^ 8 + p.repairsUsed e m en * 16 + (p.d2dMod e m).st
  | .CLAP_TIME => p.time
  | .REL_SUP => putFld w 25 16 p.supLeft
  | .CLAP_CONT_STATE => p.contWord p.appliedStep
  | .GAFF_GPIO => putFld w 3 0 p.gpioPins
  | .PORT_GUEST => if p.fuse.guest then w else 0
  | .PORT_LANE_ERR => if p.optical (i / 8) then 0 else w
  | _ =>
    if r.block == 8 && 0x100 ≤ n && n < 0x180 then c.semWord ((n - 0x100) / 8) else w

/-- A read of FIFO `f`: the oldest word leaves; the empty word where there is none (R568). -/
def Pkg.popFifo (p : Pkg) (f : Nat) : Nat × Pkg :=
  match p.fifo f with
  | [] => (0, p)
  | w :: t => (w.toNat, { p with fifos := tset [] p.fifos f t })

/-- A read of FIFO `f` in a hub cycle in which `late` of its words entered: it takes the oldest word that stood there at the
start of the cycle, else the empty word (R568); COUNT is compared at the cycle's end, so a crossing of those entries that the read
takes back set nothing (R570). That the command says which entries were of its cycle is a DESIGN CHOICE (log entry 143). -/
def Pkg.readFifo (p : Pkg) (f late : Nat) : Nat × Pkg :=
  let n := (p.fifo f).length
  if n ≤ late then (0, p)
  else
    let y := p.popFifo f
    let lv := p.getF F.LOG_FIFO_CFG.LEVEL f
    if p.sec.raised.contains f && decide (n - late < lv) && n == lv then (y.1, y.2.setF F.LOG_FIFO_STAT.IRQ f 0) else y

/-- Does a subscription drain FIFO `f` (R569)? -/
def Pkg.drained (p : Pkg) (f : Nat) : Bool :=
  match p.sec.sub with
  | some s => bitOf s.fifos f
  | none => false

/-- A register read in context `x` (R11, R15, R560): WO fields read as 0, RC fields are cleared; a host read of a FIFO that
a subscription drains gives the empty word (R569). -/
def Pkg.regRead (p : Pkg) (x : Tab Word) (host : Bool) (r : Reg) : Nat × Pkg :=
  if r.isSel then ((tget 0 x r.off).toNat, p)
  else match p.instOf r x with
    | none =>
      (if r == .CORE_STATE && selF x F.CORE_SEL.PHYS == 0 && p.isCore (selF x F.CORE_SEL.CORE) then 0x7F * 2 ^ 16 else 0, p)
    | some i =>
      if r == .LOG_FIFO_DATA then (if host && p.drained i then (0, p) else p.popFifo i)
      else
        let w := p.view r i x
        let stored := (p.reg r i).toNat
        (w - (w &&& r.bits (·.acc == .wo)), p.setReg r i (BitVec.ofNat 64 (stored - (stored &&& r.bits (·.acc == .rc)))))

/-! ### Writes -/

/-- The write condition that the owning chapter states (R293, R367, R370, R398, R408, R419, R444). -/
def Pkg.writeOpen (p : Pkg) (r : Reg) (i : Nat) : Bool :=
  match r with
  | .MC_MODE | .MC_PART_MAP | .MC_BUCKET0 | .MC_BUCKET1 | .MC_BUCKET2 | .MC_BUCKET3 | .MC_BUCKET4 | .MC_BUCKET5
  | .MC_BUCKET6 | .MC_BUCKET7 | .COLL_GRP_CFG | .COLL_GRP_MEMBER | .CLAP_CFG | .CLAP_CONT_CFG | .CLAP_CONT_RGRP
  | .CLAP_CONT_RLIST | .NUM_GRP_DIR | .NUM_GRP_MASK0 | .NUM_GRP_MASK1 | .NUM_GRP_MASK2 | .NUM_GRP_MASK3
  | .NUM_GRP_MASK4 | .NUM_GRP_MASK5 => !p.anyRun
  | .MC_CAVE0 | .MC_CAVE1 | .MC_CAVE2 | .MC_CAVE3 => !p.anyRunIn i
  | .COLL_GRP_STATE => !p.runs (p.getF F.COLL_GRP_CFG.DIRECTOR i)
  | _ => true

/-- Bits of a group mask register that name absent cores. -/
def Pkg.absentMembers (p : Pkg) (r : Nat) : Nat :=
  (List.range 64).foldl (fun acc b =>
    let m := 64 * r + b
    if p.isCore (m / 96 * 128 + m % 96) then acc else acc + 2 ^ b) 0

/-- Bits of a register that read as 0 and ignore writes for what the package is: caves of GiB 0 and above 239, absent
members. -/
def Pkg.deadBits (p : Pkg) (r : Reg) : Nat :=
  match r with
  | .MC_CAVE0 => 1
  | .MC_CAVE3 => 2 ^ 64 - 2 ^ 48
  | .NUM_GRP_MASK0 => p.absentMembers 0
  | .NUM_GRP_MASK1 => p.absentMembers 1
  | .NUM_GRP_MASK2 => p.absentMembers 2
  | .NUM_GRP_MASK3 => p.absentMembers 3
  | .NUM_GRP_MASK4 => p.absentMembers 4
  | .NUM_GRP_MASK5 => p.absentMembers 5
  | _ => 0

/-- RW fields take the written value, W1C fields are cleared where 1 is written; the other fields stay (R11, R12, R560). -/
def Pkg.plainWrite (p : Pkg) (r : Reg) (i w : Nat) : Pkg :=
  if !p.writeOpen r i then p
  else
    let old := (p.reg r i).toNat
    let dead := p.deadBits r
    let w := w - (w &&& dead)
    let rw := r.bits (·.acc == .rw)
    let clr := w &&& r.bits (·.acc == .w1c) &&& old
    p.setReg r i (BitVec.ofNat 64 (old - (old &&& rw) - clr + (w &&& rw)))

/-- A new LEVEL of FIFO `f`, which was `was`: IRQ is set when COUNT is thereby no longer below it (R570). -/
def Pkg.levelSettle (p : Pkg) (f was : Nat) : Pkg :=
  let n := (p.fifo f).length
  let lv := p.getF F.LOG_FIFO_CFG.LEVEL f
  if n < was && lv != 0 && lv ≤ n then p.setF F.LOG_FIFO_STAT.IRQ f 1 else p

/-- A register written in context `x`; the registers whose write starts something have their own operation. -/
def Pkg.regWrite (p : Pkg) (m : Memory) (x : Tab Word) (r : Reg) (w : Nat) : Tab Word × Pkg :=
  let w := w % 2 ^ 64
  if r.isSel then (selSet x r w, p)
  else match p.instOf r x with
    | none => (x, p)
    | some i =>
      (x, match r with
        | .TOP_VAT_RESET => p.vatResetRequest m (w % 16) (fld w 7 4) (bitOf w 8)
        | .CORE_SWAP => if bitOf w 31 then p.swapRequest (fld w 22 16) (w % 512) else p.plainWrite r i w
        | .CORE_SCT_DATA => p.sctWrite i (selF x F.CORE_SCT_IDX.TID) (selF x F.CORE_SCT_IDX.WORD) w
        | .NUM_LOSS_STATE => p.lossStateWrite w
        | .NUM_LOSS_SAMPLES => p.lossSamplesWrite (w % 256)
        | .PORT_RT_DATA => p.rtWrite (i / 256) (i % 256) w
        | .LOG_FIFO_CFG => (p.plainWrite r i w).levelSettle i (p.getF F.LOG_FIFO_CFG.LEVEL i)
        | .GAFF_GPIO => p.gpioWrite w
        | .GAFF_CFG => (p.plainWrite r i w).showLevel
        | .MC_BUCKET0 | .MC_BUCKET1 | .MC_BUCKET2 | .MC_BUCKET3 | .MC_BUCKET4 | .MC_BUCKET5 | .MC_BUCKET6 | .MC_BUCKET7 =>
          if p.writeOpen r i then (p.settleTokens i).plainWrite r i w else p
        | .CLAP_CFG => (p.plainWrite r i w).clapCfgSettle
        | .MC_MAINT => p.maintHold i (bitOf w 0)
        | .MC_REPAIR =>
          if bitOf w 63 then
            p.repairGo i (fld w 62 60) (selF x F.MC_SEL.PCH) (fld w 37 32) (fld w 28 16) (fld w 4 0)
          else p.plainWrite r i w
        | .PRESS_DIG_CTL =>
          let p := p.plainWrite r i w
          if bitOf w 63 then p.digestGo else p
        | r => p.plainWrite r i w)

/-! ### Configuration entries (R529, R532) -/

/-- The select register through which SELECT of an entry reaches a block's instances. -/
def blockSel (b : Nat) : Option Reg :=
  match b with
  | 3 => some .ETH_SEL | 4 => some .PORT_SEL | 5 => some .D2D_SEL | 6 => some .MC_SEL | 7 => some .MC_SEL
  | 8 => some .CORE_SEL | 0xB => some .LOG_SEL | 0xC => some .COLL_SEL | 0xD => some .REL_SEL | 0xE => some .NUM_GRP_SEL
  | _ => none

/-- Is the instance that context `x` selects in block `b` present? -/
def Pkg.selPresent (p : Pkg) (b : Nat) (x : Tab Word) : Bool :=
  match b with
  | 4 => (p.instOf .PORT_STATUS x).isSome
  | 5 => (p.instOf .D2D_STATUS x).isSome
  | 6 => (p.instOf .MC_MODE x).isSome
  | 7 => (p.instOf .MC_MODE x).isSome
  | 8 => (p.selCore x).isSome
  | 0xD => (p.instOf .REL_UE x).isSome
  | _ => true

/-- Every present instance of a register with CFG fields. -/
def Pkg.cfgInsts (p : Pkg) (r : Reg) : List Nat :=
  if !r.selected then [0]
  else match r.block with
    | 3 => [0, 1]
    | 6 => (List.range 16).filter fun s => p.hasVat (s / 4)
    | 0xB => [0, 1, 2, 3]
    | _ => []

/-- The CFG fields of an instance written; a new LEVEL is compared with COUNT (R570). -/
def Pkg.cfgPut (p : Pkg) (r : Reg) (w i : Nat) : Pkg :=
  let old := (p.reg r i).toNat
  let q := p.setReg r i (BitVec.ofNat 64 (old - (old &&& r.bits (·.cfg)) + w))
  if r == .LOG_FIFO_CFG then q.levelSettle i (p.getF F.LOG_FIFO_CFG.LEVEL i) else q

/-- One entry of the configuration record; none where it is ignored. -/
def Pkg.cfgEntry (p : Pkg) (w0 w1 : Nat) : Option Pkg :=
  let sel := fld w0 47 24
  let o := w0 % 2 ^ 24
  if fld w0 63 48 != 0 || o % 8 != 0 then none
  else match Reg.ofOff o with
    | none => none
    | some r =>
      let m := r.bits (·.cfg)
      if m == 0 || w1 - (w1 &&& m) != 0 then none
      else match blockSel r.block with
        | none => if sel == 0 then some (p.cfgPut r w1 0) else none
        | some s =>
          if sel == 0xFFFFFF then some ((p.cfgInsts r).foldl (fun p i => p.cfgPut r w1 i) p)
          else
            let x := selSet [] s sel
            if !p.selPresent r.block x then none
            else match p.instOf r x with
              | none => none
              | some i => some (p.cfgPut r w1 i)

/-! ### Commands of firmware (R11, R560, R568) -/

/-- The value that firmware writes to a register that a host command writes in the same hub cycle: the host's value of every RW
field stands (R561). Which writes fall into one cycle the command says (DESIGN CHOICE, log entry 143). -/
def Pkg.underHost (p : Pkg) (r : Reg) (w : Nat) : Nat :=
  if r.isSel then w
  else match p.instOf r p.fw with
    | none => w
    | some i => w - (w &&& r.bits (·.acc == .rw)) + ((p.reg r i).toNat &&& r.bits (·.acc == .rw))

/-- REGISTER_WRITE: firmware writes a register through its own context; `host` names a write of a host command to it in the
same hub cycle, which waited before (R561). -/
def Pkg.registerWrite (p : Pkg) (m : Memory) (off w : Nat) (host : Bool) : Pkg :=
  match Reg.ofOff off with
  | none => p
  | some r =>
    let y := p.regWrite m p.fw r (if host then p.underHost r w else w)
    { y.2 with fw := y.1 }

/-- RC_FIELD_READ: firmware reads a register through its own context. -/
def Pkg.rcRead (p : Pkg) (off : Nat) : Pkg :=
  match Reg.ofOff off with
  | none => p
  | some r =>
    let y := p.regRead p.fw false r
    { y.2 with fwWord := BitVec.ofNat 64 y.1 }

/-- LOG_FIFO_DATA_READ: firmware reads FIFO `f`. -/
def Pkg.logRead (p : Pkg) (f late : Nat) : Pkg :=
  let y := p.readFifo f late
  { y.2 with fwWord := BitVec.ofNat 64 y.1 }

end Sys2Proof.Machine
end

