-- ==== Sys2Proof/Machine/Eth.lean ====
section
/-! DEFINITION. The security engine's checks on arriving VCT messages and the Ethernet ports (R492–R501, R512). -/
namespace Sys2Proof.Machine

/-! ### VCT messages (R496–R498) -/

def VctCmd.code (c : VctCmd) : Nat := leAt c.hdr 4 2
def VctCmd.slate (c : VctCmd) : Nat := leAt c.hdr 8 4
def VctCmd.counter (c : VctCmd) : Nat := leAt c.hdr 16 8

/-- Authentication class N or S of a command code; every other code is checked as class H (R498, R503). -/
def VctCmd.classN (c : VctCmd) : Bool := 1 ≤ c.code && c.code ≤ 3
def VctCmd.classS (c : VctCmd) : Bool := c.code == 4

/-- The codes of R503. -/
def vctCodes : List Nat := [1, 2, 3, 4, 0x10, 0x11, 0x12, 0x20, 0x21, 0x22, 0x30, 0x40, 0x41]

/-- A UDP datagram split into header, payload and tag. -/
def VctCmd.ofBytes (port : Nat) (v6 : Bool) (ip udp mac : Nat) (bs : List Byte) : VctCmd :=
  let len := leAt bs 6 2
  ⟨port, v6, ip, udp, bs.take 32, (bs.drop 32).take len, (bs.drop 32).drop len, false, mac⟩

/-- Is the package in SAFE (R534)? -/
def Pkg.safe (p : Pkg) : Bool := p.getF F.CFG_BOOT.PHASE 0 == 9

/-- Check 1 of R498 passes. -/
def Pkg.formOk (p : Pkg) (c : VctCmd) : Bool :=
  let len := leAt c.hdr 6 2
  c.hdr.length == 32 && leAt c.hdr 0 2 == 0x5643 && leAt c.hdr 2 1 == 1 && leAt c.hdr 3 1 == 1 && len % 8 == 0 &&
    len ≤ 8256 && c.payload.length == len && c.tag.length == 16 && leAt c.hdr 12 2 / 4096 == 0 &&
    (p.safe || leAt c.hdr 12 2 == p.pkgId) && leAt c.hdr 14 2 == 0 && zeroAt c.hdr 24 8 &&
    ((!c.classN && !c.classS) || zeroAt c.tag 0 16) && (!c.classN || c.counter == 0)

/-- The tag of a message under a command key (R497). -/
def vctTag (key : Nat) (m : List Byte) : List Byte := (hmac256 (beBytes 32 key) m).take 16

/-- Checks 3 to 5 of R498: the first failure, as the reason of code 0x3001. -/
def Pkg.authBad (p : Pkg) (c : VctCmd) : Option Nat :=
  let h := !c.classN && !c.classS
  let ctr := (p.reg .SEC_CTR 0).toNat
  let old := c.counter / 2 ^ 40 != p.getF F.SEC_BOOT.BOOT_ID 0 || c.counter ≤ ctr
  match h, p.sec.cmdKey with
  | true, none => some 3
  | true, some k => if vctTag k (c.hdr ++ c.payload) != c.tag then some 4 else if old then some 5 else none
  | false, _ => if c.classS && old then some 5 else none

/-- The SEC_DROP counter of a reason. -/
def dropField (reason : Nat) : Fd :=
  match reason with
  | 1 => F.SEC_DROP.FORMAT | 2 => F.SEC_DROP.QUEUE | 3 => F.SEC_DROP.NO_KEY | 4 => F.SEC_DROP.MAC | _ => F.SEC_DROP.COUNTER

/-- A dropped command: counted, and logged for the first and then every 1,000th drop of its reason (R498). -/
def Pkg.dropCmd (p : Pkg) (port reason : Nat) : Pkg :=
  let n := tget 0 p.sec.dropN reason
  let p := { p with sec := { p.sec with dropN := tset 0 p.sec.dropN reason (n + 1) } }
  let p := p.addF (dropField reason) 0 1
  if n % 1000 == 0 then p.event 0x3001 0 0x35 false 0 0 (port * 256 + reason) else p

/-- Does a command of the code wait or run? -/
def Pkg.queued (p : Pkg) (code : Nat) : Bool := p.sec.queue.any (·.code == code)

/-- A command enters the queue; a class H counter becomes SEC_CTR (R498). -/
def Pkg.acceptCmd (p : Pkg) (c : VctCmd) : Pkg :=
  let p := { p with sec := { p.sec with queue := p.sec.queue ++ [{ c with checked := true }] } }
  if c.classS then p.setF F.SEC_STATE.KEY_BUSY 0 1
  else if c.classN then p
  else p.setReg .SEC_CTR 0 (BitVec.ofNat 64 c.counter)

/-- Has the queue no room for the command (check 2 of R498, R503)? -/
def Pkg.noRoom (p : Pkg) (c : VctCmd) : Bool :=
  64 ≤ p.sec.queue.length || ((c.code == 3 || c.code == 4) && p.queued c.code)

/-! ### Frames that leave (R494, R495) -/

/-- A field in network byte order. -/
def beAt (bs : List Byte) (o n : Nat) : Nat := ofBe (bytesAt bs o n)

/-- Sum of 16-bit words in network order. -/
def wordSum : List Byte → Nat
  | a :: b :: t => a.toNat * 256 + b.toNat + wordSum t
  | [a] => a.toNat * 256
  | [] => 0

/-- The one's complement sum of RFC 1071. -/
def onesSum (bs : List Byte) : Nat :=
  let f (x : Nat) : Nat := x % 65536 + x / 65536
  f (f (f (wordSum bs)))

def netChecksum (bs : List Byte) : Nat := 65535 - onesSum bs

/-- The package's IPv6 address. -/
def Pkg.ip6 (p : Pkg) : Nat := (p.reg .ETH_IP6_HI 0).toNat * 2 ^ 64 + (p.reg .ETH_IP6_LO 0).toNat

/-- The IPv6 solicited-node multicast address of the package. -/
def Pkg.solicited (p : Pkg) : Nat := 0xFF0200000000000000000001FF000000 + p.ip6 % 2 ^ 24

/-- A frame from port `n` with its tagging (R494, R495). -/
def Pkg.frameBytes (p : Pkg) (n dst type : Nat) (body : List Byte) : List Byte :=
  let tag := if p.flag F.ETH_NET.VLAN_EN 0 then beBytes 2 0x8100 ++ beBytes 2 (p.getF F.ETH_NET.VLAN 0) else []
  List.flatten [beBytes 6 dst, beBytes 6 (p.getF F.ETH_PORT_CFG.MAC n), tag, beBytes 2 type, body]

def Pkg.sendFrame (p : Pkg) (n dst type : Nat) (body : List Byte) : Pkg :=
  p.send .frame n ((p.frameBytes n dst type body).map (·.toNat))

/-- Pseudo-header of UDP and ICMPv6 checksums. -/
def pseudo (v6 : Bool) (src dst proto len : Nat) : List Byte :=
  if v6 then List.flatten [beBytes 16 src, beBytes 16 dst, beBytes 4 len, beBytes 4 proto]
  else List.flatten [beBytes 4 src, beBytes 4 dst, beBytes 2 proto, beBytes 2 len]

/-- An IPv6 packet from the package. -/
def Pkg.ip6Packet (p : Pkg) (dst proto hops : Nat) (body : List Byte) : List Byte :=
  List.flatten [beBytes 4 0x60000000, beBytes 2 body.length, beBytes 1 proto, beBytes 1 hops, beBytes 16 p.ip6, beBytes 16 dst, body]

/-- An ICMPv6 packet from the package. -/
def Pkg.packet6 (p : Pkg) (dst hops : Nat) (icmp : List Byte) : List Byte :=
  let body (c : Nat) : List Byte := icmp.take 2 ++ beBytes 2 c ++ icmp.drop 4
  p.ip6Packet dst 58 hops (body (netChecksum (pseudo true p.ip6 dst 58 icmp.length ++ body 0)))

/-- An IPv4 packet from the package. -/
def packet4 (src dst proto : Nat) (body : List Byte) : List Byte :=
  let h (c : Nat) : List Byte := List.flatten [beBytes 2 0x4500, beBytes 2 (20 + body.length), beBytes 4 0, beBytes 1 64,
    beBytes 1 proto, beBytes 2 c, beBytes 4 src, beBytes 4 dst]
  h (netChecksum (h 0)) ++ body

/-- A UDP datagram with its checksum; one that comes out as 0 is sent as 0xFFFF. -/
def udpPacket (v6 : Bool) (src dst sport dport : Nat) (data : List Byte) : List Byte :=
  let h (c : Nat) : List Byte := List.flatten [beBytes 2 sport, beBytes 2 dport, beBytes 2 (8 + data.length), beBytes 2 c]
  let c := netChecksum (pseudo v6 src dst 17 (8 + data.length) ++ h 0 ++ data)
  h (if c == 0 then 65535 else c) ++ data

/-- A VCT message to a host as the frame that leaves port `n` (R495): IP and UDP headers in network byte order, from the own address
and UDP_PORT; the Ethernet address is the one the host's command came from (log entry 157). -/
def Pkg.udpFrame (p : Pkg) (n mac : Nat) (v6 : Bool) (ip udp : Nat) (data : List Byte) : List Byte :=
  let own := if v6 then p.ip6 else p.getF F.ETH_NET.IP4 0
  let u := udpPacket v6 own ip (p.getF F.ETH_NET.UDP_PORT 0) udp data
  if v6 then p.frameBytes n mac 0x86DD (p.ip6Packet ip 17 64 u) else p.frameBytes n mac 0x0800 (packet4 own ip 17 u)

/-! ### Replies (R497, R501) -/

/-- A reply or notice message: header, payload, tag. -/
def vctMessage (key : Option Nat) (kind code slate from' status counter : Nat) (payload : List Byte) : List Byte :=
  let hdr := List.flatten [leBytes 2 0x5643, leBytes 1 1, leBytes 1 kind, leBytes 2 code, leBytes 2 payload.length, leBytes 4 slate,
    leBytes 2 from', leBytes 2 status, leBytes 8 counter, leBytes 8 0]
  hdr ++ payload ++ (match key with
    | some k => vctTag k (hdr ++ payload)
    | none => List.replicate 16 0)

/-- The reply to a command, sent to its source on its port. -/
def Pkg.sendReply (p : Pkg) (c : VctCmd) (status : Nat) (payload : List Byte) : Pkg :=
  let m := vctMessage p.sec.cmdKey 2 c.code c.slate p.pkgId status c.counter payload
  p.send .vctReply c.port ((p.udpFrame c.port c.mac c.v6 c.ip c.udp m).map (·.toNat))

/-- May an accepted command execute: not while the management processor restarts (R501)? -/
def Pkg.executes (p : Pkg) : Bool := !p.boot.restarting

/-- Accepted commands at the front with a reserved code are answered UNKNOWN_CMD (R507). -/
def Pkg.flushUnknown : Nat → Pkg → Pkg
  | 0, p => p
  | n + 1, p =>
    match p.sec.queue with
    | c :: t =>
      if c.checked && !vctCodes.contains c.code && p.executes then
        Pkg.flushUnknown n (({ p with sec := { p.sec with queue := t } }).sendReply c 2 [])
      else p
    | [] => p

/-- The reserved codes now at the front of the queue answered. -/
def Pkg.flushed (p : Pkg) : Pkg := Pkg.flushUnknown p.sec.queue.length p

/-- A command that waited unchecked behind a KEY_INSTALL is checked (R512). -/
def Pkg.lateCheck (p : Pkg) (c : VctCmd) : Pkg :=
  if !p.formOk c then p.dropCmd c.port 1
  else match p.authBad c with
    | some r => p.dropCmd c.port r
    | none => p.acceptCmd c

/-- The commands that waited unchecked are checked in their order. -/
def Pkg.lateChecks (p : Pkg) : Pkg :=
  let late := p.sec.queue.filter (!·.checked)
  late.foldl (fun p c => p.lateCheck c) { p with sec := { p.sec with queue := p.sec.queue.filter (·.checked) } }

/-- The command at the front is done: it leaves the queue and its reply is sent. -/
def Pkg.done (p : Pkg) (c : VctCmd) (status : Nat) (payload : List Byte) : Pkg :=
  let p := { p with sec := { p.sec with queue := p.sec.queue.drop 1 } }
  (p.sendReply c status payload).flushed

/-- The command at the front of the queue, when it has the code and may execute. -/
def Pkg.front (p : Pkg) (code : Nat) : Option VctCmd :=
  match p.sec.queue with
  | c :: _ => if p.alive && c.checked && c.code == code && p.executes then some c else none
  | [] => none

/-- Has firmware started, so that the host interface acts (R535)? -/
def Pkg.hostUp (p : Pkg) : Bool := p.alive && 2 ≤ p.getF F.CFG_BOOT.PHASE 0

/-- VCT_COMMAND_ARRIVE (R498, R499, R512): a datagram reaches the security engine. -/
def Pkg.vctArrive (p : Pkg) (port : Nat) (v6 : Bool) (ip udp mac : Nat) (bs : List Byte) : Pkg :=
  let c := VctCmd.ofBytes port v6 ip udp mac bs
  if !p.hostUp then p
  else if p.queued 4 then
    if p.noRoom c then p.dropCmd port 2
    else { p with sec := { p.sec with queue := p.sec.queue ++ [c] } }
  else if !p.formOk c then p.dropCmd port 1
  else if p.noRoom c then p.dropCmd port 2
  else match p.authBad c with
    | some r => p.dropCmd port r
    | none => (p.acceptCmd c).flushed

/-! ### Links (R493) -/

/-- Is the port enabled? -/
def Pkg.ethOn (p : Pkg) (n : Nat) : Bool := p.hostUp && p.flag F.ETH_PORT_CFG.EN n

/-- What an enabled port advertises under Clause 73 (R493): the modes of MODES, their KR or CR form, no PAUSE ability. -/
def Pkg.advertise (p : Pkg) (n : Nat) : Pkg :=
  p.send .advertise n [p.getF F.ETH_PORT_CFG.MODES n, p.getF F.ETH_PORT_CFG.MEDIA n, 0]

/-- ETH_LINK_UP: autonegotiation of an enabled port ends with the highest mode both partners advertise; `adv` are the
partner's modes, bit n for mode n + 1. -/
def Pkg.linkUp (p : Pkg) (n adv : Nat) : Pkg :=
  let both := p.getF F.ETH_PORT_CFG.MODES n &&& adv
  if !p.ethOn n || p.flag F.ETH_STATUS.LINK n then p
  else if both == 0 then p.advertise n
  else
    let p := p.advertise n
    let mode := Nat.log2 both + 1
    let p := (p.setF F.ETH_STATUS.LINK n 1).setF F.ETH_STATUS.MODE n mode
    (p.addF F.ETH_STATUS.LINK_CHANGES n 1).event 0x2030 0 0x22 false n 0 mode

/-- ETH_LINK_DOWN: the port returns to autonegotiation. -/
def Pkg.linkDown (p : Pkg) (n : Nat) : Pkg :=
  if !p.hostUp || !p.flag F.ETH_STATUS.LINK n then p
  else
    let p := (p.setF F.ETH_STATUS.LINK n 0).setF F.ETH_STATUS.MODE n 0
    ((p.addF F.ETH_STATUS.LINK_CHANGES n 1).event 0x2031 0 0x22 false n 0 0).advertise n

/-! ### Frames (R494, R495) -/

/-- What a port makes of a UDP datagram: nothing, or source port and data. -/
def Pkg.udpData (p : Pkg) (v6 : Bool) (src dst : Nat) (u : List Byte) : Option (Nat × List Byte) :=
  let len := beAt u 4 2
  let u' := u.take len
  let sum := beAt u 6 2
  let ok := if sum == 0 then !v6 else onesSum (pseudo v6 src dst 17 len ++ u') == 65535
  if 8 ≤ len && len ≤ u.length && beAt u 2 2 == p.getF F.ETH_NET.UDP_PORT 0 && ok then some (beAt u 0 2, u'.drop 8) else none

/-- What a port makes of an accepted frame's payload: nothing, or the package after it. -/
def Pkg.frameBody (p : Pkg) (n src type : Nat) (b : List Byte) : Option Pkg :=
  let mac := p.getF F.ETH_PORT_CFG.MAC n
  let ip4 := p.getF F.ETH_NET.IP4 0
  if type == 0x0806 then
    if p.flag F.ETH_NET.IP4_EN 0 && beAt b 0 8 == 0x0001080006040001 && beAt b 24 4 == ip4 then
      some (p.sendFrame n src 0x0806
        (List.flatten [beBytes 8 0x0001080006040002, beBytes 6 mac, beBytes 4 ip4, bytesAt b 8 6, bytesAt b 14 4]))
    else none
  else if type == 0x0800 then
    let len := beAt b 2 2
    let from' := beAt b 12 4
    let body := (b.take len).drop 20
    if !(p.flag F.ETH_NET.IP4_EN 0 && beAt b 0 1 == 0x45 && 20 ≤ len && len ≤ b.length && beAt b 6 2 % 0x4000 == 0 &&
        onesSum (b.take 20) == 65535 && beAt b 16 4 == ip4) then none
    else if beAt b 9 1 == 1 && beAt body 0 1 == 8 && len ≤ 1500 then
      let icmp (c : Nat) : List Byte := beBytes 2 0 ++ beBytes 2 c ++ body.drop 4
      some (p.sendFrame n src 0x0800 (packet4 ip4 from' 1 (icmp (netChecksum (icmp 0)))))
    else if beAt b 9 1 == 17 then (p.udpData false from' ip4 body).map fun u => p.vctArrive n false from' u.1 src u.2
    else none
  else if type == 0x86DD then
    let len := beAt b 4 2
    let from' := beAt b 8 16
    let dstIp := beAt b 24 16
    let body := (b.drop 40).take len
    if !(p.flag F.ETH_NET.IP6_EN 0 && beAt b 0 1 / 16 == 6 && body.length == len && (dstIp == p.ip6 || dstIp == p.solicited)) then none
    else if beAt b 6 1 == 58 then
      if onesSum (pseudo true from' dstIp 58 len ++ body) != 65535 then none
      else if beAt body 0 1 == 135 && beAt body 8 16 == p.ip6 then
        some (p.sendFrame n src 0x86DD (p.packet6 from' 255
          (List.flatten [beBytes 4 0x88000000, beBytes 4 0x60000000, beBytes 16 p.ip6, beBytes 2 0x0201, beBytes 6 mac])))
      else if beAt body 0 1 == 128 && dstIp == p.ip6 && 40 + len ≤ 1500 then
        some (p.sendFrame n src 0x86DD (p.packet6 from' 64 (beBytes 4 0x81000000 ++ body.drop 4)))
      else none
    else if beAt b 6 1 == 17 && dstIp == p.ip6 then
      (p.udpData true from' dstIp body).map fun u => p.vctArrive n true from' u.1 src u.2
    else none
  else none

/-- ETH_FRAME_RECEIVE (R494): a frame without its FCS, or none when its FEC codewords were uncorrectable. -/
def Pkg.frameReceive (p : Pkg) (n uncorr : Nat) (f : List Byte) : Pkg :=
  if !p.ethOn n || !p.flag F.ETH_STATUS.LINK n then p
  else
    let p := p.addF F.ETH_STAT.FEC_UNCORR n uncorr
    if uncorr != 0 then p
    else
      let dst := beAt f 0 6
      let vlan := p.flag F.ETH_NET.VLAN_EN 0
      let tagged := beAt f 12 2 == 0x8100
      let here := dst == p.getF F.ETH_PORT_CFG.MAC n || dst == 2 ^ 48 - 1 || dst == 0x3333FF000000 + p.ip6 % 2 ^ 24
      let tagOk := if vlan then tagged && beAt f 14 2 % 4096 == p.getF F.ETH_NET.VLAN 0 else !tagged
      let o := if vlan then 16 else 12
      let out := if here && tagOk && f.length + 4 ≤ 9216 then p.frameBody n (beAt f 6 6) (beAt f o 2) (f.drop (o + 2)) else none
      match out with
      | some q => q.addF F.ETH_STAT.RX_FRAMES n 1
      | none => p.addF F.ETH_STAT.RX_DROPS n 1

end Sys2Proof.Machine
end

