-- ==== Sys2Proof/Machine/Host.lean ====
section
/-! DEFINITION. The VCT commands, telemetry, and the guest-die firewall (R501–R517). -/
namespace Sys2Proof.Machine

/-! ### Class N and S commands -/

/-- DISCOVER (R503). -/
def Pkg.discover (p : Pkg) : Pkg :=
  match p.front 1 with
  | none => p
  | some c =>
    p.done c 0 (List.flatten [leBytes 8 p.fuse.serial, leBytes 8 (p.reg .TOP_ID 0).toNat, leBytes 4 (p.getF F.SEC_BOOT.BOOT_ID 0),
      leBytes 2 p.pkgId, leBytes 2 (p.reg .SEC_STATE 0).toNat, sha256 p.flash.idCert])

/-- A certificate with its length, padded to 8 bytes. -/
def certBytes (c : List Byte) : List Byte := leBytes 8 c.length ++ c ++ List.replicate ((8 - c.length % 8) % 8) 0

/-- GET_CERT (R503). -/
def Pkg.getCert (p : Pkg) : Pkg :=
  match p.front 2 with
  | none => p
  | some c => p.done c 0 (certBytes p.flash.idCert ++ certBytes p.flash.caCert)

/-- The signed bytes of the attestation report (R514). -/
def Pkg.attestBody (p : Pkg) (nonce : List Byte) : List Byte :=
  let s := p.sec
  let flags := p.getF F.REL_CFG.MODE 0 + 2 * p.getF F.SEC_BOOT.IMAGE 0 + 4 * b2n p.fuse.guest
  List.flatten [
    List.flatten [leBytes 4 0x56415452, leBytes 2 1, leBytes 2 p.pkgId, leBytes 8 (p.reg .TOP_ID 0).toNat,
      leBytes 8 (p.reg .TOP_CAPS_EFF 0).toNat, leBytes 4 (p.getF F.SEC_BOOT.BOOT_ID 0), leBytes 4 flags, nonce],
    beBytes 32 s.fwMeas, beBytes 32 s.cfgMeas, beBytes 32 s.scanMeas, beBytes 32 s.ownMeas, beBytes 32 s.idMeas,
    leBytes 8 p.time, leBytes 8 (s.signed + 1), leBytes 16 0]

/-- ATTEST (R514), with the random salt of its signature; what a signature is when no identity key unwraps is not stated. -/
def Pkg.attest (p : Pkg) (salt : Nat) : Pkg :=
  match p.front 3 with
  | none => p
  | some c =>
    if c.payload.length != 32 then p.done c 1 []
    else
      let b := p.attestBody c.payload
      let (sig, p) : List Byte × Pkg := match p.idKey with
        | some d => (pssSign p.flash.idN d b (beBytes 32 salt), p)
        | none => ((p.fresh 3072).1 |> beBytes 384, (p.fresh 3072).2)
      let m := b ++ sig
      let p := { p with sec := { p.sec with signed := p.sec.signed + 1 } }
      (p.addF F.SEC_STATE.ATTESTS 0 1).done c 0 m

/-- A KEY_INSTALL ends: its reply leaves, and the commands that waited behind it are checked (R512). -/
def Pkg.keyDone (p : Pkg) (c : VctCmd) (status : Nat) : Pkg :=
  let p := p.setF F.SEC_STATE.KEY_BUSY 0 0
  let p := { p with sec := { p.sec with queue := p.sec.queue.drop 1 } }
  ((p.sendReply c status []).lateChecks).flushed

/-- A failed KEY_INSTALL (R512). -/
def Pkg.keyFail (p : Pkg) (c : VctCmd) (status why : Nat) : Pkg := (p.event 0x3003 0 0x35 false 0 0 why).keyDone c status

/-- KEY_INSTALL (R512); `flashFails` says that the flash write failed. -/
def Pkg.keyInstall (p : Pkg) (flashFails : Bool) : Pkg :=
  match p.front 4 with
  | none => p
  | some c =>
    let ct := c.payload.take 384
    if c.payload.length != 768 then p.keyDone c 1
    else if p.sec.ownerN == 0 then p.keyFail c 8 4
    else if !pssVerify p.sec.ownerN (c.hdr ++ ct) (c.payload.drop 384) then p.keyFail c 8 1
    else match p.idKey.bind fun d => oaepDecrypt p.flash.idN d ct with
      | none => p.keyFail c 8 2
      | some k =>
        if k.length != 32 then p.keyFail c 8 2
        else if flashFails then p.keyFail c 9 3
        else
          let d := p.flash.dir.1
          let a := p.flash.slotAt .key (1 - d.slot .key)
          let f := (p.flash.erase a 0x10000).write a (beBytes 40 (keyWrap p.fuse.devKey (ofBe k)))
          let f := f.writeDir { d with active := d.active ^^^ 8 }
          let p := ({ p with flash := f, sec := { p.sec with cmdKey := some (ofBe k) } }).showDir
          let p := (p.setF F.SEC_STATE.KEY_OK 0 1).setReg .SEC_CTR 0 (BitVec.ofNat 64 c.counter)
          (p.event 0x3002 0 0x35 false 0 c.slate 0).keyDone c 0

/-! ### REG_ACCESS (R504) -/

/-- The entries of a payload, each as two words. -/
def regEntries (b : List Byte) : List (Nat × Nat) :=
  (List.range (b.length / 16)).map fun i => (leAt b (16 * i) 8, leAt b (16 * i + 8) 8)

/-- Do the entries keep the format? -/
def regFormat (b : List Byte) : Bool :=
  b.length % 16 == 0 && b.length ≤ 4096 &&
    (regEntries b).all fun e => fld e.1 62 24 == 0 && (bitOf e.1 63 || e.2 == 0)

/-- The entries executed in order: the status, the reply words in reverse, and the package after them. -/
def Pkg.regRun (m : Memory) : List (Nat × Nat) → Tab Word → List Nat → Pkg → Nat × List Nat × Pkg
  | [], _, out, p => (0, out, p)
  | (w0, w1) :: t, x, out, p =>
    let o := w0 % 2 ^ 24
    match (if o % 8 == 0 then Reg.ofOff o else none) with
    | none => (3, out ++ [out.length], p)
    | some r =>
      if bitOf w0 63 then
        let y := p.regWrite m x r w1
        Pkg.regRun m t y.1 (0 :: out) y.2
      else
        let y := p.regRead x true r
        Pkg.regRun m t x (y.1 :: out) y.2

/-- REG_ACCESS. -/
def Pkg.regAccess (p : Pkg) (m : Memory) : Pkg :=
  match p.front 0x10 with
  | none => p
  | some c =>
    if !regFormat c.payload then p.done c 1 []
    else
      let y := Pkg.regRun m (regEntries c.payload) [] [] p
      y.2.2.done c y.1 ((y.2.1.reverse.map (leBytes 8)).flatten)

/-! ### MEM_READ and MEM_WRITE (R505) -/

/-- Does the table of R505 allow the byte at `a`? -/
def Pkg.hostByte (p : Pkg) (write : Bool) (a : Nat) : Bool :=
  match p.place a with
  | .user _ => !p.safe
  | .cellar _ => !p.safe
  | .staging _ => true
  | .mailbox => true
  | .trace => !write
  | .reserved _ => !p.safe && (!write || (0x3F000000 ≤ a % 0x4000000000 && a % 0x4000000000 < 0x3F200000))
  | _ => false

/-- Do blocks at the address carry rinds? -/
def Pkg.hasRind (p : Pkg) (a : Nat) : Bool :=
  match p.place a with
  | .user _ => true
  | .cellar _ => true
  | .staging _ => true
  | _ => false

/-- The vat of a place, for requests that reach a vat. -/
def Pkg.vatAt (p : Pkg) (a : Nat) : Option Nat :=
  match p.place a with
  | .user v => some v
  | .cellar v => some v
  | .reserved v => some v
  | _ => none

/-- The status of steps 1 to 4; 0 when all pass. -/
def Pkg.hostCheck (p : Pkg) (write : Bool) (c : VctCmd) : Nat :=
  let w0 := leAt c.payload 0 8
  let n := leAt c.payload 8 8
  let a := w0 % 2 ^ 48
  let rind := bitOf w0 63
  let size := if write then 16 + n else 16
  if c.payload.length < 16 || fld w0 62 48 != 0 || n < 8 || 8192 < n || n % 8 != 0 || c.payload.length != size then 1
  else if !(p.hostByte write a && p.hostByte write (a + n - 1)) then 3
  else if rind && (!(p.hasRind a && p.hasRind (a + n - 1)) || (write && (a % 4096 != 0 || n % 4096 != 0))) then 1
  else if write && (p.inCave a || p.inCave (a + n - 1)) then 7
  else 0

/-- The parts of a range, one per 4 KiB block: address and length. -/
def blockParts (a n : Nat) : List (Nat × Nat) :=
  (unitsOf 4096 a n).map fun b => (max a b, min (a + n) (b + 4096) - max a b)

/-- What a host read delivered so far: bytes, whether a vat was not READY, whether a rind failed, the first bad granule,
the first block with a corrupt rind. -/
structure HostRead where
  bytes : List Byte
  dropped : Bool
  invalid : Bool
  bad : Option Nat
  corrupt : Option Nat
  deriving DecidableEq, Repr

/-- Byte `o` of the trace SRAM (R571, R572): the dailies share, whose order is not stated, as the byte of a free value
`v`, then the ring of the debug trace, then zeros. -/
def Pkg.traceByte (p : Pkg) (v o : Nat) : Byte :=
  let share := p.dailiesKib * 1024
  if o < share then BitVec.ofNat 8 v
  else if o - share < p.getF F.LOG_TRACE_CFG.DBG_KIB 0 * 1024 then
    BitVec.ofNat 8 ((tget 0 p.trace ((o - share) / 32)).toNat / 256 ^ ((o - share) % 32))
  else 0

/-- The bytes that a host read of a range delivers; each byte of the dailies share takes a free value. -/
def Dev.hostBytes (d : Dev) (a n : Nat) : List Byte × Dev :=
  match d.pkg.place a with
  | .trace =>
    let p := d.pkg
    ((List.range n).map fun i => p.traceByte (Config.freeValue (p.free + i)) (a + i - 0x020010000000),
      { d with pkg := { p with free := p.free + n } })
  | _ => (d.mem.view d.pkg a n, d)

/-- The read of the block's stored rind by a host read that checks it. -/
def Dev.noteRindIf (d : Dev) (on : Bool) (b : Nat) : Dev := if on then d.noteRind 5 b 1 else d

/-- One block's part of a host read. -/
def Dev.hostPart (d : Dev) (rind : Bool) (x : HostRead) (a n : Nat) : HostRead × Dev :=
  let p := d.pkg
  let b := blockOf a
  let zeros := { x with bytes := x.bytes ++ List.replicate n 0, dropped := true }
  let drop (v : Nat) : HostRead × Dev := (zeros, { d with pkg := p.vatDrop v })
  let held := match p.place a with
    | .user _ | .reserved _ => p.held (stackOf a)
    | _ => false
  match p.vatAt a with
  | some v => if !p.vatReady v then drop v else go b held
  | none => go b held
where
  go (b : Nat) (held : Bool) : HostRead × Dev :=
    let got := d.hostBytes a n
    let d := got.2
    let p := d.pkg
    let (lo, len) := if rind then (b, 4096) else (a, n)
    let ues := p.badIn lo len
    let y := { x with bytes := x.bytes ++ got.1 }
    if held then ({ y with invalid := y.invalid || rind }, { d with pkg := p.holdDrop (stackOf a) 5 })
    else
    let stored := d.rind b
    let lost := rind && p.rindBad b
    let whole := d.mem.view p b 4096
    let d := (Dev.mk d.mem (p.decodeRange lo len)).noteRindIf rind b
    if !ues.isEmpty then
      let first := (ues.foldl min (ues.headD 0)) * 8
      let d' : Dev := { d with pkg := d.pkg.ueRange d.mem lo len 1 }
      let d' := match p.place a with
        | .staging _ => if p.compat then d' else d'.rewriteStaging b
        | _ => d'
      ({ y with bad := some (y.bad.getD first) }, d')
    else if lost then ({ y with bad := some (y.bad.getD (blockOf b)) }, d)
    else if !rind then (y, d)
    else match rindCheck stored whole with
      | .valid => (y, d)
      | .invalid => ({ y with invalid := true }, d)
      | .corrupt => ({ y with invalid := true, corrupt := some (y.corrupt.getD b) }, d)

/-- The requests of a host access to a range: of whole blocks when rinds are checked or written. -/
def hostBlocks (rind : Bool) (a n : Nat) : List (Nat × Nat) :=
  if rind then (unitsOf 4096 a n).map fun b => (b, 4096) else blockParts a n

/-- MEM_READ; it waits at the host port until the controllers serve its requests. -/
def Dev.memRead (d : Dev) : Dev :=
  match d.pkg.front 0x11 with
  | none => d
  | some c =>
    let st := d.pkg.hostCheck false c
    if st != 0 then { d with pkg := d.pkg.done c st [] }
    else
      let w0 := leAt c.payload 0 8
      match d.pkg.directs 5 false (bitOf w0 63) (hostBlocks (bitOf w0 63) (w0 % 2 ^ 48) (leAt c.payload 8 8)) with
      | none => d
      | some p =>
      let d : Dev := { d with pkg := p }
      let y := (blockParts (w0 % 2 ^ 48) (leAt c.payload 8 8)).foldl
        (fun (y : HostRead × Dev) x => y.2.hostPart (bitOf w0 63) y.1 x.1 x.2) (⟨[], false, false, none, none⟩, d)
      let r := y.1
      let p := y.2.pkg
      let p := match r.corrupt with
        | some b => p.event 0x1820 (vatOfAddr b) 0x35 false 0 c.slate (b / 4096 % 65536)
        | none => p
      let p := match r.bad with
        | some g => p.done c 5 (leBytes 8 g)
        | none => p.done c (if r.dropped then 0xC else if r.invalid then 6 else 0) r.bytes
      { y.2 with pkg := p }

/-- MEM_WRITE; it waits at the host port until the controllers serve its requests. -/
def Dev.memWrite (d : Dev) : Dev :=
  match d.pkg.front 0x12 with
  | none => d
  | some c =>
    let st := d.pkg.hostCheck true c
    let w0 := leAt c.payload 0 8
    let a := w0 % 2 ^ 48
    let n := leAt c.payload 8 8
    if st == 7 then
      let first := if d.pkg.inCave a then a else a + n - (a + n) % 4096
      { d with pkg := (d.pkg.caveDrop first 5 c.slate).done c 7 [] }
    else if st != 0 then { d with pkg := d.pkg.done c st [] }
    else
      match d.pkg.directs 5 true (bitOf w0 63) (hostBlocks (bitOf w0 63) a n) with
      | none => d
      | some p =>
      let d : Dev := { d with pkg := p }
      let data := c.payload.drop 16
      let late := (blockParts a n).any fun x => match d.pkg.vatAt x.1 with
        | some v => !d.pkg.vatReady v
        | none => false
      let d := (blockParts a n).foldl (fun (d : Dev) x =>
        let bs := (data.drop (x.1 - a)).take x.2
        match d.pkg.place x.1 with
        | .mailbox => d.put x.1 bs
        | _ => d.store 5 c.slate x.1 bs (if bitOf w0 63 then .correct else .keep)) d
      { d with pkg := d.pkg.done c (if late then 0xC else 0) [] }

/-! ### LOAD, START, HALT (R506) -/

/-- Is LOAD or START available (R534, R537)? -/
def Pkg.loads (p : Pkg) : Bool := !p.safe && p.getF F.CFG_BOOT.PHASE 0 != 0xA

/-- LOAD. -/
def Dev.load (d : Dev) : Dev :=
  match d.pkg.front 0x20 with
  | none => d
  | some c =>
    let b := c.payload
    let es := (List.range (b.length / 16)).map fun i => (leAt b (16 * i) 8, leAt b (16 * i + 8) 4)
    if b.length % 16 != 0 || (List.range (b.length / 16)).any fun i => !zeroAt b (16 * i + 12) 4 then
      { d with pkg := d.pkg.done c 1 [] }
    else if !d.pkg.loads then { d with pkg := d.pkg.done c 0xA [] }
    else
      let y := d.loadBinary (c.slate % 65536) (es.map (·.1)) fun _ h => h
      match y.1 with
      | some (code, core) => { y.2 with pkg := y.2.pkg.done c 4 (leBytes 8 (code + core * 65536)) }
      | none =>
        let loads := es.foldl (fun t e => tins t (PHdr.ofBytes (d.mem.view d.pkg e.1 128)).core e) y.2.pkg.sec.loads
        let p := { y.2.pkg with sec := { y.2.pkg.sec with loads := loads } }
        { y.2 with pkg := p.done c 0 [] }

/-- The reply to a mask command: NOT_IDLE with the mask of the IDs not acted on, or OK. -/
def Pkg.maskDone (p : Pkg) (c : VctCmd) (rest : Nat) : Pkg :=
  if rest == 0 then p.done c 0 [] else p.done c 0xB (leBytes 64 rest)

/-- START. -/
def Pkg.start (p : Pkg) : Pkg :=
  match p.front 0x21 with
  | none => p
  | some c =>
    if c.payload.length != 64 then p.done c 1 []
    else if p.safe then p.done c 0xA []
    else
      let y := p.startMask (ofLe c.payload)
      y.2.maskDone c y.1

/-- HALT. -/
def Pkg.halt (p : Pkg) : Pkg :=
  match p.front 0x22 with
  | none => p
  | some c =>
    if c.payload.length != 64 then p.done c 1 []
    else
      let y := p.haltMask (ofLe c.payload)
      y.2.maskDone c y.1

/-! ### SUBSCRIBE, FLASH_WRITE, SVN_COMMIT (R502, R508, R513) -/

/-- SUBSCRIBE. -/
def Pkg.subscribe (p : Pkg) : Pkg :=
  match p.front 0x30 with
  | none => p
  | some c =>
    let w := leAt c.payload 0 8
    if c.payload.length != 8 then p.done c 1 []
    else
      let s := if bitOf w 63 then some ⟨c.v6, c.ip, fld w 31 16, c.mac, c.port, bitOf w 8, w % 16⟩ else none
      ({ p with sec := { p.sec with sub := s } }).done c 0 []

/-- The regions that FLASH_WRITE may write: start and size. -/
def Pkg.stagingRegions (p : Pkg) : List (Nat × Nat) :=
  let f := p.flash
  let d := f.dir.1
  let slot (o : Obj) : Nat × Nat := (f.slotAt o (1 - d.slot o), f.slotSize o)
  [(imageAt (1 - p.boot.image.getD 0), 0x1000000), slot .config, slot .owner, slot .scan]

/-- FLASH_WRITE; `fails` says that the flash write failed. -/
def Pkg.flashWrite (p : Pkg) (fails : Bool) : Pkg :=
  match p.front 0x40 with
  | none => p
  | some c =>
    let o := leAt c.payload 0 8
    let n := leAt c.payload 8 8
    if c.payload.length < 16 || 8192 < n || c.payload.length != 16 + (n + 7) / 8 * 8 then p.done c 1 []
    else if !p.stagingRegions.any fun r => decide (r.1 ≤ o) && decide (o + n ≤ r.1 + r.2) then p.done c 3 []
    else if fails then p.done c 9 []
    else ({ p with flash := p.flash.write o ((c.payload.drop 16).take n) }).done c 0 []

/-- SVN_COMMIT. -/
def Pkg.svnCommit (p : Pkg) : Pkg :=
  match p.front 0x41 with
  | none => p
  | some c =>
    let n := p.getF F.SEC_BOOT.FW_SVN 0
    if !c.payload.isEmpty then p.done c 1 []
    else if n ≤ p.fuse.minSvn then p.done c 0 []
    else
      let p := ({ p with fuse := { p.fuse with minSvn := n } }).setF F.SEC_BOOT.MIN_SVN 0 n
      (p.event 0x3004 0 0x35 false 0 c.slate n).done c 0 []

/-! ### Telemetry (R502) -/

/-- Words of a record of FIFO `f` (R566). -/
def recWords (f : Nat) : Nat := if f == 0 then 2 else if f == 2 then 8 else 4

/-- A group of a notice: header and record words. -/
def groupBytes (src f lost : Nat) (ws : List Word) : List Byte :=
  leBytes 8 (src * 2 ^ 52 + f * 2 ^ 48 + ws.length * 2 ^ 32 + min lost (2 ^ 32 - 1)) ++ (ws.map fun w => leBytes 8 w.toNat).flatten

/-- The records that leave FIFO `f` for a payload with `room` bytes left: whole records. -/
def Pkg.takeRecords (p : Pkg) (f room : Nat) : List Word :=
  let q := p.fifo f
  let n := min q.length ((room - 8) / 8)
  q.take (n - n % recWords f)

/-- The groups of the subscribed FIFOs that one message takes: FIFO, records dropped, words. -/
def Pkg.takeGroups (p : Pkg) (fifos : Nat) : List (Nat × Nat × List Word) :=
  ((List.range 4).foldl (fun (acc : Nat × List (Nat × Nat × List Word)) f =>
    let ws := if bitOf fifos f && 8 < acc.1 then p.takeRecords f acc.1 else []
    if ws.isEmpty then acc else (acc.1 - 8 - 8 * ws.length, acc.2 ++ [(f, tget 0 p.sec.lostAt f, ws)])) (8256, [])).2

/-- The taken words leave their FIFOs. -/
def Pkg.dropTaken (p : Pkg) (gs : List (Nat × Nat × List Word)) : Pkg :=
  gs.foldl (fun p g =>
    let p := { p with fifos := tset [] p.fifos g.1 ((p.fifo g.1).drop g.2.2.length) }
    { p with sec := { p.sec with lostAt := tset 0 p.sec.lostAt g.1 0 } }) p

/-- The port on which a notice leaves: the SUBSCRIBE's, or the other while that has no link; none while neither has. -/
def Pkg.noticePort (p : Pkg) (s : Sub) : Option Nat :=
  if p.flag F.ETH_STATUS.LINK s.port then some s.port
  else if p.flag F.ETH_STATUS.LINK (1 - s.port) then some (1 - s.port) else none

/-- A notice with a payload sent to the subscriber, or counted as lost. -/
def Pkg.notice (p : Pkg) (s : Sub) (payload : List Byte) : Pkg :=
  let ctr := p.getF F.SEC_BOOT.BOOT_ID 0 * 2 ^ 40 + 1 + p.sec.notices
  let p := { p with sec := { p.sec with notices := p.sec.notices + 1 } }
  match p.noticePort s with
  | none => p.addF F.SEC_NOTICE.LOST 0 1
  | some n =>
    let m := vctMessage p.sec.cmdKey 3 0 0 p.pkgId 0 ctr payload
    (p.addF F.SEC_NOTICE.SENT 0 1).send .notice n ((p.udpFrame n s.mac s.v6 s.ip s.udp m).map (·.toNat))

/-- NOTICE_SEND: firmware drains whole records of the subscribed FIFOs into one notice, or into messages of TC3 to the lead; those
that reach neither are counted. -/
def Pkg.noticeSend (p : Pkg) : Pkg :=
  match p.sec.sub with
  | none => p
  | some s =>
    let gs := p.takeGroups s.fifos
    if gs.isEmpty || !p.hostUp || !p.executes then p
    else
      let p := p.dropTaken gs
      if s.viaLead then
        if p.reaches (p.getF F.CLAP_ROLE.LEAD_ID 0) then
          gs.foldl (fun p g => p.send .forwardRecord (p.getF F.CLAP_ROLE.LEAD_ID 0)
            ([3, p.pkgId, g.1, g.2.1] ++ g.2.2.map (·.toNat))) p
        else gs.foldl (fun p g => p.addF F.SEC_NOTICE.LOST 0 (g.2.2.length / recWords g.1)) p
      else p.notice s ((gs.map fun g => groupBytes p.pkgId g.1 g.2.1 g.2.2).flatten)

/-- FORWARDED_RECORD_RECEIVE: records of package `src` reach the lead. -/
def Pkg.forwardReceive (p : Pkg) (src f lost : Nat) (ws : List Word) : Pkg :=
  if !p.hostUp || !p.executes then p
  else match p.sec.sub with
    | some s =>
      if s.viaLead then p.addF F.SEC_NOTICE.LOST 0 (ws.length / recWords f)
      else p.notice s (groupBytes src f lost ws)
    | none => p.addF F.SEC_NOTICE.LOST 0 (ws.length / recWords f)

/-! ### The guest-die firewall (R516, R517) -/

/-- A firewall refusal, logged for the first and then every 1,000th. -/
def Pkg.guestRefused (p : Pkg) (detail : Nat) : Pkg :=
  let n := p.sec.refused
  let p := { p with sec := { p.sec with refused := n + 1 } }
  if n % 1000 == 0 then p.event 0x3010 0 0x36 false 0 0 detail else p

/-- GUEST_ACCESS: the guest die reads `n` bytes, or writes `data`. -/
def Dev.guestAccess (d : Dev) (write : Bool) (a n : Nat) (data : List Byte) : Dev :=
  let len := if write then data.length else n
  let inside := 0x020020000000 ≤ a && a + len ≤ 0x020020400000
  if !d.pkg.fuse.guest then d
  else if inside then
    if write then d.put a data
    else { d with pkg := d.pkg.send .guestData 0 ((d.mem.view d.pkg a n).map (·.toNat)) }
  else
    let p := (d.pkg.addF F.SEC_GUEST.ACCESS_REFUSED 0 1).guestRefused (fld a 36 22)
    { d with pkg := if write then p else p.send .guestData 0 (List.replicate n 0) }

/-- GUEST_FRAME: a link-layer frame from the guest die for port `n`. -/
def Pkg.guestFrame (p : Pkg) (n : Nat) : Pkg :=
  if !p.fuse.guest || (15 ≤ n && n ≤ 17 && bitOf (p.getF F.PORT_GUEST.OPTICAL 0) (n - 15)) then p
  else (p.addF F.SEC_GUEST.FRAMES_REFUSED 0 1).guestRefused (0x8000 + n % 32)

/-- GUEST_PORT_STATE (R405, R517): the hub adopts the mailbox word of port `n`. -/
def Pkg.guestWord (p : Pkg) (m : Memory) (n : Nat) : Pkg :=
  let w := ofLe (m.read (0x020020000000 + 8 * (n - 15)) 8)
  if n < 15 || !bitOf w 63 then p
  else if bitOf w 2 then p.guestPortState n 7
  else if w % 4 == 3 then p
  else p.guestPortState n (6 - w % 4)

end Sys2Proof.Machine
end

