-- ==== Sys2Proof/Machine/Boot.lean ====
section
/-! DEFINITION. Reset, boot and the configuration record (R13, R20, R36, R46–R49, R80, R353, R412, R482, R520–R538). -/
namespace Sys2Proof.Machine

/-! ### Reset (R13, R36, R377) -/

/-- What a reset keeps of a pseudo-channel: its permanent repairs. -/
def Pch.kept (x : Pch) : Pch :=
  { Pch.init with hardRows := x.hardRows, hardLanes := x.hardLanes, laneFree := 2 - x.hardLanes.length }

/-- MC_LANE.REPAIRED shows the permanent lane repairs. -/
def Pkg.showLanes (p : Pkg) : Pkg :=
  p.pchs.foldl (fun q x => q.setF F.MC_LANE.REPAIRED x.1 (x.2.hardLanes.foldl (fun a l => a ||| 2 ^ l) 0)) p

/-- Every reset domain reset together (R36); a scan under way is abandoned (R483). -/
def Pkg.resetAll (p : Pkg) : Pkg :=
  let q := Pkg.blank { p.pins with faultN := false } p.fuse p.flash
  let pchs := (p.pchs.map fun x => (x.1, x.2.kept)).filter fun x => x.2 != Pch.init
  let q := ({ q with free := p.free, tx := p.tx, pchs := pchs }).showLanes
  ((List.range 4).filter fun v => (p.vat v).st == .scan).foldl (fun q v => q.setF F.REL_SCAN.RESULT v 4) q

/-- RESET_N_ASSERT. -/
def Dev.resetAssert (d : Dev) : Dev :=
  if !d.pkg.pins.resetN then d
  else ⟨[], { d.pkg.resetAll with pins := { d.pkg.pins with resetN := false, faultN := false } }⟩

/-! ### The boot ROM (R500, R520–R526, R535) -/

/-- The flash as a board programmer left it. -/
def Flash.ofProg (g : FlashProg) : Flash :=
  g.parts.foldl (fun f x => f.write x.1 x.2) ⟨g.mib, g.ok, g.rootN, g.idN, g.idWrap, g.idCert, g.caCert, []⟩

/-- The fuses as manufacture left them. -/
def Fuse.ofProg (g : FuseProg) : Fuse := ⟨g.grade, g.vatMask, g.guest, g.minSvn, g.serial, g.rootHash, g.devKey, g.fusedOff⟩

/-- The ROM reads the fuses (R535): those of `fuse` on a part whose fuses the state does not hold yet, with no root-key hash (DESIGN
CHOICE, log entry 155); every register then stands at what these fuses give. -/
def Pkg.readFuses (p : Pkg) (fuse : Option FuseProg) : Pkg :=
  match fuse with
  | some g =>
    if p.fuse.rootHash != 0 then p
    else { Pkg.blank p.pins (Fuse.ofProg g) p.flash with free := p.free, tx := p.tx, pchs := p.pchs }.showLanes
  | none => p

def Directory.withTrial (d : Directory) (i : Nat) : Directory := { d with fw := putFld d.fw 3 2 i }

/-- Step 1 of R525: an image in trial never reached ready for job, and is rejected. -/
def Pkg.rejectTrial (p : Pkg) : Pkg :=
  let f := p.flash
  let d := f.dir.1
  let t := d.trial
  if 2 ≤ t then p
  else { p with flash := f.writeDir { d.withTrial 3 with rej := f.imgBuild t },
                boot := { p.boot with early := p.boot.early ++ [(0x4806, 3 + t, p.time)] } }

/-- RESET_N_RELEASE: the ROM starts, the security engine draws BOOT_ID, an image is chosen. -/
def Pkg.resetRelease (p : Pkg) (bootId : Nat) (prog : Option FlashProg) (fuse : Option FuseProg) : Pkg :=
  if p.pins.resetN || !p.pins.supply || !p.pins.pwrgd then p
  else
    let p := p.readFuses fuse
    let flash := match prog with
      | some g => Flash.ofProg g
      | none => p.flash
    let p := { p with flash := flash, pins := { p.pins with resetN := true, jtag := 0, tdr := 0 } }
    if p.pins.thermtrip then p
    else
      let p := (p.setF F.SEC_BOOT.BOOT_ID 0 bootId).setReg .SEC_CTR 0 (BitVec.ofNat 64 (bootId * 2 ^ 40))
      let p := (p.setF F.CFG_FLASH.SIZE_MIB 0 flash.mib).setF F.CFG_FLASH.SCAN_MIB 0 (flash.scanSlot / 1048576)
      if !flash.ok || flash.mib < 256 then p.assertFault
      else
        let p := p.rejectTrial
        let d := p.flash.dir.1
        match p.flash.choose p.rootKey p.fuse.minSvn d.rej with
        | none => p.assertFault
        | some i =>
          let f := if d.confirmed == i then p.flash else p.flash.writeDir (d.withTrial i)
          let p := ({ p with flash := f, boot := { p.boot with image := some i } }).showDir
          let p := (p.setF F.SEC_BOOT.IMAGE 0 i).setF F.SEC_BOOT.FW_SVN 0 (f.imgSvn i)
          let p := p.setReg .FW_BUILD 0 (BitVec.ofNat 64 (f.imgBuild i))
          let p := p.setReg .FW_REJECT 0 (BitVec.ofNat 64 d.rej)
          p.setF F.CFG_BOOT.PHASE 0 1

/-! ### The configuration record (R528–R534) -/

/-- A record as the flash holds it. -/
structure CfgRec where
  bytes : List Byte
  flags : Nat
  seq : Nat
  pkg : Nat
  dbg : Nat
  entries : List (Nat × Nat)
  map : List Nat
  deriving DecidableEq, Repr

/-- The record in a slot: LEN bytes of it, at most the slot. -/
def Flash.cfgAt (f : Flash) (a : Nat) : CfgRec :=
  let len := min 0x40000 (ofLe (f.read (a + 24) 4))
  let b := f.read a (max 64 len)
  let n := min 8192 (leAt b 32 4)
  let es := (chunksOf 16 n ((b.drop 64).take (16 * n))).map fun e => (leAt e 0 8, leAt e 8 8)
  let fl := leAt b 6 2
  let map := if fl == 1 then (chunksOf 4 4096 ((b.drop (64 + 16 * n)).take 16384)).map ofLe else []
  ⟨b, fl, leAt b 8 8, leAt b 28 2, leAt b 36 4, es, map⟩

/-- The value that the record's entries give CLAP_ROLE_CFG. -/
def CfgRec.roles (r : CfgRec) : Option Nat :=
  let m := Reg.CLAP_ROLE_CFG.bits (·.cfg)
  ((r.entries.filter fun e => e.1 == Reg.CLAP_ROLE_CFG.off && e.2 - (e.2 &&& m) == 0).getLast?).map (·.2)

/-- Is the wheel of package `id` shown to be absent (R531)? -/
def CfgRec.absentWheel (r : CfgRec) (id : Nat) : Bool :=
  let w := id / 16
  r.flags == 1 && w != r.pkg / 16 && !(List.range 16).any fun i => bitOf (r.map.getD (16 * w + i) 0) 31

/-- Do the roles break a rule of R440 that one package can check? -/
def CfgRec.rolesBad (r : CfgRec) : Bool :=
  match r.roles with
  | none => false
  | some w =>
    let lead := fld w 11 0
    let stby := fld w 23 12
    let top := fld w 35 24
    let tstby := fld w 47 36
    lead / 16 != r.pkg / 16 || stby / 16 != r.pkg / 16 || lead == stby || top / 16 == tstby / 16 ||
      [lead, stby, top, tstby].any r.absentWheel

/-- Why a record is rejected (R531); the lowest reason of those that hold. -/
def Flash.cfgBad (f : Flash) (ownerN serial a : Nat) : Option Nat :=
  let r := f.cfgAt a
  let b := r.bytes
  let len := leAt b 24 4
  let n := leAt b 32 4
  if ownerN == 0 || len < 448 || 0x40000 < len || !f.signed ownerN a len then some 1
  else if leAt b 0 4 != 0x56434647 || leAt b 4 2 != 1 || 1 < r.flags || 4095 < r.pkg || !zeroAt b 30 2 || 8192 < n ||
      !zeroAt b 40 24 || len != 64 + 16 * n + 16384 * r.flags + 384 then some 2
  else if leAt b 16 8 != 0 && leAt b 16 8 != serial then some 3
  else if r.rolesBad then some 4
  else if r.map.any fun w => bitOf w 31 && fld w 30 20 != 0 then some 5
  else none

/-- An event of the boot chapter (R540). -/
def Pkg.bootEvent (p : Pkg) (code detail : Nat) : Pkg := p.event code 0 0x37 false 0 0 detail

/-- Entry `i` of the record applied or ignored (R529, R532, R556). -/
def Pkg.cfgApply (p : Pkg) (i : Nat) (e : Nat × Nat) : Pkg :=
  match p.cfgEntry e.1 e.2 with
  | some q =>
    let q := q.setF F.CFG_STAT.APPLIED 0 (min 65535 (q.getF F.CFG_STAT.APPLIED 0 + 1))
    if e.1 == Reg.GAFF_GPIO.off then q.gpioWrite (q.reg .GAFF_GPIO 0).toNat else q
  | none =>
    let n := p.getF F.CFG_STAT.IGNORED 0
    let p := p.setF F.CFG_STAT.IGNORED 0 (min 65535 (n + 1))
    if n % 64 == 0 then p.bootEvent 0x4803 i else p

/-- Does an entry name the LEVEL of FIFO 2? -/
def namesDailiesLevel (e : Nat × Nat) : Bool :=
  e.1 % 2 ^ 24 == Reg.LOG_FIFO_CFG.off && (fld e.1 47 24 == 0xFFFFFF || fld e.1 47 24 % 4 == 2)

/-- Recovery MAC address of port `n` (R534). -/
def Pkg.recoveryMac (p : Pkg) (n : Nat) : Nat := 0x020000000000 + n * 2 ^ 32 + p.fuse.serial % 2 ^ 32

/-- Is a MAC address zero or multicast? -/
def macBad (m : Nat) : Bool := m == 0 || bitOf m 40

/-- The link-local IPv6 address of a MAC address, with its modified EUI-64 interface ID. -/
def linkLocal (mac : Nat) : Nat × Nat :=
  (0xFE80000000000000, ((mac / 2 ^ 24) ^^^ 0x020000) * 2 ^ 40 + 0xFFFE000000 + mac % 2 ^ 24)

/-- A port takes the recovery identity. -/
def Pkg.recover (p : Pkg) (n : Nat) : Pkg :=
  (((p.setF F.ETH_PORT_CFG.EN n 1).setF F.ETH_PORT_CFG.MODES n 7).setF F.ETH_PORT_CFG.MAC n (p.recoveryMac n)).setF
    F.CFG_STAT.ETH_DEF 0 1

/-- The link-local address of port 0 is used. -/
def Pkg.useLinkLocal (p : Pkg) : Pkg :=
  let mac := p.getF F.ETH_PORT_CFG.MAC 0
  let a := linkLocal (if macBad mac then p.recoveryMac 0 else mac)
  let p := (p.setReg .ETH_IP6_HI 0 (BitVec.ofNat 64 a.1)).setReg .ETH_IP6_LO 0 (BitVec.ofNat 64 a.2)
  (p.setF F.ETH_NET.IP6_EN 0 1).setF F.CFG_STAT.ETH_DEF 0 1

/-- The Ethernet identity settled (R533). -/
def Pkg.ethSettle (p : Pkg) : Pkg :=
  let bad := [0, 1].filter fun n => p.flag F.ETH_PORT_CFG.EN n && macBad (p.getF F.ETH_PORT_CFG.MAC n)
  let bad := if p.flag F.ETH_PORT_CFG.EN 0 || p.flag F.ETH_PORT_CFG.EN 1 then bad else [0]
  let p := bad.foldl (fun p n => (p.recover n).bootEvent 0x480D n) p
  if p.flag F.ETH_NET.IP4_EN 0 || p.flag F.ETH_NET.IP6_EN 0 then p else p.useLinkLocal.bootEvent 0x480D 0

/-- Port toward a package of the same wheel (R391). -/
def portTo (own other : Nat) : Nat := (other % 16 + 31 - own % 16) % 16

/-- CLAP_ROLE and the clapper's parent from CLAP_ROLE_CFG (R434, R440, R533). -/
def Pkg.roleSettle (p : Pkg) (named : Bool) : Pkg :=
  let own := p.pkgId
  let p := if named then p
    else p.setReg .CLAP_ROLE_CFG 0 (BitVec.ofNat 64 (own * (1 + 2 ^ 12 + 2 ^ 24 + 2 ^ 36)))
  let lead := p.getF F.CLAP_ROLE_CFG.LEAD_ID 0
  let top := p.getF F.CLAP_ROLE_CFG.TOP_ID 0
  let role := if top == own then 2 else if lead == own then 1 else 0
  let p := ((p.setF F.CLAP_ROLE.ROLE 0 role).setF F.CLAP_ROLE.LEAD_ID 0 lead).setF F.CLAP_ROLE.TOP_ID 0 top
  let p := p.setF F.CLAP_ROLE.STANDBY 0 (b2n (named && p.getF F.CLAP_ROLE_CFG.STANDBY_ID 0 == own))
  let p := p.setF F.CLAP_ROLE.TOP_STBY 0 (b2n (named && p.getF F.CLAP_ROLE_CFG.TOP_STANDBY_ID 0 == own))
  let parent := if role == 2 then 0x1F else if role == 1 then p.getF F.CLAP_CFG.LEAD_PORT 0 else portTo own lead
  (p.setF F.CLAP_STAT.PARENT 0 parent).setF F.CLAP_STAT.STATE 0 (if role == 2 then 3 else 0)

/-- The continuity map (R530). -/
def Pkg.mapSettle (p : Pkg) (r : CfgRec) : Pkg :=
  let words : List (Nat × Nat) := r.map.zipIdx.filter fun x => bitOf x.1 31
  let own := r.map.getD p.pkgId 0
  let map : Tab Nat := words.map fun (x : Nat × Nat) => (x.2, x.1)
  let reps : List Nat := words.map fun (x : Nat × Nat) => fld x.1 7 0
  let p := { p with boot := { p.boot with map := map, hasMap := r.flags == 1 } }
  let p := p.setF F.CFG_STAT.MAP 0 r.flags
  if !bitOf own 31 then p.setReg .CLAP_CONT_SELF 0 0
  else
    let p := ((p.setF F.CLAP_CONT_SELF.VALID 0 1).setF F.CLAP_CONT_SELF.SET 0 (fld own 19 8)).setF F.CLAP_CONT_SELF.REPLICA 0
      (fld own 7 0)
    p.setF F.CLAP_CONT_SELF.REPLICAS_M1 0 (maxOf reps)

/-- The record in force: entries, identity and the cases of R533; an entry that was ignored names nothing. -/
def Pkg.cfgInForce (p : Pkg) (slot : Nat) (r : CfgRec) : Pkg :=
  let p := (p.setReg .CFG_REC 0 (BitVec.ofNat 64 r.seq)).setF F.CFG_STAT.SLOT 0 slot
  let p := r.entries.zipIdx.foldl (fun p e => p.cfgApply e.2 e.1) p
  let p := p.setF F.PORT_ID.PKG_ID 0 r.pkg
  let p := [15, 16, 17].foldl (fun p n => p.setF F.PORT_STATUS.OPTICAL n (b2n (p.optical n))) p
  let p := if r.entries.any fun e => namesDailiesLevel e && (p.cfgEntry e.1 e.2).isSome then p else p.setF F.LOG_FIFO_CFG.LEVEL 2 (p.fifoDepth 2 / 4)
  let p := ((p.mapSettle r).roleSettle r.roles.isSome).ethSettle
  if r.dbg == 0 then p
  else if 32768 - p.dailiesKib < r.dbg then (p.setF F.CFG_STAT.DBG_OFF 0 1).bootEvent 0x4809 0
  else p.setF F.LOG_TRACE_CFG.DBG_KIB 0 r.dbg

/-- SAFE (R534). -/
def Pkg.enterSafe (p : Pkg) : Pkg :=
  let p := ((p.bootEvent 0x4805 0).recover 0).recover 1
  let p := p.useLinkLocal
  let p := (List.range 4).foldl (fun p v => if p.hasVat v then p.setVat v { p.vat v with st := .held } else p) p
  p.setF F.CFG_BOOT.PHASE 0 9

/-! ### Firmware's start (R514, R527) -/

/-- What the handling of the staged objects has done: flash, log, objects promoted. -/
structure Staged where
  dir : Directory
  pkg : Pkg
  owner : Option Nat
  deriving DecidableEq, Repr

/-- One staged object: promoted when `good`, else discarded; an empty slot is left (R527). -/
def Staged.one (s : Staged) (o : Obj) (detail : Nat) (good : Bool) : Staged :=
  let f := s.pkg.flash
  if f.emptyAt (f.slotAt o (1 - s.dir.slot o)) then s
  else
    let d := { s.dir with erase := s.dir.erase ||| 2 ^ o.bit }
    if good then
      let p := s.pkg.setF F.CFG_BOOT.PROMOTED 0 (s.pkg.getF F.CFG_BOOT.PROMOTED 0 ||| 2 ^ detail)
      { s with dir := { d with active := d.active ^^^ 2 ^ o.bit }, pkg := p.bootEvent 0x4807 detail }
    else { s with dir := d, pkg := s.pkg.bootEvent 0x4806 detail }

/-- The staged objects in the order owner certificate, scan library, configuration record; `libs` are the lengths of
the scan libraries in the two slots. -/
def Pkg.stagedObjects (p : Pkg) (libs : Nat → Nat) : Pkg × Option Nat :=
  let f := p.flash.doErase
  let p := { p with flash := f }
  let d := f.dir.1
  let staging (o : Obj) : Nat := f.slotAt o (1 - d.slot o)
  let root := p.rootKey
  let s : Staged := ⟨d, p, none⟩
  let s := s.one .owner 1 (f.ownerAt root p.fuse.serial (staging .owner)).isSome
  let owner := f.ownerAt root p.fuse.serial (f.slotAt .owner (s.dir.slot .owner))
  let s := s.one .scan 2 (root != 0 && f.signed root (staging .scan) (libs (1 - d.slot .scan)))
  let why := f.cfgBad (owner.getD 0) p.fuse.serial (staging .config)
  let s := match why, f.emptyAt (staging .config) with
    | some r, false => { s with pkg := s.pkg.bootEvent 0x4804 ((1 - d.slot .config) * 16 + r) }
    | _, _ => s
  let s := s.one .config 0 why.isNone
  let f := if s.dir.erase == d.erase then f else (f.writeDir s.dir).doErase
  ({ s.pkg with flash := f }, owner)

/-- Measurement of signed bytes (R514). -/
def measure (b : List Byte) : Nat := ofBe (sha256 b)

/-- Keys unwrapped and measurements taken (R509, R514). -/
def Pkg.keysAndMeasures (p : Pkg) (libs : Nat → Nat) (owner : Option Nat) (cfg : Option CfgRec) : Pkg :=
  let f := p.flash
  let d := f.dir.1
  let ks := f.slotAt .key (d.slot .key)
  let key := if f.emptyAt ks then none else keyUnwrap p.fuse.devKey (ofBe (f.read ks 40))
  let sl := d.slot .scan
  let sa := f.slotAt .scan sl
  let root := p.rootKey
  let lib := root != 0 && f.signed root sa (libs sl)
  let s := p.sec
  let s := { s with ownerN := owner.getD 0, cmdKey := key, fwMeas := measure (f.imgBody (p.boot.image.getD 0)),
                    cfgMeas := (match cfg with
                      | some r => measure (r.bytes.take (r.bytes.length - 384))
                      | none => 0),
                    scanMeas := if lib then measure (f.read sa (libs sl - 384)) else 0,
                    ownMeas := if owner.isSome then measure (f.read (f.slotAt .owner (d.slot .owner)) 416) else 0,
                    idMeas := measure f.idCert }
  let p := { p with sec := s, boot := { p.boot with lib := if lib then some (sl, libs sl) else none } }
  (p.setF F.SEC_STATE.KEY_OK 0 (b2n key.isSome)).setF F.SEC_STATE.OWNER_OK 0 (b2n owner.isSome)

/-- FIRMWARE_START. -/
def Pkg.firmwareStart (p : Pkg) (lib0 lib1 : Nat) : Pkg :=
  if !p.alive || p.getF F.CFG_BOOT.PHASE 0 != 1 then p
  else
    let libs (i : Nat) : Nat := if i == 0 then lib0 else lib1
    let p := p.boot.early.foldl (fun p e => p.eventAt e.2.2 e.1 0 0x37 false 0 0 e.2.1) p
    let p := { p with boot := { p.boot with early := [] }, lead := { p.lead with beatAt := p.time } }
    let (p, owner) := p.stagedObjects libs
    let p := p.showDir
    let slot := p.flash.dir.1.slot .config
    let a := p.flash.slotAt .config slot
    let p := p.setF F.CFG_BOOT.PHASE 0 2
    match p.flash.cfgBad (owner.getD 0) p.fuse.serial a with
    | some r => ((p.keysAndMeasures libs owner none).bootEvent 0x4804 (slot * 16 + r)).enterSafe
    | none =>
      let r := p.flash.cfgAt a
      (p.keysAndMeasures libs owner (some r)).cfgInForce slot r

/-! ### Dies (R20, R46–R48) -/

/-- An edge without a common version or rate (R47): its vats are held, or the edge to the guest die stays down. -/
def Pkg.noCommon (p : Pkg) (e : Nat) : Pkg :=
  let p := p.bootEvent 0x4801 (e * 4096)
  let hold (p : Pkg) (v : Nat) : Pkg := p.setVat v { p.vat v with st := .held }
  if e < 4 then hold p e
  else if e < 8 then hold (hold p (e - 4)) ((e - 3) % 4)
  else [15, 16, 17].foldl (fun p n => if p.optical n then p.noPartner n else p) p

/-- One edge trained; `low` names the edges that trained at a lower rate of the set. -/
def Pkg.trainEdge (p : Pkg) (guest : Nat) (low : List (Nat × Nat)) (e : Nat) : Pkg :=
  if p.edgeModules e == 0 then p
  else
    let c := p.edgeCaps e guest
    match negotiate c.1 c.2 with
    | none => p.noCommon e
    | some (pr, rt) =>
      let p := (List.range (p.edgeModules e)).foldl (fun p m => p.setMod e m { p.d2dMod e m with st := 0, want := 0 }) p
      p.setRate e pr (pickRate c rt low e)

/-- The containment mode settled against TOP_CAPS_EFF (R48). -/
def Pkg.modeSettle (p : Pkg) : Pkg :=
  let eff := (p.reg .TOP_CAPS_EFF 0).toNat
  let mode := p.getF F.REL_CFG.MODE 0
  if mode == 1 && !bitOf eff 0 then (p.setF F.REL_CFG.MODE 0 0).bootEvent 0x4802 0
  else if mode == 0 && !bitOf eff 1 then (p.setF F.REL_CFG.MODE 0 1).bootEvent 0x4802 1
  else p

/-- DIES_TRAINED: the capability word that the guest die reports, and the edges that trained at a lower rate. -/
def Pkg.diesTrained (p : Pkg) (guest : Nat) (low : List (Nat × Nat)) : Pkg :=
  if !p.alive || p.getF F.CFG_BOOT.PHASE 0 != 2 then p
  else
    let p := p.setF F.CFG_BOOT.PHASE 0 3
    let p := (List.range 4).foldl (fun p v => if p.hasVat v then p.setVat v { Vat.init with st := .boot } else p) p
    let eff := ((List.range 4).filter p.hasVat).foldl (fun a v => a &&& capsGx p.fuse v) (p.reg .TOP_CAPS_HUB 0).toNat
    let p := p.setReg .TOP_CAPS_EFF 0 (BitVec.ofNat 64 eff)
    ((List.range 9).foldl (fun p e => p.trainEdge guest low e) p).modeSettle

/-! ### The boot-time test (R80) -/

/-- The core map of vat `v` built; `failed` are the compute cores that the test failed. -/
def Pkg.mapVat (p : Pkg) (failed : List Nat) (v : Nat) : Pkg :=
  let all := (List.range 100).map (v * 128 + ·)
  let n := p.logCount
  let good := all.filter fun k => !p.fuse.fusedOff.contains k && !failed.contains k
  let st (k : Nat) : CoreSt :=
    if p.fuse.fusedOff.contains k then .off
    else if failed.contains k then .retired
    else if (good.take n).contains k then .idle
    else if ((good.drop n).take 4).contains k then .spare else .off
  let p := all.foldl (fun p k => p.setCore k (Core.init (st k))) p
  let p := { p with coreMap := (List.range n).foldl (fun t i =>
    tset i t (v * 128 + i) (match good[i]? with
      | some k => k % 128
      | none => 0x7F)) p.coreMap }
  if good.length < n then p.setVat v { p.vat v with st := .held } else p

/-- BOOT_TEST_DONE. -/
def Pkg.bootTestDone (p : Pkg) (failed : List Nat) : Pkg :=
  if !p.alive || p.getF F.CFG_BOOT.PHASE 0 != 3 then p
  else ((List.range 4).filter p.hasVat).foldl (fun p v => p.mapVat failed v) (p.setF F.CFG_BOOT.PHASE 0 4)

/-! ### Memory (R353, R412, R482) -/

/-- The scan library copied into vat 0 with its rinds. -/
def Dev.copyLib (d : Dev) : Dev :=
  match d.pkg.boot.lib with
  | none => d
  | some (_, len) =>
    let a := 0x10000000
    let bs := d.pkg.scanBytes 0 len
    let d : Dev := { d with mem := d.mem.write a bs }
    (unitsOf 4096 a len).foldl (fun d b => d.setRind b (rindOf (d.mem.read b 4096))) d

/-- Firmware keeps a verified copy of its image in vat 0's working space (R488). -/
def Dev.copyImage (d : Dev) : Dev :=
  { d with mem := d.mem.write 0x0F000000 (d.pkg.flash.imgBody (d.pkg.boot.image.getD 0)) }

/-- MEMORY_CLEAR_DONE: memory, cellars and staging SRAM are clear, the vats that boot are READY. -/
def Dev.memoryClear (d : Dev) : Dev :=
  let p := d.pkg
  if !p.alive || p.getF F.CFG_BOOT.PHASE 0 != 4 then d
  else
    let p := p.setF F.CFG_BOOT.PHASE 0 5
    let p := (List.range 4).foldl (fun p v =>
      if (p.vat v).st == .boot && (p.vat v).cause == 0 then p.setVat v { p.vat v with st := .ready } else p) p
    (Dev.copyLib ⟨[], { p with flaws := [], skew := [], crinds := [] }⟩).copyImage

/-! ### Links, clock, ready (R388, R535–R538) -/

/-- LINK_TRAINING_START: 30 s after the release of RESET_N. -/
def Pkg.linksStart (p : Pkg) : Pkg :=
  if !p.alive || p.getF F.CFG_BOOT.PHASE 0 != 5 then p
  else
    let p := { p with time := max p.time (p.boot.t0 + 30000000000).toNat }
    (p.setF F.CFG_BOOT.PHASE 0 6).linkTrainingStart

/-- Once no port trains, the boot is in CLOCK. -/
def Pkg.clockPhase (p : Pkg) : Pkg :=
  if p.getF F.CFG_BOOT.PHASE 0 == 6 && (List.range 18).all fun n => p.portState n != 1 then p.setF F.CFG_BOOT.PHASE 0 7 else p

/-- PORT_TRAIN_DONE and PORT_NO_PARTNER in the boot. -/
def Pkg.portTrained (p : Pkg) (n pid pport : Nat) (popt : Bool) (rates ver rx tx : Nat) : Pkg :=
  (p.portTrainDone n pid pport popt rates ver rx tx).clockPhase

def Pkg.portAlone (p : Pkg) (n : Nat) : Pkg := (p.portNoPartner n).clockPhase

/-- Is the clapper LOCKED or ROOT? -/
def Pkg.clockOk (p : Pkg) : Bool := p.getF F.CLAP_STAT.STATE 0 == 1 || p.getF F.CLAP_STAT.STATE 0 == 3

/-- BOOT_READY: the package reports ready for job, or the boot ends in FAILED. -/
def Pkg.bootReady (p : Pkg) : Pkg :=
  let vs := (List.range 4).filter p.hasVat
  let ph := p.getF F.CFG_BOOT.PHASE 0
  if !p.alive || ph < 5 || 7 < ph then p
  else
    let fail := if vs.any fun v => (p.vat v).st == .held then 1 else if p.boot.lib.isNone then 2 else 0
    if fail != 0 then
      ((p.setF F.CFG_BOOT.PHASE 0 0xA).setF F.CFG_BOOT.FAIL 0 fail).bootEvent 0x480B fail
    else if ph != 7 || !p.clockOk || vs.any fun v => (p.vat v).st != .ready then p
    else
      let ms := min (2 ^ 32 - 1) ((Int.ofNat p.time - p.boot.t0).toNat / 1000000)
      let f := p.flash.writeDir { p.flash.dir.1 with fw := p.boot.image.getD 0 + 12 }
      let p := ({ p with flash := f }).showDir
      ((p.setF F.CFG_BOOT.PHASE 0 8).setF F.CFG_BOOT.READY_MS 0 ms).bootEvent 0x480C (min 65535 (ms / 100))

/-- CLOCK_LATE: 90 s after the release of RESET_N without a lock. -/
def Pkg.clockLate (p : Pkg) : Pkg :=
  let ph := p.getF F.CFG_BOOT.PHASE 0
  if !p.alive || ph < 5 || 7 < ph || p.clockOk || p.boot.lateLog then p
  else
    let p := { p with time := max p.time (p.boot.t0 + 90000000000).toNat, boot := { p.boot with lateLog := true } }
    p.bootEvent 0x480A 0

end Sys2Proof.Machine
end

