-- ==== Sys2Proof/Machine/Leads.lean ====
section
/-! DEFINITION. The clapper exchange, roles, heartbeats and the supervision of firmware (R433–R443, R449, R487–R490). -/
namespace Sys2Proof.Machine

/-! ### Settings and conditions -/

/-- Does firmware run (R488)? -/
def Pkg.fwOn (p : Pkg) : Bool := p.alive && 2 ≤ p.getF F.CFG_BOOT.PHASE 0 && !p.boot.restarting

/-- The exchange period in ns (CLAP_CFG). -/
def Pkg.clapNs (p : Pkg) : Nat := max 100 (min 10000 (p.getF F.CLAP_CFG.PERIOD_US 0)) * 1000

/-- Missed exchanges before holdover or loss (CLAP_CFG). -/
def Pkg.missMax (p : Pkg) : Nat := max 1 (p.getF F.CLAP_CFG.MISS 0)

def Pkg.role (p : Pkg) : Nat := p.getF F.CLAP_ROLE.ROLE 0
def Pkg.topId (p : Pkg) : Nat := p.getF F.CLAP_ROLE.TOP_ID 0
def Pkg.leadId (p : Pkg) : Nat := p.getF F.CLAP_ROLE.LEAD_ID 0
def Pkg.isTop (p : Pkg) : Bool := p.role == 2

/-- The clapper's parent port, and the package cabled to it (R391). -/
def Pkg.parentPort (p : Pkg) : Nat := p.getF F.CLAP_STAT.PARENT 0
def Pkg.parentId (p : Pkg) : Nat :=
  let n := p.parentPort
  if n < 15 then p.pkgId / 16 * 16 + (p.pkgId % 16 + n + 1) % 16 else p.getF F.PORT_STATUS.PARTNER_ID n

/-- The physical cores in RUN. -/
def Pkg.running (p : Pkg) : List Nat := (p.cores.filter (·.2.st == .run)).map (·.1)

/-- The highest STEP_NO among the package's cores in RUN. -/
def Pkg.highStep (p : Pkg) : Nat := maxOf (p.running.map p.stepNo)

/-- The lowest STEP_NO among the package's cores in RUN; 0 where none runs. -/
def Pkg.lowStep (p : Pkg) : Nat :=
  match p.running.map p.stepNo with
  | [] => 0
  | x :: t => t.foldl min x

/-- The step value of a wheel lead's request to the top lead (R449): the highest of its wheel in the last period. -/
def Pkg.wheelStep (p : Pkg) : Nat :=
  let kids := p.lead.kids.filter fun c => c.1 / 16 == p.pkgId / 16 && !c.2.lost && p.time ≤ c.2.seen + p.clapNs
  max p.highStep (maxOf (kids.map (·.2.step)))

/-- The step value of a request to package `dst` (R449). -/
def Pkg.clapStep (p : Pkg) (dst : Nat) : Nat := if p.role != 0 && dst == p.topId then p.wheelStep else p.highStep

/-- An event of continuity and role firmware (R456). -/
def Pkg.roleEvent (p : Pkg) (code detail : Nat) : Pkg := p.event code 0 0x32 false 0 0 detail

/-- An event of the clapper (R456). -/
def Pkg.clapEvent (p : Pkg) (code : Nat) : Pkg := p.event code 0 0x31 false 0 0 p.parentPort

/-- The clapper passes to the time `t` at which an event is due, if it is not there yet. -/
def Pkg.waitTill (p : Pkg) (t : Nat) : Pkg := { p with time := max p.time t }

/-! ### The clapper (R433, R436, R439) -/

/-- One hub cycle: 1 ns, with one added or withheld in 4,000 while a correction is left. -/
def Pkg.tick (p : Pkg) : Pkg :=
  if !p.alive then p
  else
    let l := p.lead
    if l.slew == 0 then { p with time := p.time + 1 }
    else if l.phase + 1 < 4000 then { p with time := p.time + 1, lead := { l with phase := l.phase + 1 } }
    else
      let up := 0 < l.slew
      let p := { p with time := if up then p.time + 2 else p.time,
                        lead := { l with phase := 0, slew := if up then l.slew - 1 else l.slew + 1 } }
      p.addF F.CLAP_STAT.SLEWS 0 1

/-- Half of a number, rounded to the nearest whole number, ties to even (R435). -/
def halfEven (x : Int) : Int := if x % 4 == 3 then (x + 1) / 2 else x / 2

/-- The clapper is to be corrected by `x` ns. -/
def Pkg.slewTo (p : Pkg) (x : Int) : Pkg := p.onLead fun l => { l with slew := x, phase := 0 }

/-- TIME_IN_EDGE (R439): the root slews so that the edge falls on the nearest multiple of 1,000,000,000 ns; which one, at
equal distance, is open. -/
def Pkg.timeInEdge (p : Pkg) : Pkg :=
  if !p.alive || p.getF F.CLAP_STAT.STATE 0 != 3 || !p.flag F.CLAP_CFG.TIME_FOLLOW 0 || !p.flag F.GAFF_GPIO.TIME_EN 0 then p
  else
    let r := p.time % 1000000000
    let up (p : Pkg) : Pkg := p.slewTo (1000000000 - r)
    if r < 500000000 then p.slewTo (-r)
    else if r == 500000000 then
      let (x, p) := p.fresh 1
      if x == 0 then p.slewTo (-r) else up p
    else up p

/-! ### The exchange (R435, R436, R438, R441, R449) -/

/-- A request to `dst`: sender, t1, step value, HEARTBEAT (R435, R441, R449, R490). -/
def Pkg.clapAsk (p : Pkg) (dst : Nat) : Pkg :=
  p.send .clapRequest dst [p.pkgId, p.time, p.clapStep dst, p.getF F.REL_SUP.HEARTBEAT 0]

/-- Does the package exchange a heartbeat with a top lead that is not its clapper parent (R441)? -/
def Pkg.beatsTop (p : Pkg) : Bool :=
  (p.role == 1 || p.flag F.CLAP_ROLE.TOP_STBY 0) && !(p.parentPort ≤ 17 && p.topId == p.parentId) && p.topId != p.pkgId

/-- CLAP_PERIOD: the child sends its request, whatever the state of its port; a wheel lead and the top standby whose parent is
another package also send the top lead their heartbeat. -/
def Pkg.clapPeriod (p : Pkg) : Pkg :=
  if !p.alive || p.getF F.CLAP_STAT.STATE 0 == 3 || (17 < p.parentPort && !p.beatsTop) then p
  else
    let p := p.waitTill (p.lead.sentAt + p.clapNs)
    let p := p.onLead fun l => { l with sentAt := p.time }
    let p := if 17 < p.parentPort then p
      else
        let p := p.onLead fun l => { l with t1 := some p.time, missed := if l.t1.isSome then l.missed + 1 else 0 }
        p.clapAsk p.parentId
    if p.beatsTop then
      let p := p.onLead fun l => { l with top1 := true, topMissed := if l.top1 then l.topMissed + 1 else 0 }
      p.clapAsk p.topId
    else p

/-- CLAP_REQUEST_RECEIVE: stamped t2, answered at t3, taken as a heartbeat. -/
def Pkg.clapRequest (p : Pkg) (src t1 step beat : Nat) : Pkg :=
  if !p.alive then p
  else
    let kid : Child := match tfind p.lead.kids src with
      | some c =>
        if c.beat == beat then { c with seen := p.time, step := step } else ⟨p.time, step, beat, p.time, false⟩
      | none => ⟨p.time, step, beat, p.time, false⟩
    let p := p.onLead fun l => { l with kids := tins l.kids src kid }
    p.send .clapReply src [p.pkgId, t1, p.time, p.time]

/-- A clapper time moved by a step of the clapper. -/
def shiftTime (th : Int) (t : Nat) : Nat := ((t : Int) + th).toNat

/-- The clapper steps by `th` before ready for job (R436); what is counted from a clapper time keeps its length. -/
def Pkg.stepTime (p : Pkg) (th : Int) : Pkg :=
  let f := shiftTime th
  { p with
    time := f p.time
    boot := { p.boot with t0 := p.boot.t0 + th, winStart := f p.boot.winStart }
    lead := { p.lead with
      sentAt := f p.lead.sentAt, holdAt := f p.lead.holdAt, beatAt := f p.lead.beatAt
      kids := p.lead.kids.map fun c => (c.1, { c.2 with seen := f c.2.seen, beatAt := f c.2.beatAt }) }
    vats := p.vats.map fun v => (v.1, { v.2 with since := f v.2.since })
    pow := { p.pow with since := p.pow.since.map f }
    net := { p.net with ports := p.net.ports.map fun x => (x.1, { x.2 with refill := f x.2.refill }) }
    pchs := p.pchs.map fun x =>
      let g (r : MemReq) : MemReq := { r with since := f r.since }
      (x.1, { x.2 with refill := f x.2.refill, q := x.2.q.map g, held := x.2.held.map g }) }

/-- CLAP_REPLY_RECEIVE: the first exchange before ready for job sets the clapper; after it the child slews, and one in
HOLDOVER, or with a new parent under R442, locks again. -/
def Pkg.clapReply (p : Pkg) (src t1 t2 t3 : Nat) : Pkg :=
  if !p.alive then p
  else
    let p := if src == p.topId then p.onLead fun l => { l with top1 := false, topMissed := 0 } else p
    let st := p.getF F.CLAP_STAT.STATE 0
    if st == 3 || src != p.parentId || p.lead.t1 != some t1 then p
    else
      let out : Int := (t2 : Int) - t1
      let back : Int := (p.time : Int) - t3
      let th := halfEven (out - back)
      let dl := halfEven ((p.time : Int) - t1 - ((t3 : Int) - t2))
      let p := p.setF F.CLAP_STAT.OFFSET 0 (ofSigned 16 (max (-32768) (min 32767 th)))
      let p := p.setF F.CLAP_STAT.DELAY 0 (min 65535 dl.toNat)
      let p := if st == 2 || (st == 1 && p.lead.newPar) then p.clapEvent 0x4031 else p
      let p := p.onLead fun l => { l with t1 := none, missed := 0, newPar := false }
      let p := p.setF F.CLAP_STAT.STATE 0 1
      if st == 0 && p.getF F.CFG_BOOT.PHASE 0 != 8 then p.stepTime th else p.slewTo th

/-- CLAP_HOLDOVER: MISS requests without a reply. -/
def Pkg.clapHoldover (p : Pkg) : Pkg :=
  if !p.alive || p.getF F.CLAP_STAT.STATE 0 != 1 || p.lead.missed < p.missMax then p
  else
    let p := (p.setF F.CLAP_STAT.STATE 0 2).clapEvent 0x4030
    p.onLead fun l => { l with holdAt := p.time, slew := 0 }

/-! ### Takeovers (R442, R443) -/

/-- A new parent after a takeover (R438, R442): the child slews only, and its first reply is logged. -/
def Pkg.reparent (p : Pkg) (port : Nat) : Pkg := (p.newParent port).onLead fun l => { l with newPar := true }

/-- The port toward a package of the own wheel, none for the own package (R391). -/
def Pkg.wheelPort (p : Pkg) (id : Nat) : Nat := if id == p.pkgId then 0x1F else portTo p.pkgId id

/-- The epoch raised by a takeover. -/
def Pkg.raiseEpoch (p : Pkg) : Pkg := p.addF F.CLAP_ROLE.EPOCH 0 1

/-- The standby becomes wheel lead. -/
def Pkg.wheelTakeover (p : Pkg) : Pkg :=
  let old := p.leadId
  let p := ((p.raiseEpoch.setF F.CLAP_ROLE.ROLE 0 1).setF F.CLAP_ROLE.LEAD_ID 0 p.pkgId).reparent (p.getF F.CLAP_CFG.STBY_PORT 0)
  let p := p.onLead fun l => { l with leadEpoch := p.getF F.CLAP_ROLE.EPOCH 0 }
  let p := p.roleEvent 0x4033 old
  let own := p.pkgId
  let ids := (List.range 16).map fun i => own / 16 * 16 + i
  let p := (ids.filter (· != own)).foldl (fun p i => p.send .takeover i [own, p.getF F.CLAP_ROLE.EPOCH 0, 0]) p
  p.send .lossReport p.topId [old]

/-- The top standby becomes top lead and root; destination 4,097 stands for every wheel lead. -/
def Pkg.topTakeover (p : Pkg) : Pkg :=
  let old := p.topId
  let p := (p.raiseEpoch.setF F.CLAP_ROLE.ROLE 0 2).setF F.CLAP_ROLE.TOP_ID 0 p.pkgId
  let p := (p.newParent 0x1F).setF F.CLAP_STAT.STATE 0 3
  let p := p.onLead fun l => { l with slew := 0, top1 := false, topMissed := 0, topEpoch := p.getF F.CLAP_ROLE.EPOCH 0 }
  (p.roleEvent 0x4033 (4096 + old)).send .takeover 4097 [p.pkgId, p.getF F.CLAP_ROLE.EPOCH 0, 1]

/-- A former lead becomes crew (R443); a former root's clapper runs free in HOLDOVER (R438). -/
def Pkg.becomeCrew (p : Pkg) : Pkg :=
  let was := p.isTop
  let p := (p.setF F.CLAP_ROLE.ROLE 0 0).reparent (p.wheelPort p.leadId)
  if was then (p.setF F.CLAP_STAT.STATE 0 2).onLead fun l => { l with holdAt := p.time, slew := 0 } else p

/-- The top role is another package's, by a message of epoch `epoch` (R443). -/
def Pkg.followTop (p : Pkg) (src epoch : Nat) : Pkg :=
  let was := p.isTop
  let p := (p.setF F.CLAP_ROLE.EPOCH 0 (max epoch (p.getF F.CLAP_ROLE.EPOCH 0))).setF F.CLAP_ROLE.TOP_ID 0 src
  let p := p.onLead fun l => { l with topEpoch := epoch }
  if was then p.becomeCrew else p

/-- TAKEOVER_RECEIVE (R443): followed when its epoch is above that of the takeover that gave the role's present lead, so that
takeovers of both roles with one epoch are both followed (DESIGN CHOICE, log entry 136); a former lead becomes crew. -/
def Pkg.takeoverReceive (p : Pkg) (src epoch : Nat) (top : Bool) : Pkg :=
  if !p.fwOn then p
  else if top then
    if epoch ≤ p.lead.topEpoch || src == p.pkgId then p else p.followTop src epoch
  else
    let own := src / 16 == p.pkgId / 16
    if src == p.pkgId || (if own then decide (epoch ≤ p.lead.leadEpoch) else decide (epoch ≤ p.getF F.CLAP_ROLE.EPOCH 0)) then p
    else
      let p := p.setF F.CLAP_ROLE.EPOCH 0 (max epoch (p.getF F.CLAP_ROLE.EPOCH 0))
      if !own then p
      else
        let p := (p.setF F.CLAP_ROLE.LEAD_ID 0 src).onLead fun l => { l with leadEpoch := epoch }
        p.becomeCrew

/-- LEADERLESS (R443): crew that hears of no takeover within 2 × MISS periods of losing its lead. -/
def Pkg.leaderless (p : Pkg) : Pkg :=
  if !p.fwOn || p.role != 0 || p.getF F.CLAP_STAT.STATE 0 != 2 || p.lead.leaderless ||
      (p.lead.newPar && p.lead.missed < p.missMax) then p
  else
    let p := p.waitTill (p.lead.holdAt + 2 * p.missMax * p.clapNs)
    (p.roleEvent 0x4034 0).onLead fun l => { l with leaderless := true }

/-! ### Supervision of firmware (R487–R490) -/

/-- An event of supervision (R491). -/
def Pkg.supEvent (p : Pkg) (code detail : Nat) : Pkg := p.event code 0 0x34 false 0 0 detail

/-- FW_HEARTBEAT (R487, R490): firmware raises HEARTBEAT and restarts the supervisor timer. -/
def Pkg.fwHeartbeat (p : Pkg) : Pkg :=
  if !p.fwOn then p
  else
    let p := p.waitTill (p.lead.beatAt + 1000000)
    let p := p.setF F.REL_SUP.HEARTBEAT 0 (p.getF F.REL_SUP.HEARTBEAT 0 + 1)
    p.onLead fun l => { l with beatAt := p.time }

/-- The management processor restarts, or a second restart in the window stops the package (R488, R489). -/
def Pkg.mpRestart (p : Pkg) (why : Nat) : Pkg :=
  let n := p.getF F.REL_SUP.RESTARTS_WIN 0
  let p := p.addF F.REL_STAT.MP_RESTARTS 0 1
  if n != 0 && p.time ≤ p.boot.winStart + max 1 (p.getF F.REL_CFG.SUP_WINDOW_S 0) * 1000000000 then
    let p := (p.addF F.REL_SUP.RESTARTS_WIN 0 1).supEvent 0x4046 (4 + why)
    (p.supEvent 0x4048 1).assertFault
  else
    let p := { p with boot := { p.boot with winStart := p.time, restarting := true } }
    (p.setF F.REL_SUP.RESTARTS_WIN 0 1).supEvent 0x4046 why

/-- SUP_TIMER_EXPIRE (R487). -/
def Pkg.supExpire (p : Pkg) : Pkg :=
  if !p.fwOn then p else (p.waitTill (p.lead.beatAt + p.supMs * 1000000)).mpRestart 0

/-- MP_MEMORY_UE (R466, R487): an error in the processor's memories; one of a single bit is corrected and counted, another restarts
the processor. -/
def Pkg.mpMemoryUe (p : Pkg) (single : Bool) : Pkg :=
  if !p.fwOn then p else if single then p.addF F.REL_STAT.MP_CE 0 1 else p.mpRestart 1

end Sys2Proof.Machine
end

