-- ==== Sys2Proof/Machine/Cont.lean ====
section
/-! DEFINITION. Membership orders: what each package does with them (R444, R445, R448–R455, R472, R473, R481). -/
namespace Sys2Proof.Machine

/-! ### The continuity map (R444) -/

/-- Replica of a package. -/
def Pkg.replicaOf (p : Pkg) (id : Nat) : Option Nat := (tfind p.boot.map id).map fun w => fld w 7 0

/-- Set of a package. -/
def Pkg.setOf (p : Pkg) (id : Nat) : Nat := fld (tget 0 p.boot.map id) 19 8

/-- The packages of a replica. -/
def Pkg.packagesOf (p : Pkg) (r : Nat) : List Nat := (p.boot.map.filter fun x => fld x.2 7 0 == r).map (·.1)

/-- The replicas of the map. -/
def Pkg.replicas (p : Pkg) : List Nat := dedup (p.boot.map.map fun x => fld x.2 7 0)

/-- The replicas in the rings at step `s`. -/
def Pkg.activeAt (p : Pkg) (s : Nat) : List Nat := p.replicas.filter fun r => !(p.outAt s).contains r

/-- A step above every step. -/
def lastStep : Nat := 2 ^ 64

/-- The own replica, where the map holds an entry for the package. -/
def Pkg.ownReplica (p : Pkg) : Option Nat :=
  if p.flag F.CLAP_CONT_SELF.VALID 0 then some (p.getF F.CLAP_CONT_SELF.REPLICA 0) else none

/-! ### Replica rings (R444) -/

/-- The collective groups that are replica rings. -/
def Pkg.rings (p : Pkg) : List Nat := (List.range 64).filter (bitOf (p.reg .CLAP_CONT_RGRP 0).toNat ·)

/-- The director of a group, as a physical core. -/
def Pkg.dirOf (p : Pkg) (g : Nat) : Nat := p.getF F.COLL_GRP_CFG.DIRECTOR g

/-- The bits of a ring's mask that stand for replica `r`. -/
def Pkg.ringBits (p : Pkg) (g r : Nat) : Nat :=
  (List.range (p.getF F.COLL_GRP_CFG.NM1 g + 1)).foldl
    (fun a pos => if p.replicaOf (p.member g pos) == some r then a + 2 ^ pos else a) 0

/-- The mask of a group written. -/
def Pkg.setMask (p : Pkg) (g m : Nat) : Pkg :=
  let w (i : Nat) : Word := BitVec.ofNat 64 (m / 2 ^ (64 * i))
  (((p.setReg .COLL_GRP_ACTIVE0 g (w 0)).setReg .COLL_GRP_ACTIVE1 g (w 1)).setReg .COLL_GRP_ACTIVE2 g (w 2)).setReg
    .COLL_GRP_ACTIVE3 g (w 3)

/-- Are two orders one, whatever was done of them? -/
def Order.same (a b : Order) : Bool := { a with logged := false, done := [] } == ({ b with logged := false, done := [] } : Order)

/-- An order's effect on the mask of ring `g`, once. -/
def Pkg.ringOrder (p : Pkg) (o : Order) (g : Nat) : Pkg :=
  let p := { p with orders := p.orders.map fun x => if x.same o then { x with done := x.done ++ [g] } else x }
  let m := p.collMask g
  let b := p.ringBits g o.replica
  match o.kind with
  | .expel => p.setMask g (m - (m &&& b))
  | .sitout => p.setMask g (m - (m &&& b))
  | .rejoin => p.setMask g (m ||| b)
  | .stop => p

/-- The open call of ring `g` aborts when its latched mask has replica `r` active (R451). -/
def Pkg.ringAbort (p : Pkg) (m : Memory) (r g : Nat) : Pkg :=
  match (p.collGrp g).call with
  | some c => if c.mask &&& p.ringBits g r != 0 then p.abortOpen m g 1 p.pkgId else p
  | none => p

/-! ### The own package out of the rings (R450–R452, R481, R485) -/

/-- Is the order one that halts the own cores? -/
def Pkg.hits (p : Pkg) (o : Order) : Bool :=
  match o.kind with
  | .stop => true
  | .rejoin => false
  | _ => p.ownReplica == some o.replica

/-- An order begins to apply here: code 0x4037 once, STATE, the vats to scan. -/
def Pkg.orderBegins (p : Pkg) (o : Order) : Pkg :=
  if !(p.orders.any fun x => x.same o && !x.logged) then p
  else
    let p := { p with orders := p.orders.map fun x => if x.same o then { x with logged := true } else x }
    let own := p.ownReplica == some o.replica
    let out (p : Pkg) (bit st : Nat) : Pkg :=
      let p := p.roleEvent 0x4037 (bit + b2n o.imm * 256 + o.replica % 256)
      if !own then p
      else
        let named := o.pairs.filter fun x => x.1 == p.pkgId
        let scan := if o.kind == .expel && !named.isEmpty then 16 else 0
        let p := p.onLead fun l =>
          { l with told := false, join := none, donate := [], scans := named.foldl (fun a x => a ||| x.2) scan }
        let p := if p.isTop then p
          else
            let p := p.addF F.CLAP_CONT_STAT.OUTS 0 1
            if named.isEmpty || o.kind != .expel then p else p.addF F.CLAP_CONT_STAT.DISAGREE 0 1
        p.setF F.CLAP_CONT_STATE.STATE 0 st
    match o.kind with
    | .expel => out p 0 2
    | .sitout => out p 512 1
    | .rejoin => p
    | .stop => p.setF F.CLAP_CONT_STATE.STATE 0 4

/-- A core that asks for a swap, carries a logical core and has a spare in its vat (R481). -/
def Pkg.nextSwap (p : Pkg) : Option Nat :=
  ((p.cores.map (·.1)).filter fun k => p.flag F.CORE_FAULT.SWAP_WANTED k && !isDirKey k).findSome? fun k =>
    if (p.lowestSpare (k / 128)).isSome then p.logicalOf k else none

/-- The blocks of caves that hold uncorrectable granules (R472). -/
def Pkg.badCave (p : Pkg) : List Nat :=
  dedup ((((p.flaws.map (·.1)).filter fun u => p.decode u == .lost).map fun u => blockOf (8 * u)).filter p.inCave)

/-- While the own replica is out and every core has halted: the vat resets and scans that were named, the swaps that cores ask for, and,
with every vat READY or one HELD after its scan, the report to the top lead. -/
def Pkg.whenOut (p : Pkg) (m : Memory) : Pkg :=
  let st := p.getF F.CLAP_CONT_STATE.STATE 0
  let vs := (List.range 4).filter p.hasVat
  if !p.fwOn || (st != 1 && st != 2) || p.anyRun || p.lead.told || p.swap.isSome then p
  else if p.lead.scans != 0 then
    (p.onLead fun l => { l with scans := 0 }).vatResetRequest m (p.lead.scans % 16) 2 (bitOf p.lead.scans 4)
  else match p.nextSwap with
    | some l => p.swapRequest 0x7F l
    | none =>
      let tell (ws : List Nat) : Pkg := (p.onLead fun l => { l with told := true }).send .vatsReady p.topId (p.pkgId :: ws)
      if vs.any fun v => (p.vat v).st == .held then tell [0]
      else if vs.all fun v => (p.vat v).st == .ready then tell (1 :: p.badCave)
      else p

/-! ### The donor (R453, R454, R472) -/

/-- The entries of the rejoin list as base and length; none where one breaks the rules of R454. -/
def Pkg.rejoinList (p : Pkg) (m : Memory) : Option (List (Nat × Nat)) :=
  let a := p.getF F.CLAP_CONT_RLIST.ADDR 0 * 4096
  let n := p.getF F.CLAP_CONT_RLIST.COUNT 0
  if n == 0 then some []
  else if !p.userRange a (16 * n) then none
  else
    let g := m.fetch p 6 a (16 * n)
    let es := (List.range n).map fun i => (leAt g.bytes (16 * i) 8, leAt g.bytes (16 * i + 8) 8)
    if g.bad || es.any fun e => !alignedTo 4096 e.1 || 2 ^ 48 ≤ e.1 || !alignedTo 4096 e.2 ||
        (e.2 != 0 && (!p.userRange e.1 e.2 || p.touchesCave e.1 e.2)) then none
    else some es

/-- The donor's state and copy sent: SEQ_NEXT of every group and the loss watch, then each block with its rind, a block that
is read bad with the invalid mark (R470); a list that breaks the rules sends an empty copy message. -/
def Pkg.donorSend (p : Pkg) (m : Memory) (x : Donation) : Pkg :=
  let seq (g : Nat) : Nat := match x.seqs.find? fun s => s.1 == g with
    | some s => s.2
    | none => p.getF F.COLL_GRP_STATE.SEQ_NEXT g
  let p := p.send .rejoinState x.taker ([p.pkgId, x.step, (p.reg .NUM_LOSS_STATE 0).toNat, p.getF F.NUM_LOSS_STAT.SAMPLES 0] ++
    (List.range 64).map seq)
  match p.rejoinList m with
  | none => p.send .rejoinBlock x.taker []
  | some es =>
    let bs := (es.map fun e => unitsOf 4096 e.1 e.2).flatten ++ x.blocks
    bs.foldl (fun p a =>
      let bs := m.view p a 4096
      let r := if p.badRange a 4096 || p.rindBad a then invalidMark (rindOf bs) else (Dev.mk m p).rind a
      let p := (p.send .rejoinBlock x.taker [a, r, ofLe bs]).noteRead 6 a 4096
      (((Dev.mk m p).badDelivery 6 a 4096 1).noteRind 6 a 1).pkg) p

/-- A donation moves on: its copy is sent when no core is below J; it is over when no core is below J + 1. -/
def Pkg.donateStep (p : Pkg) (m : Memory) (x : Donation) : Pkg :=
  let below (s : Nat) : Bool := p.running.any fun k => p.stepNo k < s
  let go := !x.sent && !below x.step
  let p := if go then p.donorSend m x else p
  if below (x.step + 1) || p.running.isEmpty then
    p.onLead fun l => { l with donate := l.donate ++ [{ x with sent := x.sent || go }] }
  else p

/-- The words of a core's scale table. -/
def Core.sctWords (c : Core) : List Nat :=
  ((List.range 256).map fun t => (List.range 10).map fun w => (c.ent t).word w).flatten

/-- The donor's acts at the boundary of core `k` into step `t`. -/
def Pkg.donateAt (p : Pkg) (m : Memory) (k t : Nat) : Pkg :=
  let xs := p.lead.donate
  let p := p.onLead fun l => { l with donate := [] }
  xs.foldl (fun p x =>
    let gs := if t == x.step && isDirKey k then (List.range 64).filter (p.dirOf · == k) else []
    let x := { x with seqs := x.seqs ++ gs.map fun g => (g, p.getF F.COLL_GRP_STATE.SEQ_NEXT g) }
    let p := if t == x.step + 1 then
        p.send .rejoinTable x.taker (p.pkgId :: (p.logicalOf k).getD k :: (p.core k).sctWords)
      else p
    p.donateStep m x) p

/-! ### Taking an order (R448, R451, R453) -/

/-- The orders that the rings of director `k` have passed at step `t` change their masks, in the order of their steps (R448). -/
def Pkg.passOrders (p : Pkg) (k t : Nat) : Pkg :=
  let gs := p.rings.filter fun g => p.dirOf g == k
  (p.byStep t).foldl (fun p o => (gs.filter fun g => !o.done.contains g).foldl (·.ringOrder o ·) p) p

/-- A rejoin order at a package it names: the job's cores are loaded with STEP_BASE = J at their rejoin entry, 0xFFFFFFFF
standing for the header's own. Orders that took effect at or below J are in the masks of the loaded directors (R448). -/
def Dev.rejoinLoad (d : Dev) (j donor : Nat) : Dev :=
  let ls := d.pkg.sec.loads
  let fix (a : Nat) (h : PHdr) : PHdr :=
    let e := match ls.find? fun x => x.2.1 == a with
      | some x => x.2.2
      | none => 0xFFFFFFFF
    { h with step := j, entry := if e == 0xFFFFFFFF then h.entry else e }
  let d := (d.loadBinary 0 (ls.map (·.2.1)) fix).2
  let p := d.pkg.onLead fun l => { l with join := some ⟨j, donor, false, false⟩, told := true }
  let p := ((ls.map (·.1)).filter fun id => isDirIdx (id % 128)).foldl (·.passOrders · j) p
  { d with pkg := p.setF F.CLAP_CONT_STATE.STATE 0 3 }

/-- The step of an order that follows no check, without MARGIN (R449): the highest STEP_NO that the package knows. -/
def Pkg.knownStep (p : Pkg) : Nat := max p.highStep (maxOf (p.lead.kids.map (·.2.step)))

/-- The step from which an immediate order is in force here. -/
def Pkg.presentStep (p : Pkg) : Nat := if p.anyRun then p.lowStep else p.knownStep

/-- The cores loaded at a rejoin that wait IDLE at their step for its copy (R453). -/
def Pkg.waitingCores (p : Pkg) : List Nat :=
  match p.lead.join with
  | some j => if j.started then [] else ((p.sec.loads.map (·.1)).filter p.startable).filterMap p.physOf
  | none => []

/-- An order that halts the package reaches cores that wait at a rejoin: they stay halted, and the rejoin is over. -/
def Pkg.haltWaiting (p : Pkg) (ks : List Nat) : Pkg :=
  let p := ks.foldl (fun p k => p.onCore k fun c => { c with st := .halt, halt := 3 }) p
  if ks.isEmpty then p else p.onLead fun l => { l with join := none }

/-- A membership order taken: at once what is immediate or late, the rest at the step boundaries. A core that waits at a
rejoin stands at its step (R448, R453). An immediate order ends a rejoin of its replica that was ordered before (R451, R454). -/
def Dev.orderTake (d : Dev) (o : Order) : Dev :=
  let o := { o with logged := false, done := [], step := if o.imm then d.pkg.presentStep else o.step }
  let before := if o.imm then d.pkg.orders.filter fun x => !(x.kind == .rejoin && x.replica == o.replica && o.step < x.step)
    else d.pkg.orders
  let p := { d.pkg with orders := before ++ [o] }
  let idle := p.waitingCores
  let passed (k : Nat) : Bool := ((p.core k).st == .run || idle.contains k) && o.step ≤ p.stepNo k
  let now (k : Nat) : Bool := o.imm || passed k
  let hit := p.hits o
  let late := !o.imm && (p.running ++ idle).any fun k => passed k && (hit || isDirKey k)
  let p := if o.imm then p.rings.foldl (fun p g => p.ringAbort d.mem o.replica g) p else p
  let p := (p.rings.filter fun g => now (p.dirOf g)).foldl (·.ringOrder o ·) p
  let p := if hit then ((p.running.filter now).foldl (·.haltCore · 3) p).haltWaiting (idle.filter now) else p
  let p := if late then p.roleEvent 0x403A 0 else p
  let p := if o.imm || late || (p.running ++ idle).isEmpty then p.orderBegins o else p
  let d : Dev := { d with pkg := p }
  let d := if o.kind != .rejoin then d
    else
      let me := p.pkgId
      let xs := o.pairs.filter (·.2 == me)
      let d : Dev := { d with pkg := xs.foldl (fun p x =>
        p.donateStep d.mem ⟨o.step, x.1, [], (o.blocks.filter (·.1 == x.1)).map (·.2), false⟩) d.pkg }
      match o.pairs.find? (·.1 == me) with
      | some x => d.rejoinLoad o.step x.2
      | none => d
  { d with pkg := d.pkg.whenOut d.mem }

/-- The orders whose step is core `k`'s new step `t` (R448, R450, R455). -/
def Pkg.ordersAt (p : Pkg) (k t : Nat) : Pkg :=
  ((p.passOrders k t).orders.filter fun o => !o.imm && o.step == t).foldl (fun p o =>
    let p := p.orderBegins o
    if p.hits o then p.haltCore k 3 else p) (p.passOrders k t)

/-! ### Issuing orders (R448, R449, R455) -/

def OrdKind.code : OrdKind → Nat
  | .expel => 0 | .sitout => 1 | .rejoin => 2 | .stop => 3

/-- An order issued: sent to every package (destination 4,096) and applied here. -/
def Dev.issue (d : Dev) (kind : OrdKind) (r step : Nat) (imm : Bool) (pairs blocks : List (Nat × Nat)) : Dev :=
  let p := d.pkg.send .order 4096 ([d.pkg.pkgId, d.pkg.getF F.CLAP_ROLE.EPOCH 0, kind.code, r, step, b2n imm, pairs.length] ++
    (pairs.map fun x => [x.1, x.2]).flatten ++ (blocks.map fun x => [x.1, x.2]).flatten)
  let p := if kind == .expel || kind == .sitout then p.addF F.CLAP_CONT_STAT.OUTS 0 1 else p
  Dev.orderTake { d with pkg := p } ⟨kind, r, step, imm, pairs, blocks, false, []⟩

/-- MARGIN (CLAP_CONT_CFG). -/
def Pkg.margin (p : Pkg) : Nat := max 1 (p.getF F.CLAP_CONT_CFG.MARGIN 0)

/-- The step of an order that follows no check (R449). -/
def Pkg.orderStep (p : Pkg) : Nat := p.knownStep + p.margin

/-- A stop order with step `e` (R455), logged as code 0x4039 and reported to the host; without a `why`, DETAIL is not
stated. -/
def Dev.stop (d : Dev) (e : Nat) (why : Option Nat) : Dev :=
  if d.pkg.orders.any (·.kind == .stop) then d
  else
    let (x, p) : Nat × Pkg := match why with
      | some x => (x, d.pkg)
      | none => d.pkg.fresh 1
    let p := (p.roleEvent 0x4039 x).send .jobStop 0 [e]
    Dev.issue { d with pkg := p } .stop 0 e false [] []

/-- An immediate order that puts a replica out (R451): a rejoin of it under way ends. -/
def Dev.outNow (d : Dev) (kind : OrdKind) (r : Nat) : Dev :=
  let p := d.pkg.onLead fun l =>
    { l with rejoins := l.rejoins.filter (·.replica != r), ready := l.ready.filter fun x => d.pkg.replicaOf x.1 != some r }
  Dev.issue { d with pkg := p } kind r 0 true [] []

/-- Is the replica out, now and by every order issued? -/
def Pkg.isOut (p : Pkg) (r : Nat) : Bool :=
  (p.outAt lastStep).contains r && (p.outAt p.knownStep).contains r

/-! ### Rejoin orders (R453, R473) -/

/-- The rejoin of a replica all of whose packages reported READY; the donors are of the lowest-numbered active replica that is
past its own rejoin step. -/
def Dev.rejoinIfReady (d : Dev) (r : Nat) : Dev :=
  let p := d.pkg
  let ids := p.packagesOf r
  let j := p.orderStep
  let act := (p.activeAt lastStep).filter fun x => x != r && !(p.lead.rejoins.any fun y => y.replica == x && j ≤ y.step)
  if !(p.outAt lastStep).contains r || p.lead.dead.contains r || ids.any (fun i => !p.lead.ready.any (·.1 == i)) then d
  else match act with
    | [] => d
    | x :: t =>
      let low := t.foldl min x
      let pairs := ids.filterMap fun i =>
        ((p.packagesOf low).find? fun q => p.setOf q == p.setOf i).map fun q => (i, q)
      let blocks := ((p.lead.ready.filter fun y => ids.contains y.1).map fun y => y.2.map fun b => (y.1, b)).flatten
      let p := p.onLead fun l =>
        { l with rejoins := l.rejoins ++ [⟨r, j, pairs.map (·.2)⟩], ready := l.ready.filter fun y => !ids.contains y.1 }
      Dev.issue { d with pkg := p } .rejoin r j false pairs blocks

/-- A rejoin under way is abandoned (R454): code 0x403C, and the replica is out until it is ordered again. -/
def Dev.abandonRejoin (d : Dev) (r : Nat) : Dev :=
  Dev.outNow { d with pkg := d.pkg.roleEvent 0x403C (r % 256) } .sitout r

/-- A package is lost (R441, R451, R454, R480): the rejoins it takes part in are abandoned, its replica is expelled for the
rest of the job. -/
def Dev.lose (d : Dev) (id : Nat) : Dev :=
  match d.pkg.replicaOf id with
  | none => d
  | some r =>
    let xs := d.pkg.lead.rejoins.filter fun x => x.replica == r || x.donors.contains id
    let d := xs.foldl (fun d x => d.abandonRejoin x.replica) d
    if d.pkg.lead.dead.contains r then d
    else
      let d : Dev := { d with pkg := d.pkg.onLead fun l => { l with dead := l.dead ++ [r] } }
      d.outNow .expel r

end Sys2Proof.Machine
end

