-- ==== Sys2Proof/Machine/ContCheck.lean ====
section
/-! DEFINITION. Lost packages, continuity checks, orders received, rejoin messages and reports to the leads
(R441–R455, R472–R477, R485, R490). -/
namespace Sys2Proof.Machine

/-! ### Lost packages and takeovers (R441, R442, R490) -/

/-- A child is declared lost: logged, a lost standby noted, the loss handled or reported. -/
def Dev.childLost (d : Dev) (id : Nat) : Dev :=
  let p := d.pkg.onLead fun l => { l with kids := match tfind l.kids id with
    | some c => tins l.kids id { c with lost := true }
    | none => l.kids }
  let p := p.roleEvent 0x4032 id
  let c := p.getF F.CLAP_ROLE_CFG.STANDBY_ID 0
  let p := if p.leadId == p.pkgId && c == id && c != p.pkgId then p.roleEvent 0x4033 (8192 + id) else p
  if p.isTop then Dev.lose { d with pkg := p } id else { d with pkg := p.send .lossReport p.topId [id] }

/-- PKG_LOST (R441): no request from a child for MISS periods. -/
def Dev.pkgLost (d : Dev) (id : Nat) : Dev :=
  match tfind d.pkg.lead.kids id with
  | some c =>
    if !d.pkg.fwOn || c.lost then d
    else Dev.childLost { d with pkg := d.pkg.waitTill (c.seen + d.pkg.missMax * d.pkg.clapNs) } id
  | none => d

/-- FW_STALLED (R490): a child's HEARTBEAT stands for FW_MISS_MS. -/
def Dev.fwStalled (d : Dev) (id : Nat) : Dev :=
  match tfind d.pkg.lead.kids id with
  | some c =>
    if !d.pkg.fwOn || c.lost then d
    else
      let p := d.pkg.waitTill (c.beatAt + max 100 (d.pkg.getF F.REL_CFG.FW_MISS_MS 0) * 1000000)
      Dev.childLost { d with pkg := p.supEvent 0x4047 id } id
  | none => d

/-- LOSS_REPORT_RECEIVE (R441). -/
def Dev.lossReport (d : Dev) (id : Nat) : Dev := if d.pkg.fwOn && d.pkg.isTop then d.lose id else d

/-- LEAD_TAKEOVER (R442, R443): the wheel role, or with `top` the top role, passes to this standby. -/
def Dev.leadTakeover (d : Dev) (top : Bool) : Dev :=
  let p := d.pkg
  if !p.fwOn then d
  else if top then
    if !p.flag F.CLAP_ROLE.TOP_STBY 0 || p.isTop ||
        (if p.topId == p.parentId then p.lead.missed else p.lead.topMissed) < p.missMax then d
    else Dev.lose { d with pkg := p.topTakeover } p.topId
  else if !p.flag F.CLAP_ROLE.STANDBY 0 || p.role != 0 || p.leadId == p.pkgId || p.lead.missed < p.missMax then d
  else { d with pkg := p.wheelTakeover }

/-! ### The continuity check (R446, R447) -/

/-- K (CLAP_CONT_CFG). -/
def Pkg.checkK (p : Pkg) : Nat := max 1 (min 64 (p.getF F.CLAP_CONT_CFG.K 0))

/-- The earliest check step whose digest combination was not started: the first one from the step at which the package's
cores began to run, or after the last one started. -/
def Pkg.nextCheck (p : Pkg) : Nat :=
  let s := match p.lead.last with
    | some x => x + 1
    | none => p.lead.first
  (s + (p.checkK - 1)) / p.checkK * p.checkK

/-- CONT_CHECK_START (R446): every core in RUN is past the next check step, and the digest combination for it starts. -/
def Pkg.checkStart (p : Pkg) : Pkg :=
  let s := p.nextCheck
  if !p.fwOn || !p.anyRun || p.lowStep ≤ s || !p.flag F.PRESS_DIG_CTL.DONE 0 then p
  else
    let p := (p.setReg .PRESS_DIG_STEP 0 (BitVec.ofNat 64 s)).digestGo
    p.onLead fun l => { l with own := some s, last := some s }

/-- The words of a check report (R446). -/
def ContRep.words (r : ContRep) (s : Nat) : List Nat :=
  [r.pkg * 2 ^ 52 + b2n r.incomplete * 2 ^ 51, s, r.low, r.ce, r.ci] ++ r.vce

/-- The package's report of check step `s`. -/
def Pkg.ownReport (p : Pkg) : ContRep :=
  ⟨p.pkgId, p.flag F.PRESS_DIG_CTL.INCOMPLETE 0, p.lowStep, (p.reg .PRESS_DIG_CE 0).toNat, (p.reg .PRESS_DIG_CI 0).toNat,
    (List.range 4).map fun v => if p.hasVat v then (p.reg .PRESS_VDIG_CE v).toNat else 0⟩

/-- Firmware sends the report whose digests are combined to the wheel lead. -/
def Pkg.reportDue (p : Pkg) : Pkg :=
  match p.lead.own with
  | none => p
  | some s =>
    if !p.fwOn || p.dig.isSome then p
    else
      let p := p.onLead fun l => { l with own := none }
      let p := if p.isTop then p else p.addF F.CLAP_CONT_STAT.CHECKS 0 1
      p.send .contReport p.leadId (p.ownReport.words s)

/-- DIGEST_DONE (R343, R446): the digests are set, and the report they were combined for leaves. -/
def Pkg.digestDoneReport (p : Pkg) : Pkg := p.digestDone.reportDue

/-- A report placed among the open checks, in the order of their steps. -/
def checkInsert (s now : Nat) (r : ContRep) : List Check → List Check
  | [] => [⟨s, now, [r]⟩]
  | c :: t =>
    if c.step == s then { c with reps := c.reps.filter (·.pkg != r.pkg) ++ [r] } :: t
    else if s < c.step then ⟨s, now, [r]⟩ :: c :: t
    else c :: checkInsert s now r t

/-- CONT_REPORT_RECEIVE (R446): the wheel lead forwards its wheel's reports, the top lead keeps them. -/
def Pkg.reportReceive (p : Pkg) (s : Nat) (r : ContRep) : Pkg :=
  if !p.fwOn || p.role == 0 then p
  else
    let p := if r.incomplete && r.pkg / 16 == p.pkgId / 16 then p.roleEvent 0x403B 0 else p
    if !p.isTop then p.send .contReport p.topId (r.words s)
    else
      let late : Bool := match p.lead.decided with
        | some x => decide (s ≤ x)
        | none => false
      if late then p else p.onLead fun l => { l with checks := checkInsert s p.time r l.checks }

/-- A package's place in a check. -/
structure Vote where
  pkg : Nat
  replica : Nat
  set : Nat
  rep : Option ContRep
  deriving DecidableEq, Repr

/-- The packages whose replicas were active at the check's step, with their reports. -/
def Pkg.votes (p : Pkg) (c : Check) : List Vote :=
  let out := p.outAt c.step
  (p.boot.map.map fun x => (⟨x.1, fld x.2 7 0, fld x.2 19 8, c.reps.find? (·.pkg == x.1)⟩ : Vote)).filter
    fun v => !out.contains v.replica

/-- Do two reports carry the same digest? -/
def ContRep.same (a b : ContRep) : Bool := a.ce == b.ce && a.ci == b.ci

/-- The report with the digest that more than half of a set's packages hold. -/
def majority (vs : List Vote) : Option ContRep :=
  let rs := vs.filterMap (·.rep)
  rs.find? fun r => vs.length < 2 * (rs.filter r.same).length

/-- Is the report there and equal to the majority's? -/
def Vote.agrees (v : Vote) (m : Option ContRep) : Bool :=
  match v.rep, m with
  | some r, some x => r.same x
  | _, _ => false

/-- The vats whose digest differs from the majority's. -/
def ContRep.vats (r x : ContRep) : Nat :=
  (List.range 4).foldl (fun a v => if r.vce.getD v 0 == x.vce.getD v 0 then a else a + 2 ^ v) 0

/-- A differing package with its vats: none for a missing report or an agreeing one. -/
def Vote.vats (v : Vote) (m : Option ContRep) : Option (Nat × Nat) :=
  match v.rep, m with
  | some r, some x => if r.same x then none else some (v.pkg, r.vats x)
  | _, _ => none

/-- The rejoined replicas among `ok` agreed (R453): code 0x4038. -/
def Pkg.rejoined (p : Pkg) (s : Nat) (ok : List Nat) : Pkg :=
  let xs := p.lead.rejoins.filter fun x => x.step ≤ s && ok.contains x.replica
  let p := xs.foldl (fun p x => (p.roleEvent 0x4038 (x.replica % 256)).addF F.CLAP_CONT_STAT.REJOINS 0 1) p
  p.onLead fun l => { l with rejoins := l.rejoins.filter fun x => !xs.contains x }

/-- The decision of a check (R447). -/
def Dev.decideCheck (d : Dev) (c : Check) : Dev :=
  let p := d.pkg.onLead fun l => { l with checks := l.checks.filter (c.step < ·.step), decided := some c.step }
  let p := p.addF F.CLAP_CONT_STAT.CHECKS 0 1
  let vs := p.votes c
  let act := dedup (vs.map (·.replica))
  if act.length ≤ 1 then { d with pkg := p }
  else
    let sets := (dedup (vs.map (·.set))).map fun s => (s, majority (vs.filter (·.set == s)))
    let maj (v : Vote) : Option ContRep := match sets.find? (·.1 == v.set) with
      | some x => x.2
      | none => none
    let off := vs.filter fun v => !v.agrees (maj v)
    let e := maxOf (c.reps.map (·.low)) + p.margin
    let p := (off.filter (·.rep.isNone)).foldl (fun p v => p.roleEvent 0x4036 v.pkg) p
    let p := p.addF F.CLAP_CONT_STAT.DISAGREE 0 off.length
    if off.isEmpty then { d with pkg := (p.setReg .CLAP_CONT_LAST 0 (BitVec.ofNat 64 c.step)).rejoined c.step act }
    else if act.length == 2 then Dev.stop { d with pkg := p } e (some 0)
    else if sets.any (·.2.isNone) then Dev.stop { d with pkg := p } e (some 1)
    else
      let named := off.filterMap fun v => v.vats (maj v)
      let p := named.foldl (fun p x => p.roleEvent 0x4035 (x.2 * 4096 + x.1)) p
      let bad := dedup (off.map (·.replica))
      let p := p.rejoined c.step (act.filter (!bad.contains ·))
      let p := p.onLead fun l => { l with rejoins := l.rejoins.filter (!bad.contains ·.replica) }
      bad.foldl (fun d r => d.issue .expel r e false (named.filter fun x => p.replicaOf x.1 == some r) []) { d with pkg := p }

/-- CONT_DECIDE: every report of the oldest check is in. -/
def Dev.contDecide (d : Dev) : Dev :=
  match d.pkg.lead.checks with
  | c :: _ => if d.pkg.fwOn && d.pkg.isTop && (d.pkg.votes c).all (·.rep.isSome) then d.decideCheck c else d
  | [] => d

/-- CONT_DEADLINE: DEADLINE_MS after the first report. -/
def Dev.contDeadline (d : Dev) : Dev :=
  match d.pkg.lead.checks with
  | c :: _ =>
    if !d.pkg.fwOn || !d.pkg.isTop then d
    else
      let t := c.first + max 1 (d.pkg.getF F.CLAP_CONT_CFG.DEADLINE_MS 0) * 1000000
      Dev.decideCheck { d with pkg := d.pkg.waitTill t } c
  | [] => d

/-! ### Orders (R443, R448) -/

/-- ORDER_RECEIVE: taken from the top lead, or from the lead of a higher epoch. -/
def Dev.orderReceive (d : Dev) (src epoch : Nat) (o : Order) : Dev :=
  let p := d.pkg
  if !p.fwOn || (src != p.topId && epoch ≤ p.lead.topEpoch) then d
  else
    let p := if src == p.topId then p.setF F.CLAP_ROLE.EPOCH 0 (max epoch (p.getF F.CLAP_ROLE.EPOCH 0)) else p.followTop src epoch
    Dev.orderTake { d with pkg := p } o

/-- SITOUT_REQUEST (R452): the top lead orders the package's replica out; `vats` of the package are then to be reset, with
`scan` through a scan. -/
def Dev.sitoutRequest (d : Dev) (id vats : Nat) (scan : Bool) : Dev :=
  match d.pkg.replicaOf id with
  | some r =>
    if !d.pkg.fwOn || !d.pkg.isTop || (d.pkg.outAt lastStep).contains r then d
    else
      let p := d.pkg.onLead fun l => { l with ready := l.ready.filter fun x => d.pkg.replicaOf x.1 != some r }
      let pairs := if vats == 0 then [] else [(id, vats + 16 * b2n scan)]
      Dev.issue { d with pkg := p } .sitout r p.orderStep false pairs []
  | none => d

/-- SWAP_WANTED_REPORT (R83, R481): the wheel lead asks for a sit-out, unless the vat has no spare. -/
def Pkg.swapWanted (p : Pkg) (id : Nat) (spare : Bool) : Pkg :=
  if !p.fwOn || p.role == 0 || !spare then p else p.send .sitout p.topId [id, 0, 0]

/-- VAT_RESET_REPORT (R451, R473): an immediate sit-out, and a stop where a containment reset leaves no donor. A package
of a replica that is out has to report READY again (R452). -/
def Dev.vatResetReport (d : Dev) (id cause : Nat) : Dev :=
  match d.pkg.replicaOf id with
  | some r =>
    let p := d.pkg
    if !p.fwOn || !p.isTop || !(cause == 1 || cause == 3 || cause == 4 || cause == 5) then d
    else if p.isOut r then { d with pkg := p.onLead fun l => { l with ready := l.ready.filter (·.1 != id) } }
    else
      let d := d.outNow .sitout r
      if cause == 3 && (d.pkg.activeAt lastStep).isEmpty then d.stop d.pkg.orderStep none else d
  | none => d

/-- VATS_READY_REPORT (R452, R450, R485): a package of a replica that is out has every vat READY, or one HELD after its
scan; once all have reported, the rejoin is ordered. A report from a replica whose rejoin is under way abandons it. -/
def Dev.vatsReady (d : Dev) (id : Nat) (ok : Bool) (blocks : List Nat) : Dev :=
  match d.pkg.replicaOf id with
  | some r =>
    let p := d.pkg
    if !p.fwOn || !p.isTop || p.lead.dead.contains r then d
    else if !ok then
      let p := (p.roleEvent 0x4037 (r % 256)).onLead fun l => { l with dead := l.dead ++ [r] }
      { d with pkg := p }
    else
      let d := if p.lead.rejoins.any (·.replica == r) then d.outNow .sitout r else d
      let p := d.pkg.onLead fun l => { l with ready := l.ready.filter (·.1 != id) ++ [(id, blocks)] }
      Dev.rejoinIfReady { d with pkg := p } r
  | none => d

/-! ### The rejoining package (R453, R454, R472) -/

/-- REJOIN_STATE_RECEIVE: SEQ_NEXT of the groups and the loss-watch state from the donor's hub. -/
def Pkg.rejoinState (p : Pkg) (src step loss samples : Nat) (seqs : List Nat) : Pkg :=
  match p.lead.join with
  | some j =>
    if !p.fwOn || j.donor != src || j.step != step || j.ready then p
    else
      let p := (seqs.take 64).zipIdx.foldl (fun p x => p.setF F.COLL_GRP_STATE.SEQ_NEXT x.2 x.1) p
      let p := (p.lossStateWrite loss).lossSamplesWrite samples
      p.onLead fun l => { l with join := some { j with ready := true } }
  | none => p

/-- REJOIN_COPY_DONE: the donor's blocks are written with their rinds and every loaded core starts; `ok` false says that the
donor's list broke the rules, and the rejoin is abandoned. -/
def Dev.rejoinCopy (d : Dev) (ok : Bool) (blocks : List XBlk) : Dev :=
  match d.pkg.lead.join with
  | some j =>
    if !d.pkg.fwOn || !j.ready || j.started then d
    else if !ok then
      let p := d.pkg.onLead fun l => { l with join := none, told := false }
      let p := (p.roleEvent 0x403C (p.ownReplica.getD 0 % 256)).setF F.CLAP_CONT_STATE.STATE 0 1
      { d with pkg := p.whenOut d.mem }
    else
      let d := blocks.foldl (fun d x => if x.data.length == 4096 then (d.xfWrite j.donor 0 0 true x).2 else d) d
      let ids := (d.pkg.sec.loads.map (·.1)).filter d.pkg.startable
      let p := ids.foldl (·.startCore ·) (d.pkg.startFrom ids)
      { d with pkg := p.onLead fun l => { l with join := some { j with started := true } } }
  | none => d

/-- The rejoin is complete here once no core is held at, or below, its boundary into J + 1. -/
def Pkg.joinDone (p : Pkg) : Pkg :=
  match p.lead.join with
  | some j =>
    let stays (k : Nat) : Bool := p.stepNo k ≤ j.step || (match (p.core k).fe.hold with
      | .rejoin _ => true
      | _ => false)
    if !j.started || p.running.isEmpty || p.running.any stays then p
    else
      let p := if p.isTop then p else p.addF F.CLAP_CONT_STAT.REJOINS 0 1
      (p.onLead fun l => { l with join := none }).setF F.CLAP_CONT_STATE.STATE 0 0
  | none => p

/-- CORE_SCT_DATA_WRITE (R292, R453): the word is taken; the last one of a core held at its rejoin boundary releases it. -/
def Pkg.sctDataWrite (p : Pkg) (k tid w v : Nat) : Pkg := (p.sctWrite k tid w v).joinDone

/-! ### Watchdog halts and consumed poison (R476, R477) -/

/-- WDOG_HALT_REPORT (R477): collected in the open window; one that comes when none is open begins a new window, unless it
comes after a decision and the replica is already out. -/
def Pkg.wdogHalt (p : Pkg) (id core : Nat) : Pkg :=
  let out : Bool := match p.replicaOf id with
    | some r => p.isOut r
    | none => false
  if !p.fwOn || !p.isTop || (p.lead.wdog.isNone && p.lead.wdogged && out) then p
  else
    let x := p.lead.wdog.getD (p.time, [])
    p.onLead fun l => { l with wdog := some (x.1, x.2 ++ [(id, core)]) }

/-- WDOG_HOLD_EXPIRE (R477): the vats that hold the halted cores of one replica with a partner are reset with cause 0x5;
else the job stops. -/
def Dev.wdogExpire (d : Dev) : Dev :=
  match d.pkg.lead.wdog with
  | none => d
  | some (first, hs) =>
    let p := d.pkg
    if !p.fwOn || !p.isTop then d
    else
      let p := p.waitTill (first + max 1 (p.getF F.REL_CFG.WDOG_HOLD_MS 0) * 1000000)
      let p := p.onLead fun l => { l with wdog := none, wdogged := true }
      let rs := hs.map fun h => p.replicaOf h.1
      match rs.headD none with
      | some r =>
        if rs.all (· == some r) && (p.activeAt lastStep).any (· != r) then
          let p := p.supEvent 0x4045 (r % 256)
          let ids := dedup (hs.map (·.1))
          let mask (i : Nat) : Nat := (dedup ((hs.filter (·.1 == i)).map (·.2 / 128))).foldl (fun a v => a + 2 ^ v) 0
          { d with pkg := ids.foldl (fun p i =>
            if i == p.pkgId then p.vatResetRequest d.mem (mask i) 5 false else p.send .vatReset i [mask i, 5]) p }
        else halt { d with pkg := p }
      | none => halt { d with pkg := p }
where
  /-- The stop of R477; which replica DETAIL names is not stated. -/
  halt (d : Dev) : Dev :=
    let (x, p) := d.pkg.fresh 8
    Dev.stop { d with pkg := p.supEvent 0x4045 (4096 + x) } p.orderStep none

/-- POISON_REPORT_RECEIVE (R476): the first report stops the job. -/
def Dev.poisonReport (d : Dev) (id : Nat) : Dev :=
  if !d.pkg.fwOn || !d.pkg.isTop || d.pkg.lead.poisoned then d
  else
    let p := (d.pkg.event 0x4042 0 0x33 false 0 0 id).onLead fun l => { l with poisoned := true }
    Dev.stop { d with pkg := p } p.orderStep none

/-! ### Duties of firmware (R488) -/

/-- Firmware does a duty. -/
def Dev.perform (d : Dev) : Duty → Dev
  | .takeover src epoch top => { d with pkg := d.pkg.takeoverReceive src epoch top }
  | .contReport s r => { d with pkg := d.pkg.reportReceive s r }
  | .order src epoch o => d.orderReceive src epoch o
  | .sitout id vats scan => d.sitoutRequest id vats scan
  | .swapWanted id spare => { d with pkg := d.pkg.swapWanted id spare }
  | .loss id => d.lossReport id
  | .vatReset id cause => d.vatResetReport id cause
  | .vatsReady id ok bs => d.vatsReady id ok bs
  | .wdogHalt id core => { d with pkg := d.pkg.wdogHalt id core }
  | .poison id => d.poisonReport id
  | .rejoinState src step loss samples seqs => { d with pkg := d.pkg.rejoinState src step loss samples seqs }
  | .rejoinCopy ok bs => d.rejoinCopy ok bs
  | .forwarded src f lost ws => { d with pkg := d.pkg.forwardReceive src f lost ws }

/-- A duty arrives: done at once, or held while the processor restarts. -/
def Dev.duty (d : Dev) (x : Duty) : Dev :=
  if d.pkg.boot.restarting then { d with pkg := { d.pkg with boot := { d.pkg.boot with held := d.pkg.boot.held ++ [x] } } }
  else d.perform x

/-- Where a restart takes firmware from: 1 the copy in vat 0's working space, 2 the image that boot selected in the flash, when the
copy's SHA-256 differs from the boot measurement. -/
def Dev.fwSource (d : Dev) : Nat :=
  let n := (d.pkg.flash.imgBody (d.pkg.boot.image.getD 0)).length
  if measure (d.mem.view d.pkg 0x0F000000 n) == d.pkg.sec.fwMeas then 1 else 2

/-- MP_RESTART_DONE (R488): firmware runs again, and what was held is done: the check report, the duties in their order of arrival,
the package's report to the top lead, the reserved commands at the front of the queue. -/
def Dev.mpRestartDone (d : Dev) : Dev :=
  let b := d.pkg.boot
  if !d.pkg.alive || !b.restarting then d
  else
    let p := { d.pkg with
      boot := { b with restarting := false, held := [], source := d.fwSource }, lead := { d.pkg.lead with beatAt := d.pkg.time } }
    let d := b.held.foldl Dev.perform { d with pkg := p.reportDue }
    { d with pkg := (d.pkg.whenOut d.mem).flushed }

end Sys2Proof.Machine
end

