-- ==== Sys2Proof/Machine/Steps.lean ====
section
/-! DEFINITION. Step boundaries with the actions that other chapters hang on them, and the events after which a replica
that is out goes on with its maintenance (R85, R182, R291, R448–R453, R481, R485). -/
namespace Sys2Proof.Machine

/-- Does a pending swap of this core start at its boundary (R85)? -/
def Pkg.swapAt (p : Pkg) (k : Nat) : Bool :=
  match p.swap with
  | some w => !w.running && p.physOf w.logical == some k
  | none => false

/-- What holds dispatch after the boundary into step `t`: a rejoining core's wait for its scale table (R453), the point of
a pending swap (R85), or nothing. -/
def Pkg.afterBoundary (p : Pkg) (k t : Nat) : Hold :=
  let joins := match p.lead.join with
    | some j => j.started && t == j.step + 1
    | none => false
  if joins then .rejoin 0 else if p.swapAt k then .boundary else .free

/-- STEP_BOUNDARY (R182): the drained core raises STEP_NO, and the step-boundary actions run. -/
def Pkg.stepBoundary (p : Pkg) (m : Memory) (k : Nat) (err : SramErr) : Pkg :=
  let c := p.core k
  match c.fe.hold with
  | .step slate =>
    if c.st != .run || !c.drained then p
    else p.sramRead m k 1 slate 6 err fun p =>
      let p := p.stepCore k slate
      let t := p.stepNo k
      let p := (p.ordersAt k t).donateAt m k t
      let h := p.afterBoundary k t
      let p := p.onCore k fun c => if c.st == .run then { c with fe := { c.fe with hold := h } } else c
      (p.whenOut m).joinDone
  | _ => p

/-- PROGRAM_END (R184), after which a package that is out may be at rest. -/
def Pkg.programEnds (p : Pkg) (m : Memory) (k : Nat) : Pkg := (p.programEnd k).whenOut m

/-- VAT_SCAN_DONE. -/
def Pkg.scanEnds (p : Pkg) (m : Memory) (v : Nat) (fails : List Nat) (unit dur : Nat) : Pkg :=
  (p.scanDone v fails unit dur).whenOut m

/-- VAT_BOOT_DONE. -/
def Dev.bootEnds (d : Dev) (v : Nat) (relock : Bool) (low : List (Nat × Nat)) : Dev :=
  let d := d.bootDone v relock low
  { d with pkg := d.pkg.whenOut d.mem }

/-- CORE_SWAP_DONE. -/
def Pkg.swapEnds (p : Pkg) (m : Memory) : Pkg := p.swapDone.whenOut m

/-- CX_BLOCK_ARRIVE (R422, R423): while a rejoin awaits the donor's state, the blocks of replica rings wait at their
senders for want of credit (R453). -/
def Dev.cxBlock (d : Dev) (src core no g seq digest count : Nat) (x : XBlk) (err : SramErr) : Dev :=
  let waits : Bool := match d.pkg.lead.join with
    | some j => !j.ready && d.pkg.rings.contains g
    | none => false
  if waits then d else d.cxArrive src core no g seq digest count x err

/-! ### Power (R543, R544, R551) and the TAP (R555) -/

/-- The package without power: only fuses, flash and permanent repairs keep what they hold, and THERMTRIP_N while VIN is not removed
(R551). -/
def Pkg.unpowered (p : Pkg) (on : Bool) : Pkg :=
  let pins := { p.pins with supply := on, pwrgd := on, resetN := false, faultN := false, thermtrip := p.pins.thermtrip && p.pins.supply && on, jtag := 0, tdr := 0 }
  let pchs := (p.pchs.map fun x => (x.1, x.2.kept)).filter fun x => x.2 != Pch.init
  ({ Pkg.blank pins p.fuse p.flash with free := p.free, tx := p.tx, pchs := pchs }).showLanes

/-- POWER_UP: supplies in limits and PWRGD high, RESET_N held low. -/
def Dev.powerUp (d : Dev) : Dev := if d.pkg.pins.supply && d.pkg.pins.pwrgd then d else ⟨[], d.pkg.unpowered true⟩

/-- POWER_DOWN: the supplies are removed, and THERMTRIP_N is released. -/
def Dev.powerDown (d : Dev) : Dev := ⟨[], d.pkg.unpowered false⟩

/-- PWRGD_FALL: acts as an assertion of RESET_N. -/
def Dev.pwrgdFall (d : Dev) : Dev :=
  let d := d.resetAssert
  { d with pkg := { d.pkg with pins := { d.pkg.pins with pwrgd := false } } }

/-- JTAG_INSTRUCTION: 1 BYPASS, 2 IDCODE, 3 SAMPLE/PRELOAD, 4 EXTEST, 5 CLAMP while RESET_N is low; what the other data
registers capture is not stated. -/
def Pkg.jtagInstruction (p : Pkg) (code : Nat) : Pkg :=
  if p.pins.resetN || !p.pins.supply || code == 0 || 5 < code then p
  else if code == 2 then { p with pins := { p.pins with jtag := code, tdr := 0x14160A9F } }
  else
    let (x, p) := p.fresh 64
    { p with pins := { p.pins with jtag := code, tdr := x } }

end Sys2Proof.Machine
end

