-- ==== Sys2Proof/Machine/Run.lean ====
section
/-! DEFINITION. From a command to the outcome of a step: where it acts, and the forms of an operand. A command at a unit
that the package does not have reaches nothing and changes nothing (DESIGN CHOICE, log entry 2). -/
namespace Sys2Proof.Machine

/-- The outcome of a step. -/
abbrev Out := Host.Outcome State Fault Refusal

/-- The package changed; memory and queue stay. -/
def onPkg (s : State) (f : Memory → Pkg → Pkg) : Out := .next { s with pkg := f s.mem s.pkg }

/-- Memory and package changed; the queue stays. -/
def onDev (s : State) (f : Dev → Dev) : Out :=
  let d := f ⟨s.mem, s.pkg⟩
  .next { s with mem := d.mem, pkg := d.pkg }

/-- A package that does not act changes nothing. -/
def onLive (s : State) (f : Memory → Pkg → Pkg) : Out := if s.pkg.alive then onPkg s f else .next s

def onLiveDev (s : State) (f : Dev → Dev) : Out := if s.pkg.alive then onDev s f else .next s

/-- An act of running firmware. -/
def onFirmware (s : State) (f : Memory → Pkg → Pkg) : Out := if s.pkg.fwOn then onPkg s f else .next s

/-- A command at a logical core or director core, carried by a physical one. -/
def atCore (id : BitVec 9) (s : State) (f : Memory → Nat → Pkg → Pkg) : Out :=
  if !s.pkg.isCore id.toNat then .next s
  else match s.pkg.physOf id.toNat with
    | some k => onLive s fun m p => f m k p
    | none => .next s

def atCoreDev (id : BitVec 9) (s : State) (f : Nat → Dev → Dev) : Out :=
  if !s.pkg.isCore id.toNat then .next s
  else match s.pkg.physOf id.toNat with
    | some k => onLiveDev s fun d => f k d
    | none => .next s

/-- A command at a physical core. -/
def atPhys (id : BitVec 9) (s : State) (f : Memory → Nat → Pkg → Pkg) : Out :=
  if !s.pkg.isPhys id.toNat then .next s else onLive s fun m p => f m id.toNat p

/-- A command at a vat. -/
def atVat (v : BitVec 2) (s : State) (f : Memory → Nat → Pkg → Pkg) : Out :=
  if !s.pkg.hasVat v.toNat then .next s else onLive s fun m p => f m v.toNat p

def atVatDev (v : BitVec 2) (s : State) (f : Nat → Dev → Dev) : Out :=
  if !s.pkg.hasVat v.toNat then .next s else onLiveDev s fun d => f v.toNat d

/-- A command at a stack. -/
def atStack (n : BitVec 4) (s : State) (f : Memory → Nat → Pkg → Pkg) : Out :=
  if !s.pkg.hasVat (n.toNat / 4) then .next s else onLive s fun m p => f m n.toNat p

/-- A command at a pseudo-channel, by its key 64 × stack + channel. -/
def atPch (n : BitVec 4) (c : BitVec 6) (s : State) (f : Memory → Nat → Pkg → Pkg) : Out :=
  if !s.pkg.hasVat (n.toNat / 4) then .next s else onLive s fun m p => f m (n.toNat * 64 + c.toNat) p

def atPchDev (n : BitVec 4) (c : BitVec 6) (s : State) (f : Nat → Dev → Dev) : Out :=
  if !s.pkg.hasVat (n.toNat / 4) then .next s else onLiveDev s fun d => f (n.toNat * 64 + c.toNat) d

/-- A command at a port. -/
def atPort (n : BitVec 5) (s : State) (f : Memory → Nat → Pkg → Pkg) : Out :=
  if 17 < n.toNat then .next s else onLive s fun m p => f m n.toNat p

/-- A command at a module of a die-to-die edge. -/
def atModule (e : BitVec 4) (n : BitVec 5) (s : State) (f : Memory → Nat → Nat → Pkg → Pkg) : Out :=
  if s.pkg.edgeModules e.toNat ≤ n.toNat then .next s else onLive s fun m p => f m e.toNat n.toNat p

/-! ### Forms of operands -/

/-- Pairs of words as numbers. -/
def natPairs {a b : Nat} (l : List (BitVec a × BitVec b)) : List (Nat × Nat) := l.map fun x => (x.1.toNat, x.2.toNat)

def OrdKind.ofOperand : OrderKind → OrdKind
  | .expel => .expel | .sitout => .sitout | .rejoin => .rejoin | .stop => .stop

/-- The engine of a slot number (R196). -/
def Eng.ofSlot (n : Nat) : Option Eng :=
  match n with
  | 0 => some .fe | 1 => some .ve | 2 => some .mx | 3 => some .ld | 4 => some .st | 5 => some .sy | _ => none

/-! ### Commands that touch more than one chapter's state -/

/-- NOP in a slot. -/
def Pkg.nopAt (p : Pkg) (k slot bits : Nat) : Pkg :=
  match Eng.ofSlot slot with
  | some e => p.nop k e bits
  | none => p

/-- CREDIT_RETURN of the engine that a slot number names. -/
def Pkg.creditAt (p : Pkg) (k slot : Nat) : Pkg :=
  match Eng.ofSlot slot with
  | some e => p.creditReturn k e
  | none => p

/-- FABRIC_REQUEST_ARRIVE of the engine that a slot number names. -/
def Dev.fabricAt (d : Dev) (k slot die : Nat) : Dev :=
  match Eng.ofSlot slot with
  | some e => d.fabricArrive k e die
  | none => d

/-- WDOG_FIRE of the engine that a slot number names, after which a package that is out may be at rest. -/
def Pkg.wdogAt (p : Pkg) (m : Memory) (k slot : Nat) : Pkg :=
  match Eng.ofSlot slot with
  | some e => (p.wdogFire k e).whenOut m
  | none => p

/-- REG_ACCESS: a host write may complete the scale tables of a rejoining core. -/
def Pkg.regAccessed (p : Pkg) (m : Memory) : Pkg := (p.regAccess m).joinDone

/-- HALT, after which a package that is out may be at rest. -/
def Pkg.halted (p : Pkg) (m : Memory) : Pkg := p.halt.whenOut m

/-- BRAKE_N falls or rises, or with `pin` 2 or 3 the level at MGPIO2 or MGPIO3 (log entry 158); a package that does not act only has its
pin moved. -/
def Pkg.brakeLow (p : Pkg) (low : Bool) (pin : Nat) : Pkg :=
  if pin != 0 then p.drivePin pin (!low)
  else if p.alive then (if low then p.brakeFall else p.brakeRise) else { p with pins := { p.pins with brakeLow := low } }

end Sys2Proof.Machine
end

