-- ==== Sys2Proof/Machine/ExecBoard.lean ====
section
/-! DEFINITION. Commands of the board: pins, power and temperature samples, the TAP (19). -/
namespace Sys2Proof.Machine

/-- THERMTRIP (R551). -/
def execThermtrip (die : BitVec 3) (temp : BitVec 8) (s : State) : Out :=
  onPkg s fun _ p => p.thermtrip die.toNat temp.toNat

/-- BRAKE_N_FALL (R547). -/
def execBrakeFall (s : State) (pin : BitVec 2 := 0) : Out :=
  onPkg s fun _ p => p.brakeLow true pin.toNat

/-- BRAKE_N_RISE (R547). -/
def execBrakeRise (s : State) (pin : BitVec 2 := 0) : Out :=
  onPkg s fun _ p => p.brakeLow false pin.toNat

/-- TIME_IN_EDGE (R439). -/
def execTimeInEdge (s : State) : Out :=
  onPkg s fun _ p => (p.drivePin 2 true).timeInEdge

/-- GAFFER_SAMPLE (R547). -/
def execGafferSample (watts : BitVec 16) (s : State) : Out :=
  onLive s fun _ p => p.gafferSample watts.toNat

/-- TEMP_SAMPLE (R549). -/
def execTempSample (vat0 : Bytes) (vat1 : Bytes) (vat2 : Bytes) (vat3 : Bytes) (hub : Bytes) (stack : Bytes) (s : State) : Out :=
  let n (bs : Bytes) : List Nat := bs.map (·.toNat)
  onLive s fun _ p => p.tempSample [n vat0, n vat1, n vat2, n vat3] (n hub) (n stack)

/-- JTAG_INSTRUCTION (R555). -/
def execJtagInstruction (code : BitVec 3) (s : State) : Out :=
  onPkg s fun _ p => p.jtagInstruction code.toNat

end Sys2Proof.Machine
end

