-- ==== Sys2Proof/Machine/ExecBoot.lean ====
section
/-! DEFINITION. Commands of power, reset and boot (18, 19). -/
namespace Sys2Proof.Machine

/-- PWRGD_FALL (R544). -/
def execPwrgdFall (s : State) : Out :=
  onDev s fun d => d.pwrgdFall

/-- RESET_N_ASSERT (R36). -/
def execResetAssert (s : State) : Out :=
  onDev s fun d => d.resetAssert

/-- RESET_N_RELEASE (R535). -/
def execResetRelease (bootId : BitVec 24) (prog : Option FlashProg) (s : State) (fuse : Option FuseProg := none) : Out :=
  onPkg s fun _ p => p.resetRelease bootId.toNat prog fuse

/-- FIRMWARE_START (R527). -/
def execFirmwareStart (lib0 : BitVec 32) (lib1 : BitVec 32) (s : State) : Out :=
  onLive s fun _ p => p.firmwareStart lib0.toNat lib1.toNat

/-- DIES_TRAINED (R46). -/
def execDiesTrained (caps : BitVec 64) (low : List (BitVec 4 × BitVec 8)) (s : State) : Out :=
  onLive s fun _ p => p.diesTrained caps.toNat (natPairs low)

/-- BOOT_TEST_DONE (R80). -/
def execBootTestDone (failed : List (BitVec 9)) (s : State) : Out :=
  onLive s fun _ p => p.bootTestDone (failed.map (·.toNat))

/-- MEMORY_CLEAR_DONE (R353). -/
def execMemoryClearDone (s : State) : Out :=
  onLiveDev s fun d => d.memoryClear

/-- LINK_TRAINING_START (R535). -/
def execLinkTrainingStart (s : State) : Out :=
  onLive s fun _ p => p.linksStart

/-- PORT_TRAIN_DONE (R388). -/
def execPortTrainDone (port : BitVec 5) (pid : BitVec 12) (pport : BitVec 5) (popt : Bool) (rates : BitVec 4)
    (rx : BitVec 5) (tx : BitVec 5) (s : State) (ver : BitVec 8 := 0) : Out :=
  atPort port s fun _ n p => p.portTrained n pid.toNat pport.toNat popt rates.toNat ver.toNat rx.toNat tx.toNat

/-- PORT_NO_PARTNER (R389). -/
def execPortNoPartner (port : BitVec 5) (s : State) : Out :=
  atPort port s fun _ n p => p.portAlone n

/-- BOOT_READY (R537). -/
def execBootReady (s : State) : Out :=
  onLive s fun _ p => p.bootReady

/-- CLOCK_LATE (R538). -/
def execClockLate (s : State) : Out :=
  onLive s fun _ p => p.clockLate

/-- POWER_UP (R543). -/
def execPowerUp (s : State) : Out :=
  onDev s fun d => d.powerUp

/-- POWER_DOWN (R551). -/
def execPowerDown (s : State) : Out :=
  onDev s fun d => d.powerDown

end Sys2Proof.Machine
end

