-- ==== Sys2Proof/Machine/ExecCalls.lean ====
section
/-! DEFINITION. Commands of collective calls (13). -/
namespace Sys2Proof.Machine

/-- CALL_REGISTER (R416). -/
def execCallRegister (core : BitVec 9) (s : State) : Out :=
  atCore core s fun m k p => p.callRegister m k

/-- COLL_ARRIVAL_RECEIVE (R431). -/
def execCollArrivalReceive (src : BitVec 12) (group : BitVec 6) (seq : BitVec 32) (digest : BitVec 64) (time :
    BitVec 64) (s : State) : Out :=
  onLive s fun m p => p.arrivalReceive m src.toNat group.toNat seq.toNat digest.toNat time.toNat

/-- COLL_ABORT_RECEIVE (R429). -/
def execCollAbortReceive (group : BitVec 6) (seq : BitVec 32) (cause : BitVec 2) (s : State) : Out :=
  onLive s fun m p => p.abortReceive m group.toNat seq.toNat cause.toNat

/-- CCLOSE_DRAINED (R417). -/
def execCcloseDrained (core : BitVec 9) (s : State) : Out :=
  atCoreDev core s fun k d => d.ccloseDrained k

end Sys2Proof.Machine
end

