-- ==== Sys2Proof/Machine/ExecDies.lean ====
section
/-! DEFINITION. Commands of the die-to-die edges, clocks, credits and vat resets (01). -/
namespace Sys2Proof.Machine

/-- D2D_FLIT_RECEIVE (R21). -/
def execD2dFlitReceive (edge : BitVec 4) (module : BitVec 5) (eend : BitVec 1) (seq : Nat) (cred : BitVec
    4) (payload : Bytes) (s : State) (flips : List (BitVec 11) := []) : Out :=
  atModule edge module s fun _ e n p => p.d2dReceive e n eend.toNat seq cred.toNat payload (flips.map (·.toNat))

/-- D2D_FLIT_ACK (R21). -/
def execD2dFlitAck (edge : BitVec 4) (module : BitVec 5) (eend : BitVec 1) (seq : Nat) (s : State) : Out :=
  atModule edge module s fun _ e n p => p.d2dAck e n eend.toNat seq

/-- D2D_REPLAY_LIMIT (R23). -/
def execD2dReplayLimit (edge : BitVec 4) (module : BitVec 5) (eend : BitVec 1) (s : State) : Out :=
  atModule edge module s fun _ e n p => p.d2dReplayLimit e n eend.toNat

/-- D2D_RETRAIN_DONE (R23). -/
def execD2dRetrainDone (edge : BitVec 4) (module : BitVec 5) (ok : Bool) (s : State) : Out :=
  atModule edge module s fun _ e n p => p.d2dRetrainDone e n ok

/-- D2D_LANE_THRESH (R24). -/
def execD2dLaneThresh (edge : BitVec 4) (module : BitVec 5) (eend : BitVec 1) (lane : BitVec 7) (s : State) :
    Out :=
  atModule edge module s fun _ e n p => p.d2dLaneThresh e n eend.toNat lane.toNat

/-- VAT_PLL_UNLOCK (R31). -/
def execVatPllUnlock (vat : BitVec 2) (s : State) : Out :=
  atVat vat s fun m v p => p.vatPllUnlock m v

/-- NR1_PLL_UNLOCK (R31). -/
def execNr1PllUnlock (s : State) : Out :=
  onLive s fun _ p => p.nr1PllUnlock

/-- HUB_SRAM_UE (R479). -/
def execHubSramUe (s : State) : Out :=
  onLive s fun _ p => p.hubSramUe

/-- CREDIT_RETURN (R32). -/
def execCreditReturn (core : BitVec 9) (engine : BitVec 3) (s : State) : Out :=
  atCore core s fun _ k p => p.creditAt k engine.toNat

/-- FABRIC_REQUEST_ARRIVE (R34). -/
def execFabricRequestArrive (core : BitVec 9) (s : State) (engine : BitVec 3 := 3) (die : BitVec 3 := 0) : Out :=
  atCoreDev core s fun k d => d.fabricAt k engine.toNat die.toNat

/-- VAT_RESET_REQUEST (R38). -/
def execVatResetRequest (vats : BitVec 4) (cause : BitVec 4) (scan : Bool) (s : State) : Out :=
  onLive s fun m p => p.vatResetRequest m vats.toNat cause.toNat scan

/-- VAT_QUIESCE_DRAINED (R38). -/
def execVatQuiesceDrained (vat : BitVec 2) (s : State) : Out :=
  atVatDev vat s fun v d => d.quiesceDrained v

/-- VAT_RESET_HOLD_END (R38). -/
def execVatResetHoldEnd (vat : BitVec 2) (s : State) : Out :=
  atVat vat s fun _ v p => p.resetHoldEnd v

/-- VAT_SCAN_DONE (R483). -/
def execVatScanDone (vat : BitVec 2) (fails : List (BitVec 7)) (unit : BitVec 4) (us : BitVec 32) (s : State) :
    Out :=
  atVat vat s fun m v p => p.scanEnds m v (fails.map (·.toNat)) unit.toNat us.toNat

/-- VAT_BOOT_DONE (R37). -/
def execVatBootDone (vat : BitVec 2) (relock : Bool) (low : List (BitVec 4 × BitVec 8)) (s : State) : Out :=
  atVatDev vat s fun v d => d.bootEnds v relock (natPairs low)

end Sys2Proof.Machine
end

