-- ==== Sys2Proof/Machine/ExecFrontEnd.lean ====
section
/-! DEFINITION. Commands of dispatch, instruction cache, refetch, fault thresholds and core swap (02, 05). -/
namespace Sys2Proof.Machine

/-- BUNDLE_DISPATCH (R55). -/
def execBundleDispatch (core : BitVec 9) (err : SramErr) (s : State) : Out :=
  atCore core s fun _ k p => p.bundleDispatch k err

/-- ICACHE_LINE_ARRIVE (R77). -/
def execIcacheLineArrive (core : BitVec 9) (ahead : Bool) (s : State) : Out :=
  atCore core s fun m k p => p.icacheArrive m k ahead

/-- BRANCH_RESOLVE (R173). -/
def execBranchResolve (core : BitVec 9) (s : State) : Out :=
  atCore core s fun _ k p => p.branchResolve k

/-- FILL_REFETCH_DONE (R76). -/
def execFillRefetchDone (core : BitVec 9) (line : BitVec 39) (s : State) : Out :=
  atCoreDev core s fun k d => d.refetch k line.toNat

/-- CORE_FAULT_THRESH (R83). -/
def execCoreFaultThresh (core : BitVec 9) (s : State) : Out :=
  atPhys core s fun _ k p => p.coreFaultThresh k

/-- CORE_CE_THRESH (R83). -/
def execCoreCeThresh (core : BitVec 9) (s : State) : Out :=
  atPhys core s fun _ k p => p.coreCeThresh k

/-- CORE_SWAP_REQUEST (R84). -/
def execCoreSwapRequest (spare : BitVec 7) (logical : BitVec 9) (s : State) : Out :=
  onLive s fun _ p => p.swapRequest spare.toNat logical.toNat

/-- CORE_SWAP_START (R85). -/
def execCoreSwapStart (s : State) (err : SramErr := .none) : Out :=
  onLive s fun m p => p.swapStartRead m err

/-- CORE_SWAP_DONE (R88). -/
def execCoreSwapDone (s : State) : Out :=
  onLive s fun m p => p.swapEnds m

/-- NOP (R163). -/
def execNop (core : BitVec 9) (slot : BitVec 3) (bits : BitVec 96) (s : State) : Out :=
  atCore core s fun _ k p => p.nopAt k slot.toNat bits.toNat

end Sys2Proof.Machine
end

