-- ==== Sys2Proof/Machine/ExecHost.lean ====
section
/-! DEFINITION. Commands of the host interface, the guest die and firmware's register access (17, 20). -/
namespace Sys2Proof.Machine

/-- ETH_LINK_UP (R493). -/
def execEthLinkUp (port : BitVec 1) (modes : BitVec 3) (s : State) : Out :=
  onLive s fun _ p => p.linkUp port.toNat modes.toNat

/-- ETH_LINK_DOWN (R493). -/
def execEthLinkDown (port : BitVec 1) (s : State) : Out :=
  onLive s fun _ p => p.linkDown port.toNat

/-- ETH_FRAME_RECEIVE (R494). -/
def execEthFrameReceive (port : BitVec 1) (uncorr : BitVec 8) (frame : Bytes) (s : State) : Out :=
  onLive s fun _ p => p.frameReceive port.toNat uncorr.toNat frame

/-- VCT_COMMAND_ARRIVE (R498). -/
def execVctCommandArrive (port : BitVec 1) (v6 : Bool) (ip : BitVec 128) (udp : BitVec 16) (datagram : Bytes) (s
    : State) (mac : BitVec 48 := 0) : Out :=
  onLive s fun _ p => p.vctArrive port.toNat v6 ip.toNat udp.toNat mac.toNat datagram

/-- DISCOVER (R503). -/
def execDiscover (s : State) : Out :=
  onLive s fun _ p => p.discover

/-- GET_CERT (R503). -/
def execGetCert (s : State) : Out :=
  onLive s fun _ p => p.getCert

/-- ATTEST (R514). -/
def execAttest (salt : BitVec 256) (s : State) : Out :=
  onLive s fun _ p => p.attest salt.toNat

/-- KEY_INSTALL (R512). -/
def execKeyInstall (flashFails : Bool) (s : State) : Out :=
  onLive s fun _ p => p.keyInstall flashFails

/-- REG_ACCESS (R504). -/
def execRegAccess (s : State) : Out :=
  onLive s fun m p => p.regAccessed m

/-- MEM_READ (R505). -/
def execMemRead (s : State) : Out :=
  onLiveDev s fun d => d.memRead

/-- MEM_WRITE (R505). -/
def execMemWrite (s : State) : Out :=
  onLiveDev s fun d => d.memWrite

/-- LOAD (R188). -/
def execLoad (s : State) : Out :=
  onLiveDev s fun d => d.load

/-- START (R506). -/
def execStart (s : State) : Out :=
  onLive s fun _ p => p.start

/-- HALT (R506). -/
def execHalt (s : State) : Out :=
  onLive s fun m p => p.halted m

/-- SUBSCRIBE (R502). -/
def execSubscribe (s : State) : Out :=
  onLive s fun _ p => p.subscribe

/-- FLASH_WRITE (R508). -/
def execFlashWrite (flashFails : Bool) (s : State) : Out :=
  onLive s fun _ p => p.flashWrite flashFails

/-- SVN_COMMIT (R513). -/
def execSvnCommit (s : State) : Out :=
  onLive s fun _ p => p.svnCommit

/-- NOTICE_SEND (R502). -/
def execNoticeSend (s : State) : Out :=
  onLive s fun _ p => p.noticeSend

/-- FORWARDED_RECORD_RECEIVE (R502). -/
def execForwardedRecordReceive (src : BitVec 12) (fifo : BitVec 2) (lost : BitVec 32) (words : List (BitVec 64))
    (s : State) : Out :=
  onLiveDev s fun d => d.duty (.forwarded src.toNat fifo.toNat lost.toNat words)

/-- GUEST_ACCESS (R516). -/
def execGuestAccess (write : Bool) (addr : BitVec 48) (n : BitVec 13) (data : Bytes) (s : State) : Out :=
  onLiveDev s fun d => d.guestAccess write addr.toNat n.toNat data

/-- GUEST_FRAME (R516). -/
def execGuestFrame (port : BitVec 5) (s : State) : Out :=
  onLive s fun _ p => p.guestFrame port.toNat

/-- LOG_FIFO_DATA_READ (R568). -/
def execLogFifoDataRead (fifo : BitVec 2) (s : State) (late : Nat := 0) : Out :=
  onFirmware s fun _ p => p.logRead fifo.toNat late

/-- GAFF_GPIO_WRITE (R556). -/
def execGaffGpioWrite (value : BitVec 64) (s : State) : Out :=
  onLive s fun _ p => p.gpioWrite value.toNat

/-- REGISTER_WRITE (R560). -/
def execRegisterWrite (offset : BitVec 24) (value : BitVec 64) (s : State) (host : Bool := false) : Out :=
  onFirmware s fun m p => (p.registerWrite m offset.toNat value.toNat host).joinDone

/-- RC_FIELD_READ (R11). -/
def execRcFieldRead (offset : BitVec 24) (s : State) : Out :=
  onFirmware s fun _ p => p.rcRead offset.toNat

end Sys2Proof.Machine
end

