-- ==== Sys2Proof/Machine/ExecMachine.lean ====
section
/-! DEFINITION. Commands of the clapper, the leads and supervision (14, 16). -/
namespace Sys2Proof.Machine

/-- CLAP_PERIOD (R435). -/
def execClapPeriod (s : State) : Out :=
  onLive s fun _ p => p.clapPeriod

/-- CLAP_REQUEST_RECEIVE (R435). -/
def execClapRequestReceive (src : BitVec 12) (t1 : BitVec 64) (step : BitVec 64) (beat : BitVec 32) (s : State)
    : Out :=
  onLive s fun _ p => p.clapRequest src.toNat t1.toNat step.toNat beat.toNat

/-- CLAP_REPLY_RECEIVE (R436). -/
def execClapReplyReceive (src : BitVec 12) (t1 : BitVec 64) (t2 : BitVec 64) (t3 : BitVec 64) (s : State) : Out
    :=
  onLive s fun _ p => p.clapReply src.toNat t1.toNat t2.toNat t3.toNat

/-- CLAP_HOLDOVER (R438). -/
def execClapHoldover (s : State) : Out :=
  onLive s fun _ p => p.clapHoldover

/-- PKG_LOST (R441). -/
def execPkgLost (pkg : BitVec 12) (s : State) : Out :=
  onLiveDev s fun d => d.pkgLost pkg.toNat

/-- LEAD_TAKEOVER (R442). -/
def execLeadTakeover (top : Bool) (s : State) : Out :=
  onLiveDev s fun d => d.leadTakeover top

/-- TAKEOVER_RECEIVE (R443). -/
def execTakeoverReceive (src : BitVec 12) (epoch : BitVec 16) (top : Bool) (s : State) : Out :=
  onLiveDev s fun d => d.duty (.takeover src.toNat epoch.toNat top)

/-- LEADERLESS (R443). -/
def execLeaderless (s : State) : Out :=
  onLive s fun _ p => p.leaderless

/-- FW_HEARTBEAT (R490). -/
def execFwHeartbeat (s : State) : Out :=
  onLive s fun _ p => p.fwHeartbeat

/-- FW_STALLED (R490). -/
def execFwStalled (pkg : BitVec 12) (s : State) : Out :=
  onLiveDev s fun d => d.fwStalled pkg.toNat

/-- CONT_CHECK_START (R446). -/
def execContCheckStart (s : State) : Out :=
  onLive s fun _ p => p.checkStart

/-- CONT_REPORT_RECEIVE (R446). -/
def execContReportReceive (step : BitVec 64) (pkg : BitVec 12) (incomplete : Bool) (low : BitVec 64) (ce :
    BitVec 64) (ci : BitVec 64) (v0 : BitVec 64) (v1 : BitVec 64) (v2 : BitVec 64) (v3 : BitVec 64) (s : State) :
    Out :=
  onLiveDev s fun d => d.duty (.contReport step.toNat ⟨pkg.toNat, incomplete, low.toNat, ce.toNat, ci.toNat, [v0.toNat,
    v1.toNat, v2.toNat, v3.toNat]⟩)

/-- CONT_DECIDE (R447). -/
def execContDecide (s : State) : Out :=
  onLiveDev s fun d => d.contDecide

/-- CONT_DEADLINE (R447). -/
def execContDeadline (s : State) : Out :=
  onLiveDev s fun d => d.contDeadline

/-- ORDER_RECEIVE (R448). -/
def execOrderReceive (src : BitVec 12) (epoch : BitVec 16) (kind : OrderKind) (replica : BitVec 8) (immediate :
    Bool) (step : BitVec 64) (pairs : List (BitVec 12 × BitVec 12)) (blocks : List (BitVec 12 × BitVec 48)) (s :
    State) : Out :=
  onLiveDev s fun d => d.duty (.order src.toNat epoch.toNat ⟨OrdKind.ofOperand kind, replica.toNat, step.toNat,
    immediate, natPairs pairs, natPairs blocks, false, []⟩)

/-- SITOUT_REQUEST (R452). -/
def execSitoutRequest (pkg : BitVec 12) (s : State) (vats : BitVec 4 := 0) (scan : Bool := false) : Out :=
  onLiveDev s fun d => d.duty (.sitout pkg.toNat vats.toNat scan)

/-- REJOIN_STATE_RECEIVE (R453). -/
def execRejoinStateReceive (src : BitVec 12) (step : BitVec 64) (loss : BitVec 64) (samples : BitVec 8) (seqs :
    List (BitVec 32)) (s : State) : Out :=
  onLiveDev s fun d => d.duty (.rejoinState src.toNat step.toNat loss.toNat samples.toNat (seqs.map (·.toNat)))

/-- REJOIN_COPY_DONE (R453). -/
def execRejoinCopyDone (ok : Bool) (blocks : List (BitVec 48 × BitVec 32 × Bytes)) (s : State) : Out :=
  onLiveDev s fun d => d.duty (.rejoinCopy ok (blocks.map fun x => ⟨x.1.toNat, x.2.1.toNat, x.2.2⟩))

/-- WDOG_HALT_REPORT (R477). -/
def execWdogHaltReport (pkg : BitVec 12) (core : BitVec 9) (s : State) : Out :=
  onLiveDev s fun d => d.duty (.wdogHalt pkg.toNat core.toNat)

/-- WDOG_HOLD_EXPIRE (R477). -/
def execWdogHoldExpire (s : State) : Out :=
  onLiveDev s fun d => d.wdogExpire

/-- POISON_REPORT_RECEIVE (R476). -/
def execPoisonReportReceive (pkg : BitVec 12) (s : State) : Out :=
  onLiveDev s fun d => d.duty (.poison pkg.toNat)

/-- SUP_TIMER_EXPIRE (R487). -/
def execSupTimerExpire (s : State) : Out :=
  onLive s fun _ p => p.supExpire

/-- MP_MEMORY_UE (R487). -/
def execMpMemoryUe (s : State) (single : Bool := false) : Out :=
  onLive s fun _ p => p.mpMemoryUe single

/-- MP_RESTART_DONE (R488). -/
def execMpRestartDone (s : State) : Out :=
  onLiveDev s fun d => d.mpRestartDone

/-- LOSS_REPORT_RECEIVE (R441). -/
def execLossReportReceive (pkg : BitVec 12) (s : State) : Out :=
  onLiveDev s fun d => d.duty (.loss pkg.toNat)

/-- VAT_RESET_REPORT (R451). -/
def execVatResetReport (pkg : BitVec 12) (cause : BitVec 4) (s : State) : Out :=
  onLiveDev s fun d => d.duty (.vatReset pkg.toNat cause.toNat)

/-- VATS_READY_REPORT (R452). -/
def execVatsReadyReport (pkg : BitVec 12) (ok : Bool) (blocks : List (BitVec 48)) (s : State) : Out :=
  onLiveDev s fun d => d.duty (.vatsReady pkg.toNat ok (blocks.map (·.toNat)))

/-- SWAP_WANTED_REPORT (R83). -/
def execSwapWantedReport (pkg : BitVec 12) (spare : Bool) (s : State) : Out :=
  onLiveDev s fun d => d.duty (.swapWanted pkg.toNat spare)

end Sys2Proof.Machine
end

