-- ==== Sys2Proof/Machine/ExecMatrix.lean ====
section
/-! DEFINITION. Commands of the matrix engine (04). -/
namespace Sys2Proof.Machine

/-- MX_LDW (R127). -/
def execMxLdw (core : BitVec 9) (bits : BitVec 96) (err : SramErr) (wait : Nat) (s : State) : Out :=
  atCore core s fun m k p => p.mxLdw m k bits.toNat err wait

/-- MX_MMA (R126). -/
def execMxMma (core : BitVec 9) (bits : BitVec 96) (err : SramErr) (wait : Nat) (s : State) : Out :=
  atCore core s fun m k p => p.mxMma m k (withFold bits.toNat false) err wait

/-- MX_MMA_FOLD (R153). -/
def execMxMmaFold (core : BitVec 9) (bits : BitVec 96) (err : SramErr) (wait : Nat) (s : State) : Out :=
  atCore core s fun m k p => p.mxFold m k (withFold bits.toNat true) err wait

/-- MX_CMUL (R142). -/
def execMxCmul (core : BitVec 9) (bits : BitVec 96) (err : SramErr) (wait : Nat) (s : State) : Out :=
  atCore core s fun m k p => p.mxCmul m k bits.toNat err wait

/-- MX_OUT (R109). -/
def execMxOut (core : BitVec 9) (bits : BitVec 96) (err : SramErr) (wait : Nat) (s : State) : Out :=
  atCore core s fun m k p => p.mxOut m k bits.toNat err wait

/-- MX_TONE (R159). -/
def execMxTone (core : BitVec 9) (bits : BitVec 96) (err : SramErr) (wait : Nat) (s : State) : Out :=
  atCore core s fun m k p => p.mxTone m k bits.toNat err wait

/-- MX_CHECK (R150). -/
def execMxCheck (core : BitVec 9) (first : List MxUpset) (s : State) (again : List MxUpset := []) : Out :=
  atCore core s fun _ k p => p.mxVerdict k first again

/-- ROOM_TONE_WINDOW_END (R157). -/
def execRoomToneWindowEnd (core : BitVec 9) (arr : BitVec 2) (cc : BitVec 16) (s : State) : Out :=
  atCore core s fun _ k p => p.roomToneEnd k arr.toNat cc.toNat

end Sys2Proof.Machine
end

