-- ==== Sys2Proof/Machine/ExecMemory.lean ====
section
/-! DEFINITION. Commands of the memory system (11). -/
namespace Sys2Proof.Machine

/-- MEM_REQUEST_ACCEPT (R368). -/
def execMemRequestAccept (id : Nat) (kind : BitVec 4) (write : Bool) (addr : BitVec 48) (len : BitVec 13) (rind
    : Bool) (slate : BitVec 16) (data : Bytes) (s : State) : Out :=
  onLive s fun _ p => p.memAccept ⟨id, kind.toNat, write, addr.toNat, len.toNat, rind, slate.toNat, 0, data, none, false⟩

/-- MEM_READ_SERVICE (R355). -/
def execMemReadService (stack : BitVec 4) (pch : BitVec 6) (ready : BitVec 64) (errs : List CwErr) (s : State) :
    Out :=
  atPchDev stack pch s fun c d => d.memReadService c ready.toNat errs

/-- MEM_WRITE_SERVICE (R356). -/
def execMemWriteService (stack : BitVec 4) (pch : BitVec 6) (ready : BitVec 64) (errs : List CwErr) (s : State)
    : Out :=
  atPchDev stack pch s fun c d => d.memWriteService c ready.toNat errs

/-- INNER_COUNT_POLL (R354). -/
def execInnerCountPoll (stack : BitVec 4) (pch : BitVec 6) (n : BitVec 16) (s : State) : Out :=
  atPch stack pch s fun _ c p => p.innerPoll c n.toNat

/-- SCRUB_READ (R357). -/
def execScrubRead (addr : BitVec 48) (errs : List CwErr) (s : State) : Out :=
  onLive s fun m p => p.scrubRead m addr.toNat errs

/-- PIN_MARKED (R358). -/
def execPinMarked (stack : BitVec 4) (pch : BitVec 6) (pin : BitVec 5) (s : State) : Out :=
  atPch stack pch s fun _ c p => p.pinMarked c pin.toNat

/-- ROW_RETIRED (R359). -/
def execRowRetired (stack : BitVec 4) (pch : BitVec 6) (bank : BitVec 6) (row : BitVec 13) (s : State) : Out :=
  atPch stack pch s fun _ c p => p.rowRetired c bank.toNat row.toNat

/-- ROW_COPY_DONE (R359). -/
def execRowCopyDone (stack : BitVec 4) (pch : BitVec 6) (bank : BitVec 6) (row : BitVec 13) (s : State) : Out :=
  atPch stack pch s fun _ c p => p.rowCopyDone c bank.toNat row.toNat

/-- CELLAR_ACCESS (R372). -/
def execCellarAccess (vat : BitVec 2) (block : BitVec 16) (errs : List CwErr) (write : Bool) (data : Bytes)
    (s : State) : Out :=
  atVatDev vat s fun v d => d.cellarAccess v block.toNat errs write data

/-- MC_MAINT_HOLD (R375). -/
def execMcMaintHold (stack : BitVec 4) (hold : Bool) (s : State) : Out :=
  atStack stack s fun _ n p => p.maintHold n hold

/-- SPPR (R376). -/
def execSppr (stack : BitVec 4) (pch : BitVec 6) (bank : BitVec 6) (row : BitVec 13) (lane : BitVec 5) (s :
    State) : Out :=
  atStack stack s fun _ n p => p.sppr n pch.toNat bank.toNat row.toNat lane.toNat

/-- HPPR (R376). -/
def execHppr (stack : BitVec 4) (pch : BitVec 6) (bank : BitVec 6) (row : BitVec 13) (lane : BitVec 5) (s :
    State) : Out :=
  atStack stack s fun _ n p => p.hppr n pch.toNat bank.toNat row.toNat lane.toNat

/-- LANE_SOFT (R376). -/
def execLaneSoft (stack : BitVec 4) (pch : BitVec 6) (bank : BitVec 6) (row : BitVec 13) (lane : BitVec 5) (s :
    State) : Out :=
  atStack stack s fun _ n p => p.laneSoft n pch.toNat bank.toNat row.toNat lane.toNat

/-- LANE_HARD (R376). -/
def execLaneHard (stack : BitVec 4) (pch : BitVec 6) (bank : BitVec 6) (row : BitVec 13) (lane : BitVec 5) (s :
    State) : Out :=
  atStack stack s fun _ n p => p.laneHard n pch.toNat bank.toNat row.toNat lane.toNat

/-- UNDO_SOFT (R376). -/
def execUndoSoft (stack : BitVec 4) (pch : BitVec 6) (bank : BitVec 6) (row : BitVec 13) (lane : BitVec 5) (s :
    State) : Out :=
  atStack stack s fun _ n p => p.undoSoft n pch.toNat bank.toNat row.toNat lane.toNat

/-- REPAIR_RESULT (R376). -/
def execRepairResult (stack : BitVec 4) (result : BitVec 2) (s : State) : Out :=
  atStack stack s fun _ n p => p.repairResult n result.toNat

end Sys2Proof.Machine
end

