-- ==== Sys2Proof/Machine/ExecMove.lean ====
section
/-! DEFINITION. Commands of the load and store engines (06, 10, 13). -/
namespace Sys2Proof.Machine

/-- LD_T (R207). -/
def execLdT (core : BitVec 9) (bits : BitVec 64) (err : SramErr) (s : State) : Out :=
  atCoreDev core s fun k d => d.ldT k bits.toNat err

/-- LD_PF (R208). -/
def execLdPf (core : BitVec 9) (bits : BitVec 64) (err : SramErr) (s : State) : Out :=
  atCoreDev core s fun k d => d.ldPf k bits.toNat err

/-- LD_INV (R209). -/
def execLdInv (core : BitVec 9) (bits : BitVec 64) (err : SramErr) (s : State) : Out :=
  atCoreDev core s fun k d => d.ldInv k bits.toNat err

/-- LD_BLOCK_ARRIVE (R218). -/
def execLdBlockArrive (core : BitVec 9) (no : Nat) (addr : BitVec 48) (s : State) : Out :=
  atCoreDev core s fun k d => d.ldArrive k no addr.toNat

/-- ST_T (R214). -/
def execStT (core : BitVec 9) (bits : BitVec 64) (err : SramErr) (s : State) : Out :=
  atCoreDev core s fun k d => d.stT k bits.toNat err

/-- STORE_DONE (R214). -/
def execStoreDone (core : BitVec 9) (no : Nat) (addr : BitVec 48) (s : State) : Out :=
  atCoreDev core s fun k d => d.storeDone k no addr.toNat

/-- ST_X (R231). -/
def execStX (core : BitVec 9) (bits : BitVec 64) (err : SramErr) (s : State) : Out :=
  atCoreDev core s fun k d => d.stX k bits.toNat err

/-- XF_BLOCK_ARRIVE (R232). -/
def execXfBlockArrive (src : BitVec 12) (core : BitVec 9) (tc : BitVec 2) (no : Nat) (fw : Bool) (addr : BitVec
    48) (rind : BitVec 32) (data : Bytes) (s : State) : Out :=
  onLiveDev s fun d => d.xfArrive src.toNat core.toNat tc.toNat no fw ⟨addr.toNat, rind.toNat, data⟩

/-- XF_ACK (R232). -/
def execXfAck (core : BitVec 9) (no : Nat) (addr : BitVec 48) (reason : BitVec 4) (s : State) : Out :=
  atCore core s fun _ k p => p.xfAck k no addr.toNat reason.toNat

/-- ST_CX (R420). -/
def execStCx (core : BitVec 9) (bits : BitVec 64) (err : SramErr) (s : State) : Out :=
  atCoreDev core s fun k d => d.stCx k bits.toNat err

/-- CX_BLOCK_ARRIVE (R422). -/
def execCxBlockArrive (src : BitVec 12) (core : BitVec 9) (no : Nat) (group : BitVec 6) (seq : BitVec 32)
    (digest : BitVec 64) (count : BitVec 11) (addr : BitVec 48) (rind : BitVec 32) (data : Bytes) (s : State)
    (err : SramErr := .none) : Out :=
  onLiveDev s fun d => d.cxBlock src.toNat core.toNat no group.toNat seq.toNat digest.toNat count.toNat
    ⟨addr.toNat, rind.toNat, data⟩ err

/-- CX_ACK (R421). -/
def execCxAck (core : BitVec 9) (no : Nat) (addr : BitVec 48) (s : State) : Out :=
  atCore core s fun _ k p => p.cxAck k no addr.toNat

/-- ST_AADD (R323). -/
def execStAadd (core : BitVec 9) (bits : BitVec 64) (err : SramErr) (s : State) : Out :=
  atCoreDev core s fun k d => d.stAadd k bits.toNat err

/-- ST_AMAX (R323). -/
def execStAmax (core : BitVec 9) (bits : BitVec 64) (err : SramErr) (s : State) : Out :=
  atCoreDev core s fun k d => d.stAmax k bits.toNat err

/-- ST_AMIN (R323). -/
def execStAmin (core : BitVec 9) (bits : BitVec 64) (err : SramErr) (s : State) : Out :=
  atCoreDev core s fun k d => d.stAmin k bits.toNat err

/-- PRESS_ATOMIC_PERFORM (R324). -/
def execPressAtomicPerform (core : BitVec 9) (no : Nat) (block : BitVec 48) (s : State) : Out :=
  atCoreDev core s fun k d => d.atomicPerform k no block.toNat

/-- ST_PRESS (R327). -/
def execStPress (core : BitVec 9) (bits : BitVec 64) (err : SramErr) (s : State) : Out :=
  atCoreDev core s fun k d => d.stPress k bits.toNat err

end Sys2Proof.Machine
end

