-- ==== Sys2Proof/Machine/ExecPorts.lean ====
section
/-! DEFINITION. Commands of the Aedun ports and routing (12). -/
namespace Sys2Proof.Machine

/-- PORT_FLIT_RECEIVE (R382). -/
def execPortFlitReceive (port : BitVec 5) (header : BitVec 32) (payload : Bytes) (crc : BitVec 32) (syms : List (BitVec 9))
    (s : State) (again : Option (BitVec 12) := none) : Out :=
  atPort port s fun _ n p =>
    p.flitReceive n header.toNat payload crc.toNat (syms.map (·.toNat)) (again.map (·.toNat))

/-- PORT_FLIT_ACK (R382). -/
def execPortFlitAck (port : BitVec 5) (seq : BitVec 12) (s : State) (replay : Bool := false)
    (credits : List (BitVec 5 × Nat) := []) : Out :=
  atPort port s fun _ n p => p.flitAck n seq.toNat replay (credits.map fun c => (c.1.toNat, c.2))

/-- PORT_REPLAY_LIMIT (R383). -/
def execPortReplayLimit (port : BitVec 5) (s : State) (partner : Bool := false) : Out :=
  atPort port s fun _ n p => p.replayLimit n partner

/-- PORT_RETRAIN_DONE (R383). -/
def execPortRetrainDone (port : BitVec 5) (rx : BitVec 5) (tx : BitVec 5) (s : State) : Out :=
  atPort port s fun _ n p => p.retrainDone n rx.toNat tx.toNat

/-- LANE_WINDOW_END (R384). -/
def execLaneWindowEnd (port : BitVec 5) (s : State) : Out :=
  atPort port s fun _ n p => p.laneWindowEnd n

/-- LANE_FAIL (R384). -/
def execLaneFail (port : BitVec 5) (lane : BitVec 3) (s : State) : Out :=
  atPort port s fun _ n p => p.laneFail n lane.toNat

/-- LANE_SIGNAL_LOSS (R384). -/
def execLaneSignalLoss (port : BitVec 5) (lane : BitVec 3) (s : State) : Out :=
  atPort port s fun _ n p => p.laneSignalLoss n lane.toNat

/-- LINK_CONTROL_BLOCK (R386). -/
def execLinkControlBlock (port : BitVec 5) (tx : Bool) (lane : BitVec 3) (s : State) : Out :=
  atPort port s fun _ n p => p.linkControl n (b2n tx) lane.toNat

/-- PACKET_ROUTE (R393). -/
def execPacketRoute (src : BitVec 12) (dst : BitVec 12) (tc : BitVec 2) (hops : BitVec 4) (core : BitVec 9)
    (eng : BitVec 3) (blk : Option (BitVec 9 × Nat × BitVec 48)) (s : State) (data : Bytes := []) : Out :=
  onLive s fun _ p => p.packetRoute src.toNat dst.toNat tc.toNat hops.toNat (8 * core.toNat + eng.toNat)
    (blk.map fun x => (x.1.toNat, x.2.1, x.2.2.toNat)) data

/-- REFUSAL_RECEIVE (R387). -/
def execRefusalReceive (core : BitVec 9) (no : Nat) (addr : BitVec 48) (s : State) : Out :=
  onLive s fun _ p => p.refusalReceive core.toNat no addr.toNat

/-- PORT_RT_DATA_WRITE (R394). -/
def execPortRtDataWrite (global : Bool) (entry : BitVec 8) (value : BitVec 64) (s : State) : Out :=
  onLive s fun _ p => p.rtWrite (b2n global) entry.toNat value.toNat

/-- GUEST_PORT_STATE (R405). -/
def execGuestPortState (port : BitVec 5) (s : State) : Out :=
  atPort port s fun m n p => (p.guestWord m n).clockPhase

end Sys2Proof.Machine
end

