-- ==== Sys2Proof/Machine/ExecScalar.lean ====
section
/-! DEFINITION. Commands of the front end: scalar ops, brackets, steps (05, 13). -/
namespace Sys2Proof.Machine

/-- SC_ADD (R166). -/
def execScAdd (core : BitVec 9) (bits : BitVec 64) (s : State) : Out :=
  atCore core s fun _ k p => p.scAdd k bits.toNat

/-- SC_SUB (R166). -/
def execScSub (core : BitVec 9) (bits : BitVec 64) (s : State) : Out :=
  atCore core s fun _ k p => p.scSub k bits.toNat

/-- SC_AND (R166). -/
def execScAnd (core : BitVec 9) (bits : BitVec 64) (s : State) : Out :=
  atCore core s fun _ k p => p.scAnd k bits.toNat

/-- SC_OR (R166). -/
def execScOr (core : BitVec 9) (bits : BitVec 64) (s : State) : Out :=
  atCore core s fun _ k p => p.scOr k bits.toNat

/-- SC_XOR (R166). -/
def execScXor (core : BitVec 9) (bits : BitVec 64) (s : State) : Out :=
  atCore core s fun _ k p => p.scXor k bits.toNat

/-- SC_SHL (R166). -/
def execScShl (core : BitVec 9) (bits : BitVec 64) (s : State) : Out :=
  atCore core s fun _ k p => p.scShl k bits.toNat

/-- SC_SHR (R166). -/
def execScShr (core : BitVec 9) (bits : BitVec 64) (s : State) : Out :=
  atCore core s fun _ k p => p.scShr k bits.toNat

/-- SC_SRA (R166). -/
def execScSra (core : BitVec 9) (bits : BitVec 64) (s : State) : Out :=
  atCore core s fun _ k p => p.scSra k bits.toNat

/-- SC_MUL (R166). -/
def execScMul (core : BitVec 9) (bits : BitVec 64) (s : State) : Out :=
  atCore core s fun _ k p => p.scMul k bits.toNat

/-- SC_MULHU (R166). -/
def execScMulhu (core : BitVec 9) (bits : BitVec 64) (s : State) : Out :=
  atCore core s fun _ k p => p.scMulhu k bits.toNat

/-- SC_SLT (R166). -/
def execScSlt (core : BitVec 9) (bits : BitVec 64) (s : State) : Out :=
  atCore core s fun _ k p => p.scSlt k bits.toNat

/-- SC_SLTU (R166). -/
def execScSltu (core : BitVec 9) (bits : BitVec 64) (s : State) : Out :=
  atCore core s fun _ k p => p.scSltu k bits.toNat

/-- SC_ADDI (R166). -/
def execScAddi (core : BitVec 9) (bits : BitVec 64) (s : State) : Out :=
  atCore core s fun _ k p => p.scAddi k bits.toNat

/-- SC_ANDI (R166). -/
def execScAndi (core : BitVec 9) (bits : BitVec 64) (s : State) : Out :=
  atCore core s fun _ k p => p.scAndi k bits.toNat

/-- SC_ORI (R166). -/
def execScOri (core : BitVec 9) (bits : BitVec 64) (s : State) : Out :=
  atCore core s fun _ k p => p.scOri k bits.toNat

/-- SC_XORI (R166). -/
def execScXori (core : BitVec 9) (bits : BitVec 64) (s : State) : Out :=
  atCore core s fun _ k p => p.scXori k bits.toNat

/-- SC_SHLI (R166). -/
def execScShli (core : BitVec 9) (bits : BitVec 64) (s : State) : Out :=
  atCore core s fun _ k p => p.scShli k bits.toNat

/-- SC_SHRI (R166). -/
def execScShri (core : BitVec 9) (bits : BitVec 64) (s : State) : Out :=
  atCore core s fun _ k p => p.scShri k bits.toNat

/-- SC_SRAI (R166). -/
def execScSrai (core : BitVec 9) (bits : BitVec 64) (s : State) : Out :=
  atCore core s fun _ k p => p.scSrai k bits.toNat

/-- SC_LIH (R166). -/
def execScLih (core : BitVec 9) (bits : BitVec 64) (s : State) : Out :=
  atCore core s fun _ k p => p.scLih k bits.toNat

/-- SC_BR (R172). -/
def execScBr (core : BitVec 9) (bits : BitVec 64) (s : State) : Out :=
  atCore core s fun _ k p => p.scBr k bits.toNat

/-- SC_BRC (R172). -/
def execScBrc (core : BitVec 9) (bits : BitVec 64) (s : State) : Out :=
  atCore core s fun _ k p => p.scBrc k bits.toNat

/-- SC_BRI (R172). -/
def execScBri (core : BitVec 9) (bits : BitVec 64) (s : State) : Out :=
  atCore core s fun _ k p => p.scBri k bits.toNat

/-- SC_LOPEN (R177). -/
def execScLopen (core : BitVec 9) (bits : BitVec 64) (s : State) : Out :=
  atCore core s fun _ k p => p.scLopen k bits.toNat

/-- SC_LCLOSE (R178). -/
def execScLclose (core : BitVec 9) (bits : BitVec 64) (s : State) : Out :=
  atCore core s fun _ k p => p.scLclose k bits.toNat

/-- LCLOSE_REPORT (R295). -/
def execLcloseReport (core : BitVec 9) (s : State) (err : SramErr := .none) : Out :=
  atCore core s fun m k p => p.lcloseReport m k err

/-- LCLOSE_OUTCOME (R178). -/
def execLcloseOutcome (core : BitVec 9) (s : State) : Out :=
  atCore core s fun _ k p => p.lcloseOutcome k

/-- TAKE_COMMIT_DONE (R223). -/
def execTakeCommitDone (core : BitVec 9) (s : State) : Out :=
  atCoreDev core s fun k d => d.takeCommit k

/-- SC_STEP (R182). -/
def execScStep (core : BitVec 9) (bits : BitVec 64) (s : State) : Out :=
  atCore core s fun _ k p => p.scStep k bits.toNat

/-- STEP_BOUNDARY (R182). -/
def execStepBoundary (core : BitVec 9) (s : State) (err : SramErr := .none) : Out :=
  atCore core s fun m k p => p.stepBoundary m k err

/-- SC_END (R184). -/
def execScEnd (core : BitVec 9) (bits : BitVec 64) (s : State) : Out :=
  atCore core s fun _ k p => p.scEnd k bits.toNat

/-- PROGRAM_END (R184). -/
def execProgramEnd (core : BitVec 9) (s : State) : Out :=
  atCore core s fun m k p => p.programEnds m k

/-- SC_COPEN (R415). -/
def execScCopen (core : BitVec 9) (bits : BitVec 64) (s : State) : Out :=
  atCore core s fun m k p => p.scCopen m k bits.toNat

/-- SC_CCLOSE (R417). -/
def execScCclose (core : BitVec 9) (bits : BitVec 64) (s : State) : Out :=
  atCore core s fun _ k p => p.scCclose k bits.toNat

/-- SC_RDSR (R170). -/
def execScRdsr (core : BitVec 9) (bits : BitVec 64) (s : State) : Out :=
  atCore core s fun _ k p => p.scRdsr k bits.toNat

/-- SC_WRSR (R171). -/
def execScWrsr (core : BitVec 9) (bits : BitVec 64) (s : State) : Out :=
  atCore core s fun _ k p => p.scWrsr k bits.toNat

end Sys2Proof.Machine
end

