-- ==== Sys2Proof/Machine/ExecSync.lean ====
section
/-! DEFINITION. Commands of the synchronization engine (08). -/
namespace Sys2Proof.Machine

/-- SY_SIG (R265). -/
def execSySig (core : BitVec 9) (bits : BitVec 64) (s : State) : Out :=
  atCore core s fun _ k p => p.sySig k bits.toNat

/-- SY_WAIT (R262). -/
def execSyWait (core : BitVec 9) (bits : BitVec 64) (s : State) (err : SramErr := .none) : Out :=
  atCore core s fun m k p => p.syWait m k bits.toNat err

/-- SY_DEC (R276). -/
def execSyDec (core : BitVec 9) (bits : BitVec 64) (s : State) : Out :=
  atCore core s fun _ k p => p.syDec k bits.toNat

/-- SY_WTIME (R277). -/
def execSyWtime (core : BitVec 9) (bits : BitVec 64) (s : State) : Out :=
  atCore core s fun _ k p => p.syWtime k bits.toNat

/-- SY_FENCE (R278). -/
def execSyFence (core : BitVec 9) (bits : BitVec 64) (s : State) : Out :=
  atCore core s fun _ k p => p.syFence k bits.toNat

/-- SIGNAL_LEAVE (R269). -/
def execSignalLeave (core : BitVec 9) (gate : Nat) (s : State) (err : SramErr := .none) : Out :=
  atCore core s fun m k p => p.signalLeave m k gate err

/-- SIGNAL_APPLY (R274). -/
def execSignalApply (core : BitVec 9) (id : Nat) (s : State) (more decs : List Nat := []) (err : SramErr := .none) : Out :=
  onLive s fun m p => p.signalApply m core.toNat id more decs err

/-- REMOTE_SIGNAL_ARRIVE (R271). -/
def execRemoteSignalArrive (pkg : BitVec 12) (core : BitVec 9) (tc : BitVec 2) (target : BitVec 9) (sem : BitVec
    6) (n : BitVec 16) (slate : BitVec 16) (s : State) : Out :=
  onLive s fun _ p => p.remoteSignal pkg.toNat core.toNat tc.toNat target.toNat sem.toNat n.toNat slate.toNat

/-- DEC_APPLY (R276). -/
def execDecApply (core : BitVec 9) (gate : Nat) (s : State) (err : SramErr := .none) : Out :=
  atCore core s fun m k p => p.decApply m k gate err

/-- WTIME_EXPIRE (R277). -/
def execWtimeExpire (core : BitVec 9) (gate : Nat) (s : State) : Out :=
  atCore core s fun _ k p => p.wtimeExpire k gate

/-- FENCE_RELEASE (R278). -/
def execFenceRelease (core : BitVec 9) (gate : Nat) (s : State) : Out :=
  atCore core s fun _ k p => p.fenceRelease k gate

/-- WDOG_FIRE (R281). -/
def execWdogFire (core : BitVec 9) (engine : BitVec 3) (s : State) : Out :=
  atCore core s fun m k p => p.wdogAt m k engine.toNat

end Sys2Proof.Machine
end

