-- ==== Sys2Proof/Machine/ExecTraining.lean ====
section
/-! DEFINITION. Commands of the scale tables, collectors, loss watch, press units and digests (09, 10). -/
namespace Sys2Proof.Machine

/-- CORE_SCT_DATA_WRITE (R292). -/
def execCoreSctDataWrite (core : BitVec 9) (tid : BitVec 8) (word : BitVec 4) (value : BitVec 64) (s : State) :
    Out :=
  atPhys core s fun _ k p => p.sctDataWrite k tid.toNat word.toNat value.toNat

/-- REPORT_ARRIVE (R296). -/
def execReportArrive (core : BitVec 9) (s : State) : Out :=
  onLiveDev s fun d => d.reportArrive core.toNat

/-- LOSS_SAMPLE (R313). -/
def execLossSample (s : State) : Out :=
  onLive s fun _ p => p.lossSample

/-- NUM_LOSS_STATE_WRITE (R316). -/
def execNumLossStateWrite (value : BitVec 64) (s : State) : Out :=
  onLive s fun _ p => p.lossStateWrite value.toNat

/-- NUM_LOSS_SAMPLES_WRITE (R316). -/
def execNumLossSamplesWrite (samples : BitVec 8) (s : State) : Out :=
  onLive s fun _ p => p.lossSamplesWrite samples.toNat

/-- PRESS_OP_START (R329). -/
def execPressOpStart (vat : BitVec 2) (s : State) : Out :=
  atVat vat s fun m v p => p.pressStart m v

/-- PRESS_SLICE (R331). -/
def execPressSlice (vat : BitVec 2) (slice : Nat) (s : State) : Out :=
  atVatDev vat s fun v d => d.pressSlice v slice

/-- PRESS_OP_DONE (R340). -/
def execPressOpDone (vat : BitVec 2) (s : State) : Out :=
  atVat vat s fun _ v p => p.pressOpDone v

/-- DIGEST_GO (R343). -/
def execDigestGo (s : State) : Out :=
  onLive s fun _ p => p.digestGo

/-- DIGEST_DONE (R343). -/
def execDigestDone (s : State) : Out :=
  onLive s fun _ p => p.digestDoneReport

end Sys2Proof.Machine
end

