-- ==== Sys2Proof/Machine/ExecVector.lean ====
section
/-! DEFINITION. Commands of the vector engine (07). -/
namespace Sys2Proof.Machine

/-- VE_ADD (R243). -/
def execVeAdd (core : BitVec 9) (bits : BitVec 96) (err : SramErr) (wait : Nat) (s : State) : Out :=
  atCore core s fun m k p => p.veAdd m k bits.toNat err wait

/-- VE_SUB (R243). -/
def execVeSub (core : BitVec 9) (bits : BitVec 96) (err : SramErr) (wait : Nat) (s : State) : Out :=
  atCore core s fun m k p => p.veSub m k bits.toNat err wait

/-- VE_MUL (R243). -/
def execVeMul (core : BitVec 9) (bits : BitVec 96) (err : SramErr) (wait : Nat) (s : State) : Out :=
  atCore core s fun m k p => p.veMul m k bits.toNat err wait

/-- VE_FMA (R243). -/
def execVeFma (core : BitVec 9) (bits : BitVec 96) (err : SramErr) (wait : Nat) (s : State) : Out :=
  atCore core s fun m k p => p.veFma m k bits.toNat err wait

/-- VE_MAX (R240). -/
def execVeMax (core : BitVec 9) (bits : BitVec 96) (err : SramErr) (wait : Nat) (s : State) : Out :=
  atCore core s fun m k p => p.veMax m k bits.toNat err wait

/-- VE_MIN (R240). -/
def execVeMin (core : BitVec 9) (bits : BitVec 96) (err : SramErr) (wait : Nat) (s : State) : Out :=
  atCore core s fun m k p => p.veMin m k bits.toNat err wait

/-- VE_RCP (R244). -/
def execVeRcp (core : BitVec 9) (bits : BitVec 96) (err : SramErr) (wait : Nat) (s : State) : Out :=
  atCore core s fun m k p => p.veRcp m k bits.toNat err wait

/-- VE_RSQRT (R244). -/
def execVeRsqrt (core : BitVec 9) (bits : BitVec 96) (err : SramErr) (wait : Nat) (s : State) : Out :=
  atCore core s fun m k p => p.veRsqrt m k bits.toNat err wait

/-- VE_EXP2 (R244). -/
def execVeExp2 (core : BitVec 9) (bits : BitVec 96) (err : SramErr) (wait : Nat) (s : State) : Out :=
  atCore core s fun m k p => p.veExp2 m k bits.toNat err wait

/-- VE_LOG2 (R244). -/
def execVeLog2 (core : BitVec 9) (bits : BitVec 96) (err : SramErr) (wait : Nat) (s : State) : Out :=
  atCore core s fun m k p => p.veLog2 m k bits.toNat err wait

/-- VE_IADD (R245). -/
def execVeIadd (core : BitVec 9) (bits : BitVec 96) (err : SramErr) (wait : Nat) (s : State) : Out :=
  atCore core s fun m k p => p.veIadd m k bits.toNat err wait

/-- VE_ISUB (R245). -/
def execVeIsub (core : BitVec 9) (bits : BitVec 96) (err : SramErr) (wait : Nat) (s : State) : Out :=
  atCore core s fun m k p => p.veIsub m k bits.toNat err wait

/-- VE_IMUL (R245). -/
def execVeImul (core : BitVec 9) (bits : BitVec 96) (err : SramErr) (wait : Nat) (s : State) : Out :=
  atCore core s fun m k p => p.veImul m k bits.toNat err wait

/-- VE_AND (R245). -/
def execVeAnd (core : BitVec 9) (bits : BitVec 96) (err : SramErr) (wait : Nat) (s : State) : Out :=
  atCore core s fun m k p => p.veAnd m k bits.toNat err wait

/-- VE_OR (R245). -/
def execVeOr (core : BitVec 9) (bits : BitVec 96) (err : SramErr) (wait : Nat) (s : State) : Out :=
  atCore core s fun m k p => p.veOr m k bits.toNat err wait

/-- VE_XOR (R245). -/
def execVeXor (core : BitVec 9) (bits : BitVec 96) (err : SramErr) (wait : Nat) (s : State) : Out :=
  atCore core s fun m k p => p.veXor m k bits.toNat err wait

/-- VE_SEL (R236). -/
def execVeSel (core : BitVec 9) (bits : BitVec 96) (err : SramErr) (wait : Nat) (s : State) : Out :=
  atCore core s fun m k p => p.veSel m k bits.toNat err wait

/-- VE_FCMP (R241). -/
def execVeFcmp (core : BitVec 9) (bits : BitVec 96) (err : SramErr) (wait : Nat) (s : State) : Out :=
  atCore core s fun m k p => p.veFcmp m k bits.toNat err wait

/-- VE_ICMP (R241). -/
def execVeIcmp (core : BitVec 9) (bits : BitVec 96) (err : SramErr) (wait : Nat) (s : State) : Out :=
  atCore core s fun m k p => p.veIcmp m k bits.toNat err wait

/-- VE_PLOG (R241). -/
def execVePlog (core : BitVec 9) (bits : BitVec 96) (err : SramErr) (wait : Nat) (s : State) : Out :=
  atCore core s fun m k p => p.vePlog m k bits.toNat err wait

/-- VE_IOTA (R240). -/
def execVeIota (core : BitVec 9) (bits : BitVec 96) (err : SramErr) (wait : Nat) (s : State) : Out :=
  atCore core s fun m k p => p.veIota m k bits.toNat err wait

/-- VE_BCAST (R240). -/
def execVeBcast (core : BitVec 9) (bits : BitVec 96) (err : SramErr) (wait : Nat) (s : State) : Out :=
  atCore core s fun m k p => p.veBcast m k bits.toNat err wait

/-- VE_XS (R250). -/
def execVeXs (core : BitVec 9) (bits : BitVec 96) (err : SramErr) (wait : Nat) (s : State) : Out :=
  atCore core s fun m k p => p.veXs m k bits.toNat err wait

/-- VE_CVT (R248). -/
def execVeCvt (core : BitVec 9) (bits : BitVec 96) (err : SramErr) (wait : Nat) (s : State) : Out :=
  atCore core s fun m k p => p.veCvt m k bits.toNat err wait

/-- VE_RSUM (R246). -/
def execVeRsum (core : BitVec 9) (bits : BitVec 96) (err : SramErr) (wait : Nat) (s : State) : Out :=
  atCore core s fun m k p => p.veRsum m k bits.toNat err wait

/-- VE_RMAX (R246). -/
def execVeRmax (core : BitVec 9) (bits : BitVec 96) (err : SramErr) (wait : Nat) (s : State) : Out :=
  atCore core s fun m k p => p.veRmax m k bits.toNat err wait

/-- VE_RMIN (R246). -/
def execVeRmin (core : BitVec 9) (bits : BitVec 96) (err : SramErr) (wait : Nat) (s : State) : Out :=
  atCore core s fun m k p => p.veRmin m k bits.toNat err wait

/-- VE_RSSQ (R246). -/
def execVeRssq (core : BitVec 9) (bits : BitVec 96) (err : SramErr) (wait : Nat) (s : State) : Out :=
  atCore core s fun m k p => p.veRssq m k bits.toNat err wait

/-- VE_CMASK (R256). -/
def execVeCmask (core : BitVec 9) (bits : BitVec 96) (err : SramErr) (wait : Nat) (s : State) : Out :=
  atCore core s fun m k p => p.veCmask m k bits.toNat err wait

/-- VE_OSM (R257). -/
def execVeOsm (core : BitVec 9) (bits : BitVec 96) (err : SramErr) (wait : Nat) (s : State) : Out :=
  atCore core s fun m k p => p.veOsm m k bits.toNat err wait

/-- VE_TOPK (R258). -/
def execVeTopk (core : BitVec 9) (bits : BitVec 96) (err : SramErr) (wait : Nat) (s : State) : Out :=
  atCore core s fun m k p => p.veTopk m k bits.toNat err wait

/-- VE_KLD (R259). -/
def execVeKld (core : BitVec 9) (bits : BitVec 96) (err : SramErr) (wait : Nat) (s : State) : Out :=
  atCore core s fun m k p => p.veKld m k bits.toNat err wait

/-- VE_LDS (R249). -/
def execVeLds (core : BitVec 9) (bits : BitVec 96) (err : SramErr) (wait : Nat) (s : State) : Out :=
  atCore core s fun m k p => p.veLds m k bits.toNat err wait

/-- VE_STS (R249). -/
def execVeSts (core : BitVec 9) (bits : BitVec 96) (err : SramErr) (wait : Nat) (s : State) : Out :=
  atCore core s fun m k p => p.veSts m k bits.toNat err wait

/-- VE_GATH (R249). -/
def execVeGath (core : BitVec 9) (bits : BitVec 96) (err : SramErr) (wait : Nat) (s : State) : Out :=
  atCore core s fun m k p => p.veGath m k bits.toNat err wait

end Sys2Proof.Machine
end

