-- ==== Sys2Proof/Machine/Dispatch.lean ====
section
/-! DEFINITION. The effect of each command on everything but the queue, one direct call of its meaning per row. -/
namespace Sys2Proof.Machine

def exec (i : Instr) (s : State) : Host.Outcome State Fault Refusal :=
  match i with
  | .pwrgdFall => Sys2Proof.Machine.execPwrgdFall s
  | .resetAssert => Sys2Proof.Machine.execResetAssert s
  | .resetRelease bootId prog fuse => Sys2Proof.Machine.execResetRelease bootId prog s fuse
  | .firmwareStart lib0 lib1 => Sys2Proof.Machine.execFirmwareStart lib0 lib1 s
  | .diesTrained caps low => Sys2Proof.Machine.execDiesTrained caps low s
  | .bootTestDone failed => Sys2Proof.Machine.execBootTestDone failed s
  | .memoryClearDone => Sys2Proof.Machine.execMemoryClearDone s
  | .linkTrainingStart => Sys2Proof.Machine.execLinkTrainingStart s
  | .portTrainDone port pid pport popt rates rx tx ver => Sys2Proof.Machine.execPortTrainDone port pid pport popt rates rx tx s ver
  | .portNoPartner port => Sys2Proof.Machine.execPortNoPartner port s
  | .bootReady => Sys2Proof.Machine.execBootReady s
  | .clockLate => Sys2Proof.Machine.execClockLate s
  | .thermtrip die temp => Sys2Proof.Machine.execThermtrip die temp s
  | .brakeFall pin => Sys2Proof.Machine.execBrakeFall s pin
  | .brakeRise pin => Sys2Proof.Machine.execBrakeRise s pin
  | .timeInEdge => Sys2Proof.Machine.execTimeInEdge s
  | .gafferSample watts => Sys2Proof.Machine.execGafferSample watts s
  | .tempSample vat0 vat1 vat2 vat3 hub stack => Sys2Proof.Machine.execTempSample vat0 vat1 vat2 vat3 hub stack s
  | .jtagInstruction code => Sys2Proof.Machine.execJtagInstruction code s
  | .d2dFlitReceive edge module eend seq cred payload flips => Sys2Proof.Machine.execD2dFlitReceive edge module eend seq cred payload s flips
  | .d2dFlitAck edge module eend seq => Sys2Proof.Machine.execD2dFlitAck edge module eend seq s
  | .d2dReplayLimit edge module eend => Sys2Proof.Machine.execD2dReplayLimit edge module eend s
  | .d2dRetrainDone edge module ok => Sys2Proof.Machine.execD2dRetrainDone edge module ok s
  | .d2dLaneThresh edge module eend lane => Sys2Proof.Machine.execD2dLaneThresh edge module eend lane s
  | .vatPllUnlock vat => Sys2Proof.Machine.execVatPllUnlock vat s
  | .nr1PllUnlock => Sys2Proof.Machine.execNr1PllUnlock s
  | .hubSramUe => Sys2Proof.Machine.execHubSramUe s
  | .creditReturn core engine => Sys2Proof.Machine.execCreditReturn core engine s
  | .fabricRequestArrive core engine die => Sys2Proof.Machine.execFabricRequestArrive core s engine die
  | .vatResetRequest vats cause scan => Sys2Proof.Machine.execVatResetRequest vats cause scan s
  | .vatQuiesceDrained vat => Sys2Proof.Machine.execVatQuiesceDrained vat s
  | .vatResetHoldEnd vat => Sys2Proof.Machine.execVatResetHoldEnd vat s
  | .vatScanDone vat fails unit us => Sys2Proof.Machine.execVatScanDone vat fails unit us s
  | .vatBootDone vat relock low => Sys2Proof.Machine.execVatBootDone vat relock low s
  | .bundleDispatch core err => Sys2Proof.Machine.execBundleDispatch core err s
  | .icacheLineArrive core ahead => Sys2Proof.Machine.execIcacheLineArrive core ahead s
  | .branchResolve core => Sys2Proof.Machine.execBranchResolve core s
  | .fillRefetchDone core line => Sys2Proof.Machine.execFillRefetchDone core line s
  | .coreFaultThresh core => Sys2Proof.Machine.execCoreFaultThresh core s
  | .coreCeThresh core => Sys2Proof.Machine.execCoreCeThresh core s
  | .coreSwapRequest spare logical => Sys2Proof.Machine.execCoreSwapRequest spare logical s
  | .coreSwapStart err => Sys2Proof.Machine.execCoreSwapStart s err
  | .coreSwapDone => Sys2Proof.Machine.execCoreSwapDone s
  | .nop core slot bits => Sys2Proof.Machine.execNop core slot bits s
  | .scAdd core bits => Sys2Proof.Machine.execScAdd core bits s
  | .scSub core bits => Sys2Proof.Machine.execScSub core bits s
  | .scAnd core bits => Sys2Proof.Machine.execScAnd core bits s
  | .scOr core bits => Sys2Proof.Machine.execScOr core bits s
  | .scXor core bits => Sys2Proof.Machine.execScXor core bits s
  | .scShl core bits => Sys2Proof.Machine.execScShl core bits s
  | .scShr core bits => Sys2Proof.Machine.execScShr core bits s
  | .scSra core bits => Sys2Proof.Machine.execScSra core bits s
  | .scMul core bits => Sys2Proof.Machine.execScMul core bits s
  | .scMulhu core bits => Sys2Proof.Machine.execScMulhu core bits s
  | .scSlt core bits => Sys2Proof.Machine.execScSlt core bits s
  | .scSltu core bits => Sys2Proof.Machine.execScSltu core bits s
  | .scAddi core bits => Sys2Proof.Machine.execScAddi core bits s
  | .scAndi core bits => Sys2Proof.Machine.execScAndi core bits s
  | .scOri core bits => Sys2Proof.Machine.execScOri core bits s
  | .scXori core bits => Sys2Proof.Machine.execScXori core bits s
  | .scShli core bits => Sys2Proof.Machine.execScShli core bits s
  | .scShri core bits => Sys2Proof.Machine.execScShri core bits s
  | .scSrai core bits => Sys2Proof.Machine.execScSrai core bits s
  | .scLih core bits => Sys2Proof.Machine.execScLih core bits s
  | .scBr core bits => Sys2Proof.Machine.execScBr core bits s
  | .scBrc core bits => Sys2Proof.Machine.execScBrc core bits s
  | .scBri core bits => Sys2Proof.Machine.execScBri core bits s
  | .scLopen core bits => Sys2Proof.Machine.execScLopen core bits s
  | .scLclose core bits => Sys2Proof.Machine.execScLclose core bits s
  | .lcloseReport core err => Sys2Proof.Machine.execLcloseReport core s err
  | .lcloseOutcome core => Sys2Proof.Machine.execLcloseOutcome core s
  | .takeCommitDone core => Sys2Proof.Machine.execTakeCommitDone core s
  | .scStep core bits => Sys2Proof.Machine.execScStep core bits s
  | .stepBoundary core err => Sys2Proof.Machine.execStepBoundary core s err
  | .scEnd core bits => Sys2Proof.Machine.execScEnd core bits s
  | .programEnd core => Sys2Proof.Machine.execProgramEnd core s
  | .scCopen core bits => Sys2Proof.Machine.execScCopen core bits s
  | .scCclose core bits => Sys2Proof.Machine.execScCclose core bits s
  | .scRdsr core bits => Sys2Proof.Machine.execScRdsr core bits s
  | .scWrsr core bits => Sys2Proof.Machine.execScWrsr core bits s
  | .veAdd core bits err wait => Sys2Proof.Machine.execVeAdd core bits err wait s
  | .veSub core bits err wait => Sys2Proof.Machine.execVeSub core bits err wait s
  | .veMul core bits err wait => Sys2Proof.Machine.execVeMul core bits err wait s
  | .veFma core bits err wait => Sys2Proof.Machine.execVeFma core bits err wait s
  | .veMax core bits err wait => Sys2Proof.Machine.execVeMax core bits err wait s
  | .veMin core bits err wait => Sys2Proof.Machine.execVeMin core bits err wait s
  | .veRcp core bits err wait => Sys2Proof.Machine.execVeRcp core bits err wait s
  | .veRsqrt core bits err wait => Sys2Proof.Machine.execVeRsqrt core bits err wait s
  | .veExp2 core bits err wait => Sys2Proof.Machine.execVeExp2 core bits err wait s
  | .veLog2 core bits err wait => Sys2Proof.Machine.execVeLog2 core bits err wait s
  | .veIadd core bits err wait => Sys2Proof.Machine.execVeIadd core bits err wait s
  | .veIsub core bits err wait => Sys2Proof.Machine.execVeIsub core bits err wait s
  | .veImul core bits err wait => Sys2Proof.Machine.execVeImul core bits err wait s
  | .veAnd core bits err wait => Sys2Proof.Machine.execVeAnd core bits err wait s
  | .veOr core bits err wait => Sys2Proof.Machine.execVeOr core bits err wait s
  | .veXor core bits err wait => Sys2Proof.Machine.execVeXor core bits err wait s
  | .veSel core bits err wait => Sys2Proof.Machine.execVeSel core bits err wait s
  | .veFcmp core bits err wait => Sys2Proof.Machine.execVeFcmp core bits err wait s
  | .veIcmp core bits err wait => Sys2Proof.Machine.execVeIcmp core bits err wait s
  | .vePlog core bits err wait => Sys2Proof.Machine.execVePlog core bits err wait s
  | .veIota core bits err wait => Sys2Proof.Machine.execVeIota core bits err wait s
  | .veBcast core bits err wait => Sys2Proof.Machine.execVeBcast core bits err wait s
  | .veXs core bits err wait => Sys2Proof.Machine.execVeXs core bits err wait s
  | .veCvt core bits err wait => Sys2Proof.Machine.execVeCvt core bits err wait s
  | .veRsum core bits err wait => Sys2Proof.Machine.execVeRsum core bits err wait s
  | .veRmax core bits err wait => Sys2Proof.Machine.execVeRmax core bits err wait s
  | .veRmin core bits err wait => Sys2Proof.Machine.execVeRmin core bits err wait s
  | .veRssq core bits err wait => Sys2Proof.Machine.execVeRssq core bits err wait s
  | .veCmask core bits err wait => Sys2Proof.Machine.execVeCmask core bits err wait s
  | .veOsm core bits err wait => Sys2Proof.Machine.execVeOsm core bits err wait s
  | .veTopk core bits err wait => Sys2Proof.Machine.execVeTopk core bits err wait s
  | .veKld core bits err wait => Sys2Proof.Machine.execVeKld core bits err wait s
  | .veLds core bits err wait => Sys2Proof.Machine.execVeLds core bits err wait s
  | .veSts core bits err wait => Sys2Proof.Machine.execVeSts core bits err wait s
  | .veGath core bits err wait => Sys2Proof.Machine.execVeGath core bits err wait s
  | .mxLdw core bits err wait => Sys2Proof.Machine.execMxLdw core bits err wait s
  | .mxMma core bits err wait => Sys2Proof.Machine.execMxMma core bits err wait s
  | .mxMmaFold core bits err wait => Sys2Proof.Machine.execMxMmaFold core bits err wait s
  | .mxCmul core bits err wait => Sys2Proof.Machine.execMxCmul core bits err wait s
  | .mxOut core bits err wait => Sys2Proof.Machine.execMxOut core bits err wait s
  | .mxTone core bits err wait => Sys2Proof.Machine.execMxTone core bits err wait s
  | .mxCheck core first again => Sys2Proof.Machine.execMxCheck core first s again
  | .roomToneWindowEnd core arr cc => Sys2Proof.Machine.execRoomToneWindowEnd core arr cc s
  | .ldT core bits err => Sys2Proof.Machine.execLdT core bits err s
  | .ldPf core bits err => Sys2Proof.Machine.execLdPf core bits err s
  | .ldInv core bits err => Sys2Proof.Machine.execLdInv core bits err s
  | .ldBlockArrive core no addr => Sys2Proof.Machine.execLdBlockArrive core no addr s
  | .stT core bits err => Sys2Proof.Machine.execStT core bits err s
  | .storeDone core no addr => Sys2Proof.Machine.execStoreDone core no addr s
  | .stX core bits err => Sys2Proof.Machine.execStX core bits err s
  | .xfBlockArrive src core tc no fw addr rind data => Sys2Proof.Machine.execXfBlockArrive src core tc no fw addr rind data s
  | .xfAck core no addr reason => Sys2Proof.Machine.execXfAck core no addr reason s
  | .stCx core bits err => Sys2Proof.Machine.execStCx core bits err s
  | .cxBlockArrive src core no group seq digest count addr rind data err => Sys2Proof.Machine.execCxBlockArrive src core no group seq digest count addr rind data s err
  | .cxAck core no addr => Sys2Proof.Machine.execCxAck core no addr s
  | .stAadd core bits err => Sys2Proof.Machine.execStAadd core bits err s
  | .stAmax core bits err => Sys2Proof.Machine.execStAmax core bits err s
  | .stAmin core bits err => Sys2Proof.Machine.execStAmin core bits err s
  | .pressAtomicPerform core no block => Sys2Proof.Machine.execPressAtomicPerform core no block s
  | .stPress core bits err => Sys2Proof.Machine.execStPress core bits err s
  | .sySig core bits => Sys2Proof.Machine.execSySig core bits s
  | .syWait core bits err => Sys2Proof.Machine.execSyWait core bits s err
  | .syDec core bits => Sys2Proof.Machine.execSyDec core bits s
  | .syWtime core bits => Sys2Proof.Machine.execSyWtime core bits s
  | .syFence core bits => Sys2Proof.Machine.execSyFence core bits s
  | .signalLeave core gate err => Sys2Proof.Machine.execSignalLeave core gate s err
  | .signalApply core id more decs err => Sys2Proof.Machine.execSignalApply core id s more decs err
  | .remoteSignalArrive pkg core tc target sem n slate => Sys2Proof.Machine.execRemoteSignalArrive pkg core tc target sem n slate s
  | .decApply core gate err => Sys2Proof.Machine.execDecApply core gate s err
  | .wtimeExpire core gate => Sys2Proof.Machine.execWtimeExpire core gate s
  | .fenceRelease core gate => Sys2Proof.Machine.execFenceRelease core gate s
  | .wdogFire core engine => Sys2Proof.Machine.execWdogFire core engine s
  | .coreSctDataWrite core tid word value => Sys2Proof.Machine.execCoreSctDataWrite core tid word value s
  | .reportArrive core => Sys2Proof.Machine.execReportArrive core s
  | .lossSample => Sys2Proof.Machine.execLossSample s
  | .numLossStateWrite value => Sys2Proof.Machine.execNumLossStateWrite value s
  | .numLossSamplesWrite samples => Sys2Proof.Machine.execNumLossSamplesWrite samples s
  | .pressOpStart vat => Sys2Proof.Machine.execPressOpStart vat s
  | .pressSlice vat slice => Sys2Proof.Machine.execPressSlice vat slice s
  | .pressOpDone vat => Sys2Proof.Machine.execPressOpDone vat s
  | .digestGo => Sys2Proof.Machine.execDigestGo s
  | .digestDone => Sys2Proof.Machine.execDigestDone s
  | .memRequestAccept id kind write addr len rind slate data => Sys2Proof.Machine.execMemRequestAccept id kind write addr len rind slate data s
  | .memReadService stack pch ready errs => Sys2Proof.Machine.execMemReadService stack pch ready errs s
  | .memWriteService stack pch ready errs => Sys2Proof.Machine.execMemWriteService stack pch ready errs s
  | .innerCountPoll stack pch n => Sys2Proof.Machine.execInnerCountPoll stack pch n s
  | .scrubRead addr errs => Sys2Proof.Machine.execScrubRead addr errs s
  | .pinMarked stack pch pin => Sys2Proof.Machine.execPinMarked stack pch pin s
  | .rowRetired stack pch bank row => Sys2Proof.Machine.execRowRetired stack pch bank row s
  | .rowCopyDone stack pch bank row => Sys2Proof.Machine.execRowCopyDone stack pch bank row s
  | .cellarAccess vat block errs write data => Sys2Proof.Machine.execCellarAccess vat block errs write data s
  | .mcMaintHold stack hold => Sys2Proof.Machine.execMcMaintHold stack hold s
  | .sppr stack pch bank row lane => Sys2Proof.Machine.execSppr stack pch bank row lane s
  | .hppr stack pch bank row lane => Sys2Proof.Machine.execHppr stack pch bank row lane s
  | .laneSoft stack pch bank row lane => Sys2Proof.Machine.execLaneSoft stack pch bank row lane s
  | .laneHard stack pch bank row lane => Sys2Proof.Machine.execLaneHard stack pch bank row lane s
  | .undoSoft stack pch bank row lane => Sys2Proof.Machine.execUndoSoft stack pch bank row lane s
  | .repairResult stack result => Sys2Proof.Machine.execRepairResult stack result s
  | .portFlitReceive port header payload crc syms again => Sys2Proof.Machine.execPortFlitReceive port header payload crc syms s again
  | .portFlitAck port seq replay credits => Sys2Proof.Machine.execPortFlitAck port seq s replay credits
  | .portReplayLimit port partner => Sys2Proof.Machine.execPortReplayLimit port s partner
  | .portRetrainDone port rx tx => Sys2Proof.Machine.execPortRetrainDone port rx tx s
  | .laneWindowEnd port => Sys2Proof.Machine.execLaneWindowEnd port s
  | .laneFail port lane => Sys2Proof.Machine.execLaneFail port lane s
  | .laneSignalLoss port lane => Sys2Proof.Machine.execLaneSignalLoss port lane s
  | .linkControlBlock port tx lane => Sys2Proof.Machine.execLinkControlBlock port tx lane s
  | .packetRoute src dst tc hops core eng blk data => Sys2Proof.Machine.execPacketRoute src dst tc hops core eng blk s data
  | .refusalReceive core no addr => Sys2Proof.Machine.execRefusalReceive core no addr s
  | .portRtDataWrite global entry value => Sys2Proof.Machine.execPortRtDataWrite global entry value s
  | .guestPortState port => Sys2Proof.Machine.execGuestPortState port s
  | .callRegister core => Sys2Proof.Machine.execCallRegister core s
  | .collArrivalReceive src group seq digest time => Sys2Proof.Machine.execCollArrivalReceive src group seq digest time s
  | .collAbortReceive group seq cause => Sys2Proof.Machine.execCollAbortReceive group seq cause s
  | .ccloseDrained core => Sys2Proof.Machine.execCcloseDrained core s
  | .clapPeriod => Sys2Proof.Machine.execClapPeriod s
  | .clapRequestReceive src t1 step beat => Sys2Proof.Machine.execClapRequestReceive src t1 step beat s
  | .clapReplyReceive src t1 t2 t3 => Sys2Proof.Machine.execClapReplyReceive src t1 t2 t3 s
  | .clapHoldover => Sys2Proof.Machine.execClapHoldover s
  | .pkgLost pkg => Sys2Proof.Machine.execPkgLost pkg s
  | .leadTakeover top => Sys2Proof.Machine.execLeadTakeover top s
  | .takeoverReceive src epoch top => Sys2Proof.Machine.execTakeoverReceive src epoch top s
  | .leaderless => Sys2Proof.Machine.execLeaderless s
  | .fwHeartbeat => Sys2Proof.Machine.execFwHeartbeat s
  | .fwStalled pkg => Sys2Proof.Machine.execFwStalled pkg s
  | .contCheckStart => Sys2Proof.Machine.execContCheckStart s
  | .contReportReceive step pkg incomplete low ce ci v0 v1 v2 v3 => Sys2Proof.Machine.execContReportReceive step pkg incomplete low ce ci v0 v1 v2 v3 s
  | .contDecide => Sys2Proof.Machine.execContDecide s
  | .contDeadline => Sys2Proof.Machine.execContDeadline s
  | .orderReceive src epoch kind replica immediate step pairs blocks => Sys2Proof.Machine.execOrderReceive src epoch kind replica immediate step pairs blocks s
  | .sitoutRequest pkg vats scan => Sys2Proof.Machine.execSitoutRequest pkg s vats scan
  | .rejoinStateReceive src step loss samples seqs => Sys2Proof.Machine.execRejoinStateReceive src step loss samples seqs s
  | .rejoinCopyDone ok blocks => Sys2Proof.Machine.execRejoinCopyDone ok blocks s
  | .wdogHaltReport pkg core => Sys2Proof.Machine.execWdogHaltReport pkg core s
  | .wdogHoldExpire => Sys2Proof.Machine.execWdogHoldExpire s
  | .poisonReportReceive pkg => Sys2Proof.Machine.execPoisonReportReceive pkg s
  | .supTimerExpire => Sys2Proof.Machine.execSupTimerExpire s
  | .mpMemoryUe single => Sys2Proof.Machine.execMpMemoryUe s single
  | .mpRestartDone => Sys2Proof.Machine.execMpRestartDone s
  | .ethLinkUp port modes => Sys2Proof.Machine.execEthLinkUp port modes s
  | .ethLinkDown port => Sys2Proof.Machine.execEthLinkDown port s
  | .ethFrameReceive port uncorr frame => Sys2Proof.Machine.execEthFrameReceive port uncorr frame s
  | .vctCommandArrive port v6 ip udp datagram mac => Sys2Proof.Machine.execVctCommandArrive port v6 ip udp datagram s mac
  | .discover => Sys2Proof.Machine.execDiscover s
  | .getCert => Sys2Proof.Machine.execGetCert s
  | .attest salt => Sys2Proof.Machine.execAttest salt s
  | .keyInstall flashFails => Sys2Proof.Machine.execKeyInstall flashFails s
  | .regAccess => Sys2Proof.Machine.execRegAccess s
  | .memRead => Sys2Proof.Machine.execMemRead s
  | .memWrite => Sys2Proof.Machine.execMemWrite s
  | .load => Sys2Proof.Machine.execLoad s
  | .start => Sys2Proof.Machine.execStart s
  | .halt => Sys2Proof.Machine.execHalt s
  | .subscribe => Sys2Proof.Machine.execSubscribe s
  | .flashWrite flashFails => Sys2Proof.Machine.execFlashWrite flashFails s
  | .svnCommit => Sys2Proof.Machine.execSvnCommit s
  | .noticeSend => Sys2Proof.Machine.execNoticeSend s
  | .forwardedRecordReceive src fifo lost words => Sys2Proof.Machine.execForwardedRecordReceive src fifo lost words s
  | .guestAccess write addr n data => Sys2Proof.Machine.execGuestAccess write addr n data s
  | .guestFrame port => Sys2Proof.Machine.execGuestFrame port s
  | .logFifoDataRead fifo late => Sys2Proof.Machine.execLogFifoDataRead fifo s late
  | .gaffGpioWrite value => Sys2Proof.Machine.execGaffGpioWrite value s
  | .registerWrite offset value host => Sys2Proof.Machine.execRegisterWrite offset value s host
  | .powerUp => Sys2Proof.Machine.execPowerUp s
  | .powerDown => Sys2Proof.Machine.execPowerDown s
  | .rcFieldRead offset => Sys2Proof.Machine.execRcFieldRead offset s
  | .lossReportReceive pkg => Sys2Proof.Machine.execLossReportReceive pkg s
  | .vatResetReport pkg cause => Sys2Proof.Machine.execVatResetReport pkg cause s
  | .vatsReadyReport pkg ok blocks => Sys2Proof.Machine.execVatsReadyReport pkg ok blocks s
  | .swapWantedReport pkg spare => Sys2Proof.Machine.execSwapWantedReport pkg spare s

end Sys2Proof.Machine
end

