-- ==== Sys2Proof/Safety.lean ====
section
/-! DEFINITION. What a safe run is (no step stops, and memory keeps its canonical form), and the terms in which claims
speak: where a command finds its core, engine or unit, and a state of which only a part has changed. -/
namespace Sys2Proof

/-! ### Which commands write -/

/-- Is it a command that may write the addressed memory: a store or block on its way, a load whose staging block is
rewritten (R471), a reset, a host command, an order that resets or loads, a reset that drops what waits? -/
def Instr.mayWrite : Instr → Bool
  | .pwrgdFall .. | .resetAssert .. | .memoryClearDone .. | .powerUp .. | .powerDown .. | .ccloseDrained ..
  | .vatBootDone .. | .fillRefetchDone .. | .memRead .. | .memWrite .. | .load .. | .guestAccess ..
  | .pkgLost .. | .leadTakeover .. | .fwStalled .. | .contDecide .. | .contDeadline .. | .orderReceive ..
  | .sitoutRequest .. | .rejoinCopyDone .. | .wdogHoldExpire .. | .poisonReportReceive ..
  | .lossReportReceive .. | .vatResetReport .. | .vatsReadyReport .. | .memWriteService ..
  | .cellarAccess .. | .ldT .. | .ldPf .. | .ldInv .. | .ldBlockArrive .. | .stT .. | .storeDone ..
  | .stX .. | .xfBlockArrive .. | .stCx .. | .cxBlockArrive .. | .stAadd .. | .stAmax .. | .stAmin ..
  | .pressAtomicPerform .. | .stPress .. | .takeCommitDone .. | .reportArrive .. | .pressSlice ..
  | .fabricRequestArrive .. | .memReadService .. | .vatQuiesceDrained .. | .mpRestartDone .. => true
  | _ => false

/-! ### Where a command finds nothing, or a package that does not act -/

/-- Does a command name a logical core, a physical core, a vat, a stack or pseudo-channel, a port of the network or a die-to-die
module that the package does not have? -/
def Instr.atAbsent (p : Machine.Pkg) : Instr → Bool
  | .callRegister x | .ccloseDrained x | .creditReturn x .. | .fabricRequestArrive x .. | .bundleDispatch x ..
  | .icacheLineArrive x .. | .branchResolve x | .fillRefetchDone x .. | .nop x .. | .mxLdw x .. | .mxMma x ..
  | .mxMmaFold x .. | .mxCmul x .. | .mxOut x .. | .mxTone x .. | .mxCheck x .. | .roomToneWindowEnd x .. | .ldT x ..
  | .ldPf x .. | .ldInv x .. | .ldBlockArrive x .. | .stT x .. | .storeDone x .. | .stX x .. | .xfAck x ..
  | .stCx x .. | .cxAck x .. | .stAadd x .. | .stAmax x .. | .stAmin x .. | .pressAtomicPerform x .. | .stPress x ..
  | .scAdd x .. | .scSub x .. | .scAnd x .. | .scOr x .. | .scXor x .. | .scShl x .. | .scShr x .. | .scSra x ..
  | .scMul x .. | .scMulhu x .. | .scSlt x .. | .scSltu x .. | .scAddi x .. | .scAndi x .. | .scOri x ..
  | .scXori x .. | .scShli x .. | .scShri x .. | .scSrai x .. | .scLih x .. | .scBr x .. | .scBrc x .. | .scBri x ..
  | .scLopen x .. | .scLclose x .. | .lcloseReport x .. | .lcloseOutcome x | .takeCommitDone x | .scStep x ..
  | .stepBoundary x .. | .scEnd x .. | .programEnd x | .scCopen x .. | .scCclose x .. | .scRdsr x .. | .scWrsr x ..
  | .sySig x .. | .syWait x .. | .syDec x .. | .syWtime x .. | .syFence x .. | .signalLeave x .. | .decApply x ..
  | .wtimeExpire x .. | .fenceRelease x .. | .wdogFire x .. | .veAdd x .. | .veSub x .. | .veMul x .. | .veFma x ..
  | .veMax x .. | .veMin x .. | .veRcp x .. | .veRsqrt x .. | .veExp2 x .. | .veLog2 x .. | .veIadd x ..
  | .veIsub x .. | .veImul x .. | .veAnd x .. | .veOr x .. | .veXor x .. | .veSel x .. | .veFcmp x .. | .veIcmp x ..
  | .vePlog x .. | .veIota x .. | .veBcast x .. | .veXs x .. | .veCvt x .. | .veRsum x .. | .veRmax x ..
  | .veRmin x .. | .veRssq x .. | .veCmask x .. | .veOsm x .. | .veTopk x .. | .veKld x .. | .veLds x .. | .veSts x ..
  | .veGath x .. =>
    !p.isCore x.toNat
  | .coreFaultThresh x | .coreCeThresh x | .coreSctDataWrite x .. =>
    !p.isPhys x.toNat
  | .vatPllUnlock x | .vatQuiesceDrained x | .vatResetHoldEnd x | .vatScanDone x .. | .vatBootDone x ..
  | .cellarAccess x .. | .pressOpStart x | .pressSlice x .. | .pressOpDone x =>
    !p.hasVat x.toNat
  | .mcMaintHold x .. | .sppr x .. | .hppr x .. | .laneSoft x .. | .laneHard x .. | .undoSoft x ..
  | .repairResult x .. | .memReadService x .. | .memWriteService x .. | .innerCountPoll x .. | .pinMarked x .. | .rowRetired x ..
  | .rowCopyDone x .. =>
    !p.hasVat (x.toNat / 4)
  | .portTrainDone x .. | .portNoPartner x | .portFlitReceive x .. | .portFlitAck x .. | .portReplayLimit x ..
  | .portRetrainDone x .. | .laneWindowEnd x | .laneFail x .. | .laneSignalLoss x .. | .linkControlBlock x ..
  | .guestPortState x =>
    decide (17 < x.toNat)
  | .d2dFlitReceive x y .. | .d2dFlitAck x y .. | .d2dReplayLimit x y .. | .d2dRetrainDone x y ..
  | .d2dLaneThresh x y .. =>
    decide (p.edgeModules x.toNat ≤ y.toNat)
  | _ => false

/-- Is it a command that also acts on a package without power, in reset or stopped: one of power, of the reset pins, of the brake and
MGPIO pins, of THERMTRIP_N and of the TAP (R543, R547, R551, R552, R555)? -/
def Instr.actsStopped : Instr → Bool
  | .pwrgdFall | .resetAssert | .resetRelease .. | .powerUp | .powerDown | .brakeFall .. | .brakeRise .. | .timeInEdge
  | .thermtrip .. | .jtagInstruction .. => true
  | _ => false

end Sys2Proof

namespace Sys2Proof.Machine

/-- Does a step go on? -/
def goesOn (o : Host.Outcome State Fault Refusal) : Bool :=
  match o with
  | .next _ => true
  | _ => false

/-- The memory of a state is in canonical form. -/
def State.MemOk (s : State) : Prop := s.mem.wf = true

/-- What every step keeps. -/
def State.Inv (s : State) : Prop := s.MemOk

/-! ### Parts of a state changed -/

/-- The state with its package changed by `f`; memory and queue stay. -/
def State.pkgTo (s : State) (f : Pkg → Pkg) : State := { s with pkg := f s.pkg }

/-- The state with physical core `k` changed by `f`; all else stays. -/
def State.coreTo (s : State) (k : Nat) (f : Core → Core) : State := s.pkgTo fun p => p.onCore k f

/-- Physical core `k` of a state. -/
def State.core (s : State) (k : Nat) : Core := s.pkg.core k

/-! ### Where a command acts -/

/-- The package acts, and physical core `k` carries core `id` of it. -/
def State.carries (s : State) (id : BitVec 9) (k : Nat) : Prop :=
  s.pkg.alive = true ∧ s.pkg.isCore id.toNat = true ∧ s.pkg.physOf id.toNat = some k

/-- Core `id` runs on physical core `k`. -/
def State.running (s : State) (id : BitVec 9) (k : Nat) : Prop := s.carries id k ∧ (s.core k).st = .run

/-- The slot `bits` of opcode `opc` is the SC op of the bundle last dispatched on core `id`; `e` carries it. -/
def State.scNext (s : State) (id : BitVec 9) (k opc : Nat) (bits : BitVec 64) (e : Entry) : Prop :=
  s.running id k ∧ opcOf bits.toNat = opc ∧ (s.core k).fe.sc = some e ∧ e.bits = bits.toNat

/-- The slot `bits` of opcode `opc` is the op at the head of an engine's queue, and the engine is not held at a gate;
`e` carries it. -/
def State.opNext (s : State) (id : BitVec 9) (k : Nat) (eng : Eng) (opc bits : Nat) (e : Entry) (rest : List Entry) : Prop :=
  s.running id k ∧ (s.core k).heldAt eng = false ∧ (s.core k).queue eng = e :: rest ∧ e.kind = .op ∧ e.bits = bits ∧
    opcOf bits = opc

/-- The package once the op at the head of an engine's queue has left it and issues `wait` cc after the first cc that R60
allows. -/
def State.issued (s : State) (k : Nat) (eng : Eng) (wait : Nat) : Pkg :=
  (s.pkg.onCore k fun c => c.popQ eng).issueAt k eng wait

/-- The package once the op at the head of the queue of the load or store engine has left it. -/
def State.moved (s : State) (k : Nat) (eng : Eng) : Pkg := s.pkg.onCore k fun c => c.popQ eng

/-- The package once the op at the head of the matrix engine's queue has left it and issues at `wait`: a throttle gap of WINDOW cc
has ended the active regions (R157), its arrays are admitted to new ones (R548). -/
def State.mxIssued (s : State) (k wait : Nat) (arrs : List Nat) : Pkg := ((s.issued k .mx wait).gapEnds k).letIn k arrs

/-- The op at the head of the matrix engine's queue issues at `wait`: its resources are free from cc `free c` on (R144), the
engine is not held (R146, R150), every array is admitted. -/
def State.mxClear (s : State) (k wait : Nat) (free : Core → Nat) (arrs : List Nat) : Prop :=
  let c := (s.pkg.onCore k fun c => c.popQ .mx).core k
  free c ≤ c.ccOf .mx + wait ∧ ((s.issued k .mx wait).core k).mxHeld = false ∧
    (s.mxIssued k wait arrs).toAdmit k arrs = []

/-- The load engine waits for no line that is fetched again (R68). -/
def Core.ldClear (c : Core) : Prop := ∀ l, c.ldWait = some l → c.refetch.contains l = false

/-- The engine holds a credit (R33). -/
def State.credit (s : State) (k : Nat) (eng : Eng) : Prop := (s.core k).hasCredit eng = true

/-- No protected unit of memory holds an error. -/
def State.sound (s : State) : Prop := s.pkg.flaws = [] ∧ s.pkg.skew = []

/-- The package once the op at the head of a move engine's queue has left it and memory has served its descriptor reads (R363); none
while one of them waits. -/
def State.served (s : State) (k : Nat) (eng : Eng) (opc : Nat) (e : Entry) : Option Pkg :=
  if descInMemory opc e.bits then (s.moved k eng).descServed s.mem k true (scal e.sc (moveOp e.bits).sdesc)
  else some (s.moved k eng)

/-- The engine has a credit for each of `n` requests, and none of its requests waits for one (R32). -/
def Core.sends (c : Core) (eng : Eng) (n : Nat) : Prop :=
  (∀ r ∈ c.unsent, r.eng ≠ eng) ∧ tget 0 c.spent eng.key + n ≤ creditDepth ∧ c.flightOf c.issueNo = none

/-- A read at `a` opens its data for a core: program memory of a READY vat under no maintenance hold, or the staging SRAM. -/
def Pkg.readable (p : Pkg) (a : Nat) : Prop :=
  (∃ v, p.place a = .user v ∧ p.vatReady v = true ∧ p.held (stackOf a) = false) ∨ ∃ n, p.place a = .staging n

/-- The fill partition has ways, and its counts are as R74 gives them. -/
def Core.fillSound (c : Core) (k : Nat) : Prop := 0 < c.fillWays (isDirKey k) ∧ ∀ x ∈ c.fill, x.2.cnt ≤ 15

/-- Program memory of a READY vat, under no maintenance hold and in no cave: a write there is performed. -/
def Pkg.writable (p : Pkg) (a : Nat) : Prop :=
  ∃ v, p.place a = .user v ∧ p.vatReady v = true ∧ p.held (stackOf a) = false ∧ p.inCave a = false

/-! ### What an SC op leaves -/

/-- The core once its SC op has executed. -/
def Core.scDone (c : Core) : Core := { c with fe := { c.fe with sc := none } }

/-- The core with scalar register `r` holding `w`; s0 takes no value. -/
def Core.sTo (c : Core) (r : Nat) (w : Word) : Core := { c with s := if r = 0 then c.s else tset 0 c.s r w }

/-- The core with what holds its front end. -/
def Core.holdTo (c : Core) (h : Hold) : Core := { c with fe := { c.fe with hold := h } }

/-- A scalar operand as a word: s0 reads as 0. -/
def Entry.s (e : Entry) (r : Nat) : Word := if r = 0 then 0 else tget 0 e.sc r

end Sys2Proof.Machine
end

