-- ==== Sys2Proof/Certificates/Slice0/Obligations.lean ====
section
/-! DEFINITION. The statements about the model: what each family of commands does, where a command completes, what
every step keeps. -/

open Sys2Proof Sys2Proof.Machine

/-! ### The machine -/

/-- A step with a command in front runs that command on the rest of the queue. -/
def Obligations.StepRunsFront : Prop :=
  ∀ (c : Instr) (rest : List Instr) (s : State),
    step { s with pending := c :: rest } = exec c { s with pending := rest }

/-- Every command, in every state and with every operand, answers a next state that leaves the queue as it found it; none
stops and none is refused (the model's choice, log entries 1 and 2: no rule says what a command does at an absent unit
or on a package that does not act). A command that performs no write leaves memory as it is. Commands that complete
here: every constructor of Instr. -/
def Obligations.CommandOutcomes : Prop :=
  ∀ (c : Instr) (s : State),
    ∃ t, exec c s = .next t ∧ t.pending = s.pending ∧ (c.mayWrite = false → t.mem = s.mem)

/-- Every command that names a logical or physical core, a vat, a stack or pseudo-channel, a port of the network or a die-
to-die module that the package does not have reaches nothing and changes nothing (the model's choice, log entry 2). A
package that is unpowered, held in reset, or stopped changes nothing (the model's choice, log entry 1): no command but
those of power, of the reset pins, of the brake, MGPIO and THERMTRIP_N pins and of the TAP, and no step on an empty
queue. -/
def Obligations.AbsentAndStopped : Prop :=
  (∀ (c : Instr) (s : State), c.atAbsent s.pkg = true → exec c s = .next s) ∧
  ((∀ (s : State), s.pkg.alive = false → step { s with pending := [] } = .next { s with pending := [] }) ∧
  ∀ (c : Instr) (s : State), s.pkg.alive = false → c.actsStopped = false → exec c s = .next s)

/-- R566–R568, R570 (the log FIFOs): a record that fits enters its FIFO whole, behind what it holds; one that does not is
dropped whole and counted in LOST; a read takes the oldest word, among `late` that entered in its own hub cycle none.
Commands that complete here, with the effect stated: LOG_FIFO_DATA_READ. -/
def Obligations.LogRecords : Prop :=
  (∀ (p : Pkg) (f : Nat) (ws : List Nat), f < 4 →
    ((p.fifo f).length + ws.length ≤ p.fifoDepth f → (p.pushFifo f ws).fifo f = p.fifo f ++ ws.map (BitVec.ofNat 64) ∧
      (p.pushFifo f ws).getF F.LOG_FIFO_STAT.LOST f = p.getF F.LOG_FIFO_STAT.LOST f ∧
      (p.getF F.LOG_FIFO_CFG.LEVEL f ≠ 0 → (p.fifo f).length < p.getF F.LOG_FIFO_CFG.LEVEL f →
        p.getF F.LOG_FIFO_CFG.LEVEL f ≤ (p.fifo f).length + ws.length →
        (p.pushFifo f ws).flag F.LOG_FIFO_STAT.IRQ f = true)) ∧
    (p.fifoDepth f < (p.fifo f).length + ws.length → (p.pushFifo f ws).fifo f = p.fifo f ∧
      (p.pushFifo f ws).getF F.LOG_FIFO_STAT.LOST f =
        satAdd (F.LOG_FIFO_STAT.LOST.hi + 1 - F.LOG_FIFO_STAT.LOST.lo) (p.getF F.LOG_FIFO_STAT.LOST f) 1) ∧
    ∀ g, g ≠ f → (p.pushFifo f ws).fifo g = p.fifo g) ∧
  (∀ (s : State) (f : BitVec 2), s.pkg.fwOn = true →
    (∀ w q, s.pkg.fifo f.toNat = w :: q → exec (.logFifoDataRead f) s =
      .next (s.pkgTo fun p => { p with fifos := tset [] p.fifos f.toNat q, fwWord := w })) ∧
    ∀ late, (s.pkg.fifo f.toNat).length ≤ late →
      exec (.logFifoDataRead f late) s = .next (s.pkgTo fun p => { p with fwWord := 0 }))

/-- What reset leaves: no command waits, memory lists nothing and keeps its canonical form, every register of the CSR
space holds its reset value, every FIFO and message list is empty, and RESET_N is low. The registers whose reset value
the spec does not give, what memory reads as before its clear, and the fuses and pins of the part are the model's
choice (log entries 7, 8, 9, 10 and 22). -/
def Obligations.ResetState : Prop :=
  State.reset.pending = [] ∧ State.reset.mem = [] ∧ State.reset.Inv ∧
  (∀ r i, State.reset.pkg.reg r i = resetReg Fuse.trm416 r i) ∧ (∀ f, State.reset.pkg.fifo f = []) ∧
  State.reset.pkg.tx = [] ∧ State.reset.pkg.time = 0 ∧ State.reset.pkg.alive = false ∧
  (∀ v, (State.reset.pkg.vat v).st ≠ .ready) ∧ ∀ k, (State.reset.pkg.core k).st ≠ .run

/-- Memory keeps its canonical form at every step, of every command, from every state that has it. -/
def Obligations.StepKeepsInv : Prop :=
  ∀ (s t : State), s.Inv → step s = .next t → t.Inv

/-- R49, R513 over all commands: no command changes a fused value, but for the lowest firmware version, which never falls.
The fuses that RESET_N_RELEASE names are read on a part that holds none yet, without a root-key hash (the model's
choice, log entry 155). -/
def Obligations.FusesKept : Prop :=
  ∀ (c : Instr) (s t : State), exec c s = .next t → (∀ b f g, c = .resetRelease b f (some g) → s.pkg.fuse.rootHash ≠ 0) →
    t.pkg.fuse = { s.pkg.fuse with minSvn := t.pkg.fuse.minSvn } ∧ s.pkg.fuse.minSvn ≤ t.pkg.fuse.minSvn ∧
    (c ≠ .svnCommit → t.pkg.fuse = s.pkg.fuse)

/-- R433, R436 over all commands: while the clapper is not FREE, no command but those that reset or remove power from the
package sets it back. -/
def Obligations.ClapperNeverFalls : Prop :=
  ∀ (c : Instr) (s t : State), exec c s = .next t → s.pkg.getF F.CLAP_STAT.STATE 0 ≠ 0 →
    c ≠ .resetAssert → c ≠ .pwrgdFall → c ≠ .powerUp → c ≠ .powerDown → s.pkg.time ≤ t.pkg.time

/-! ### Front end and scalar ops (02, 05) -/

/-- R167, with the table of R166: every R-form and I-form op. Commands that complete here, with the effect stated: SC_ADD,
SC_SUB, SC_AND, SC_OR, SC_XOR, SC_SHL, SC_SHR, SC_SRA, SC_MUL, SC_MULHU, SC_SLT, SC_SLTU, SC_ADDI, SC_ANDI, SC_ORI,
SC_XORI, SC_SHLI, SC_SHRI, SC_SRAI, SC_LIH. -/
def Obligations.ScalarArithmetic : Prop :=
  (∀ q ∈ ([(.scAdd, 0x01, fun a b => a + b), (.scSub, 0x02, fun a b => a - b), (.scAnd, 0x03, fun a b => a &&& b),
      (.scOr, 0x04, fun a b => a ||| b), (.scXor, 0x05, fun a b => a ^^^ b),
      (.scShl, 0x06, fun a b => a <<< (b.toNat % 64)), (.scShr, 0x07, fun a b => a >>> (b.toNat % 64)),
      (.scSra, 0x08, fun a b => a.sshiftRight (b.toNat % 64)), (.scMul, 0x09, fun a b => a * b),
      (.scMulhu, 0x0A, fun a b => BitVec.ofNat 64 (a.toNat * b.toNat / 2 ^ 64)),
      (.scSlt, 0x0B, fun a b => if a.slt b then 1 else 0), (.scSltu, 0x0C, fun a b => if a.ult b then 1 else 0)] :
        List ((BitVec 9 → BitVec 64 → Instr) × Nat × (Word → Word → Word))),
    ∀ (s : State) (id : BitVec 9) (k : Nat) (bits : BitVec 64) (e : Entry), s.scNext id k q.2.1 bits e →
      exec (q.1 id bits) s = .next (s.coreTo k fun c => c.scDone.sTo (fld bits.toNat 12 8)
        (q.2.2 (e.s (fld bits.toNat 17 13)) (e.s (fld bits.toNat 22 18))))) ∧
  (∀ q ∈ ([(.scAddi, 0x10, fun a i => a + i.signExtend 64), (.scAndi, 0x11, fun a i => a &&& i.signExtend 64),
      (.scOri, 0x12, fun a i => a ||| i.signExtend 64), (.scXori, 0x13, fun a i => a ^^^ i.signExtend 64),
      (.scShli, 0x14, fun a i => a <<< (i.toNat % 64)), (.scShri, 0x15, fun a i => a >>> (i.toNat % 64)),
      (.scSrai, 0x16, fun a i => a.sshiftRight (i.toNat % 64)), (.scLih, 0x17, fun a i => i ++ a.setWidth 32)] :
        List ((BitVec 9 → BitVec 64 → Instr) × Nat × (Word → BitVec 32 → Word))),
    ∀ (s : State) (id : BitVec 9) (k : Nat) (bits : BitVec 64) (e : Entry), s.scNext id k q.2.1 bits e →
      exec (q.1 id bits) s = .next (s.coreTo k fun c => c.scDone.sTo (fld bits.toNat 12 8)
        (q.2.2 (e.s (fld bits.toNat 17 13)) (BitVec.ofNat 32 (fld bits.toNat 63 32)))))

/-- R172, R168: a branch that passed its dispatch check holds fetch for its target, or for the next bundle; BRANCH_RESOLVE
moves the pointer there. R182–R184: SC.STEP and SC.END hold dispatch; a drained core's step boundary raises STEP_NO by
1, and the end of its program halts it with cause 0x1. Commands that complete here, with the effect stated:
BRANCH_RESOLVE, SC_BR, SC_BRC, SC_BRI, SC_STEP, STEP_BOUNDARY, SC_END, PROGRAM_END. -/
def Obligations.ControlFlow : Prop :=
  ((∀ (s : State) (id : BitVec 9) (k : Nat) (bits : BitVec 64) (e : Entry),
    (s.scNext id k 0x20 bits e → exec (.scBr id bits) s = .next (s.coreTo k fun c =>
      c.scDone.holdTo (.branch ((e.idx : Int) + (BitVec.ofNat 32 (fld bits.toNat 63 32)).toInt).toNat))) ∧
    (s.scNext id k 0x22 bits e → exec (.scBri id bits) s = .next (s.coreTo k fun c =>
      c.scDone.holdTo (.branch (e.s (fld bits.toNat 15 11)).toNat))) ∧
    ∀ q ∈ ([(0, fun a b => a == b), (1, fun a b => a != b), (2, fun a b => a.slt b), (3, fun a b => b.sle a),
        (4, fun a b => a.ult b), (5, fun a b => b.ule a)] : List (Nat × (Word → Word → Bool))),
      s.scNext id k 0x21 bits e → fld bits.toNat 10 8 = q.1 → exec (.scBrc id bits) s = .next (s.coreTo k fun c =>
        c.scDone.holdTo (.branch (if q.2 (e.s (fld bits.toNat 15 11)) (e.s (fld bits.toNat 20 16))
          then ((e.idx : Int) + (BitVec.ofNat 32 (fld bits.toNat 63 32)).toInt).toNat else e.idx + 1)))) ∧
  (∀ (s : State) (id : BitVec 9) (k t : Nat), s.running id k → (s.core k).fe.hold = .branch t →
    exec (.branchResolve id) s = .next (s.coreTo k fun c =>
      { c with fe := { c.fe with ptr := t, hold := .free } }))) ∧
  ((∀ (s : State) (id : BitVec 9) (k : Nat) (bits : BitVec 64) (e : Entry), s.scNext id k 0x32 bits e →
    s.pkg.flag F.CORE_BRACKET.OPEN k = false →
    exec (.scStep id bits) s = .next (s.coreTo k fun c => c.scDone.holdTo (.step e.slate))) ∧
  (∀ (s : State) (id : BitVec 9) (k : Nat) (bits : BitVec 64) (e : Entry), s.scNext id k 0x32 bits e →
    s.pkg.flag F.CORE_BRACKET.OPEN k = true →
    exec (.scStep id bits) s = .next (s.pkgTo fun p => (p.onCore k Core.scDone).skipOp k .fe 1 bits.toNat e.slate e.idx
      e.brk 0x22 (slotDetail .fe bits.toNat))) ∧
  (∀ (s : State) (id : BitVec 9) (k : Nat) (bits : BitVec 64) (e : Entry), s.scNext id k 0x33 bits e →
    exec (.scEnd id bits) s = .next (s.coreTo k fun c => c.scDone.holdTo (.ending e.slate))) ∧
  (∀ (s : State) (id : BitVec 9) (k slate : Nat), s.running id k → (s.core k).fe.hold = .ending slate →
    (s.core k).drained = true → s.pkg.getF F.CLAP_CONT_STATE.STATE 0 = 0 →
    ∃ t, exec (.programEnd id) s = .next t ∧ (t.core k).st = .halt ∧ (t.core k).halt = 1 ∧ (t.core k).fe.hold = .free ∧
      t.pkg.flag F.CORE_BRACKET.OPEN k = false ∧ t.mem = s.mem) ∧
  (∀ (s : State) (id : BitVec 9) (k slate : Nat), s.running id k → (s.core k).fe.hold = .step slate →
    (s.core k).drained = true → s.pkg.orders = [] → s.pkg.lead.donate = [] → s.pkg.lead.join = none → s.pkg.swap = none →
    s.pkg.getF F.CLAP_CONT_STATE.STATE 0 = 0 →
    ∃ t, exec (.stepBoundary id .none) s = .next t ∧ t.mem = s.mem ∧ (t.core k).fe.hold = .free ∧
      t.pkg.reg .CORE_STEP k = s.pkg.reg .CORE_STEP k + 1 ∧ (t.core k).s = (s.core k).s))

/-- R170, R171, R312: a special register read; LOSS written, and its first write of a step on the loss watch's source core
taken as its sample. Commands that complete here, with the effect stated: SC_RDSR, SC_WRSR. -/
def Obligations.SpecialRegisters : Prop :=
  (∀ (s : State) (id : BitVec 9) (k : Nat) (bits : BitVec 64) (e : Entry) (w : Nat),
    s.scNext id k 0x38 bits e → s.pkg.logicalOf k = some id.toNat →
    (fld bits.toNat 16 13, w) ∈ [(0, id.toNat), (1, (s.pkg.reg .CORE_STEP k).toNat), (2, s.pkg.time),
      (3, s.pkg.getF F.CORE_BRACKET.OPEN k * 2 ^ 24 + s.pkg.getF F.CORE_BRACKET.GROUP k * 2 ^ 16 +
        s.pkg.getF F.CORE_BRACKET.LAYER k), (4, s.pkg.fuse.grade), (5, (s.core k).fe.seq), (6, (s.core k).fe.loss)] →
    exec (.scRdsr id bits) s =
      .next (s.coreTo k fun c => c.scDone.sTo (fld bits.toNat 12 8) (BitVec.ofNat 64 w))) ∧
  (∀ (s : State) (id : BitVec 9) (k : Nat) (bits : BitVec 64) (e : Entry), s.scNext id k 0x39 bits e →
    ∃ t, exec (.scWrsr id bits) s = .next t ∧ t.mem = s.mem ∧ t.pending = s.pending ∧
      (t.core k).fe.loss = (e.s (fld bits.toNat 22 18)).toNat % 2 ^ 32 ∧ (t.core k).s = (s.core k).s ∧
      t.pkg.lossQ = if s.pkg.flag F.NUM_LOSS_CFG.EN 0 = true ∧
          s.pkg.logicalOf k = some (s.pkg.getF F.NUM_LOSS_CFG.SRC 0) ∧
          (s.core k).fe.lossStep ≠ some (s.pkg.reg .CORE_STEP k).toNat
        then s.pkg.lossQ ++ [((s.pkg.reg .CORE_STEP k).toNat, (e.s (fld bits.toNat 22 18)).toNat % 2 ^ 32, e.slate)]
        else s.pkg.lossQ)

/-- R177, R178: SC.LOPEN opens a bracket; nested, it is skipped and the open bracket stays as it is. R178, R223: an
accepted SC.LCLOSE holds dispatch; with the bracket's ops complete their results land, the flags are sampled, CLOSING
is set and the report leaves; the outcome is taken; and with the take's rinds written sd gets the outcome word, the
bracket closes and dispatch goes on. An outcome of no retry gives every block of the take its rind, with the invalid
mark where it is tainted; a retry leaves memory as it is. Commands that complete here, with the effect stated:
SC_LOPEN, SC_LCLOSE, LCLOSE_REPORT, LCLOSE_OUTCOME, TAKE_COMMIT_DONE. -/
def Obligations.LayerBrackets : Prop :=
  (∀ (s : State) (id : BitVec 9) (k : Nat) (bits : BitVec 64) (e : Entry), s.scNext id k 0x30 bits e →
    (s.pkg.flag F.CORE_BRACKET.OPEN k = false → s.pkg.logicalOf k = some id.toNat →
      s.pkg.grpValid (fld bits.toNat 55 48) = true → s.pkg.isMember (fld bits.toNat 55 48) id.toNat = true →
      ∃ t, exec (.scLopen id bits) s = .next t ∧ t.mem = s.mem ∧ t.pkg.flag F.CORE_BRACKET.OPEN k = true ∧
        t.pkg.getF F.CORE_BRACKET.GROUP k = fld bits.toNat 55 48 ∧
        t.pkg.getF F.CORE_BRACKET.LAYER k = fld bits.toNat 47 32 ∧
        t.pkg.flag F.CORE_CVT_FLAGS.OVF_STICKY k = false ∧ t.pkg.flag F.CORE_CVT_FLAGS.NF_STICKY k = false ∧
        t.pkg.flag F.CORE_IFAULT.SKIP_STICKY k = false ∧ (t.core k).fe.sc = none ∧ (t.core k).fe.hold = (s.core k).fe.hold ∧
        (t.core k).s = (s.core k).s) ∧
    (s.pkg.flag F.CORE_BRACKET.OPEN k = true →
      exec (.scLopen id bits) s = .next (s.pkgTo fun p => (p.onCore k Core.scDone).skipOp k .fe 1 bits.toNat e.slate e.idx
        e.brk 0x20 (slotDetail .fe bits.toNat)))) ∧
  ((∀ (s : State) (id : BitVec 9) (k : Nat) (bits : BitVec 64) (e : Entry), s.scNext id k 0x31 bits e →
    s.pkg.flag F.CORE_BRACKET.OPEN k = true → s.pkg.getF F.CORE_BRACKET.LAYER k = fld bits.toNat 47 32 →
    exec (.scLclose id bits) s = .next (s.coreTo k fun c => c.scDone.holdTo (.lclose (fld bits.toNat 12 8) e.slate))) ∧
  (∀ (s : State) (id : BitVec 9) (k sd slate : Nat), s.running id k → (s.core k).fe.hold = .lclose sd slate →
    (s.core k).bracketDone = true → s.pkg.logicalOf k = some id.toNat →
    let p := s.pkg.landAll k
    ∃ t r, exec (.lcloseReport id .none) s = .next t ∧ t.pkg.reps = s.pkg.reps ++ [r] ∧ r.core = id.toNat ∧ r.slate = slate ∧
      r.layer = p.getF F.CORE_BRACKET.LAYER k ∧ r.group = p.getF F.CORE_BRACKET.GROUP k ∧
      r.step = (p.reg .CORE_STEP k).toNat ∧ r.ovf = p.flag F.CORE_CVT_FLAGS.OVF_STICKY k ∧
      r.nf = p.flag F.CORE_CVT_FLAGS.NF_STICKY k ∧ r.skip = p.flag F.CORE_IFAULT.SKIP_STICKY k ∧
      r.touched = (p.core k).touched ∧ t.pkg.flag F.CORE_BRACKET.CLOSING k = true ∧ (t.core k).fe.hold = .outcome sd slate ∧ t.mem = s.mem) ∧
  (∀ (s : State) (id : BitVec 9) (k sd slate : Nat) (o : OutMsg), s.running id k →
    (s.core k).fe.hold = .outcome sd slate → s.pkg.outs.find? (fun o => some o.core == s.pkg.logicalOf k) = some o →
    ∃ t, exec (.lcloseOutcome id) s = .next t ∧ (t.core k).fe.hold = .take sd o.word slate ∧
      t.pkg.outs = s.pkg.outs.erase o ∧ t.mem = s.mem) ∧
  (∀ (s : State) (id : BitVec 9) (k sd word slate : Nat), s.running id k →
    (s.core k).fe.hold = .take sd word slate →
    ∃ t, exec (.takeCommitDone id) s = .next t ∧ (t.core k).fe.hold = .free ∧ (t.core k).take = [] ∧
      (t.core k).s = ((s.core k).sTo sd (BitVec.ofNat 64 word)).s ∧
      t.pkg.flag F.CORE_BRACKET.OPEN k = false ∧ t.pkg.flag F.CORE_BRACKET.CLOSING k = false ∧
      (word % 4 ≠ 0 → t.mem = s.mem ∧ t.pkg.crinds = s.pkg.crinds) ∧
      (word % 4 = 0 → s.MemOk → s.sound → Tab.risesFrom 0 (s.core k).take = true →
        (∀ x ∈ (s.core k).take, s.pkg.writable (x.1 * 4096)) →
        (∀ x ∈ (s.core k).take, (⟨t.mem, t.pkg⟩ : Dev).rind (x.1 * 4096) =
          (if x.2.taint then invalidMark x.2.rind else x.2.rind) % 2 ^ 32) ∧
        ∀ a, (∀ x ∈ (s.core k).take, a < rindEntry (x.1 * 4096) ∨ rindEntry (x.1 * 4096) + 4 ≤ a) →
          t.mem.byte a = s.mem.byte a)))

/-- R192, R163, R55: a malformed bundle dispatches empty and counts as one skip; a well-formed one places exactly the
entries its slots need behind those that wait; either moves the pointer and the sequence number on by one. R77, R361:
the instruction line that the front end waits for, or the next one fetched ahead of it, arrives from memory, once its
pseudo-channel serves it. R163, R191: the NOP entry at the head of an engine's queue issues. Commands that complete
here, with the effect stated: BUNDLE_DISPATCH, ICACHE_LINE_ARRIVE, NOP. -/
def Obligations.FrontEnd : Prop :=
  (∀ (s : State) (id : BitVec 9) (k : Nat) (l : IcLine), s.running id k → (s.core k).feFree = true →
    (s.core k).fe.ptr < (s.core k).hdr.bundles →
    let a := (s.core k).hdr.text + 64 * (s.core k).fe.ptr
    let b := bundleIn l.data a
    tfind (s.core k).ic (a / 512) = some l →
    let bad := fld b 27 24 ≠ 1 ∨ fld b 63 28 ≠ 0 ∨ fld b 23 22 ≠ 0
    (bad → ∃ t, exec (.bundleDispatch id .none) s = .next t ∧ t.mem = s.mem ∧ (t.core k).fe.ptr = (s.core k).fe.ptr + 1 ∧
      (t.core k).fe.seq = (s.core k).fe.seq + 1 ∧ (∀ e, (t.core k).queue e = (s.core k).queue e) ∧
      (t.core k).qSy = (s.core k).qSy ∧ (t.core k).fe.sc = none ∧
      t.pkg.getF F.CORE_IFAULT.SKIPS k = satAdd 32 (s.pkg.getF F.CORE_IFAULT.SKIPS k) 1) ∧
    (¬ bad → (∀ x, (slotsOf b).sc = some x → aloneOp (opcOf x) = false) → (s.core k).room (slotsOf b) = true →
      ∃ t, exec (.bundleDispatch id .none) s = .next t ∧ t.mem = s.mem ∧ (t.core k).fe.ptr = (s.core k).fe.ptr + 1 ∧
        (t.core k).fe.seq = (s.core k).fe.seq + 1 ∧
        (∀ e ∈ [Eng.ve, .mx, .ld, .st], ∃ new, (t.core k).queue e = (s.core k).queue e ++ new ∧
          new.length = (slotsOf b).need e) ∧
        ∃ new, (t.core k).qSy = (s.core k).qSy ++ new ∧ new.length = (slotsOf b).need .sy)) ∧
  (∀ (s : State) (id : BitVec 9) (k ln v : Nat) (ahead : Bool), s.running id k →
    (ahead = false ∧ (s.core k).fe.miss = some ln ∨ ahead = true ∧ (s.core k).fe.miss = none ∧
      (s.core k).fetchStops = false ∧ ln = (s.core k).lineOf (s.core k).fe.ptr + 1 ∧ thas (s.core k).ic ln = false ∧
      ln * 512 < (s.core k).hdr.text + 64 * (s.core k).hdr.bundles) →
    s.pkg.place (ln * 512) = .user v → ∀ q, s.pkg.direct 7 false false (ln * 512) 512 = some q →
    q.vatReady v = true → q.held (stackOf (ln * 512)) = false → q.badRange (ln * 512) 512 = false →
    ∃ t, exec (.icacheLineArrive id ahead) s = .next t ∧ t.mem = s.mem ∧ (t.core k).fe.miss = none ∧
      tfind (t.core k).ic ln = some ⟨BitVec.ofNat 4096 (ofLe (s.mem.view q (ln * 512) 512)), (s.core k).tick⟩ ∧
      ∀ j, j ≠ k → t.core j = s.core j) ∧
  (∀ (s : State) (id : BitVec 9) (k : Nat) (slot : BitVec 3) (bits : BitVec 96) (eng : Eng) (e : Entry) (rest : List Entry),
    s.running id k → Eng.ofSlot slot.toNat = some eng → eng ∈ [Eng.ve, .mx, .ld, .st] → (s.core k).heldAt eng = false →
    (s.core k).queue eng = e :: rest → e.kind = .nop →
    exec (.nop id slot bits) s = .next (s.coreTo k fun c => c.popQ eng))

/-- R80, R83–R90: CORE_FAULT and CE thresholds; a swap requested, which of an idle or halted core starts at once, a swap
started and done. Commands that complete here, with the effect stated: CORE_FAULT_THRESH, CORE_CE_THRESH,
CORE_SWAP_REQUEST, CORE_SWAP_START, CORE_SWAP_DONE. -/
def Obligations.CoreSwap : Prop :=
  (∀ (s : State) (id : BitVec 9) (kind slate : Nat), s.pkg.alive = true → s.pkg.isPhys id.toNat = true →
    tfind s.pkg.faultBy id.toNat = some (kind, slate) → s.pkg.flag F.CORE_FAULT.SWAP_WANTED id.toNat = false →
    ∃ t, exec (.coreFaultThresh id) s = .next t ∧ t.mem = s.mem ∧
      t.pkg.flag F.CORE_FAULT.SWAP_WANTED id.toNat = true) ∧
  (∀ (s : State) (id : BitVec 9) (kind : Nat), s.pkg.alive = true → s.pkg.isPhys id.toNat = true →
    tfind s.pkg.ceBy id.toNat = some kind → kind ≠ 255 →
    exec (.coreCeThresh id) s = .next (s.pkgTo fun p => ({ p with ceBy := tins p.ceBy id.toNat 255 }).event 0x4014
      (id.toNat / 128) kind true (id.toNat % 128) 0 (id.toNat % 128))) ∧
  (∀ (s : State) (spare : BitVec 7) (id : BitVec 9) (r : Nat), s.carries id r → isDirIdx (id.toNat % 128) = false →
    s.pkg.swap = none → spare.toNat < 100 → (s.core (id.toNat / 128 * 128 + spare.toNat)).st = .spare →
    s.pkg.vatReady (id.toNat / 128) = true →
    let still := (s.core r).st = .idle ∨ (s.core r).st = .halt
    ∃ t, exec (.coreSwapRequest spare id) s = .next t ∧ t.mem = s.mem ∧ t.pkg.flag F.CORE_SWAP.PENDING 0 = true ∧
      (¬ still → t.pkg.swap = some ⟨id.toNat, id.toNat / 128 * 128 + spare.toNat, false, (s.core r).st⟩) ∧
      (still → t.pkg.swap = some ⟨id.toNat, id.toNat / 128 * 128 + spare.toNat, true, (s.core r).st⟩ ∧
        (t.core r).st = .swap)) ∧
  (∀ (s : State) (w : SwapReq) (r : Nat), s.pkg.alive = true → s.pkg.swap = some w → w.running = false →
    s.pkg.physOf w.logical = some r → (s.core r).swapPoint = true → w.spare ≠ r →
    s.pkg.vatReady (w.logical / 128) = true → (s.core w.spare).st = .spare →
    ∃ t, exec .coreSwapStart s = .next t ∧ t.mem = s.mem ∧ (t.core w.spare).st = .swap ∧ (t.core r).st = .swap ∧
      (t.core w.spare).s = (s.core r).s ∧ (t.core w.spare).p = (s.core r).p ∧ (t.core w.spare).sem = (s.core r).sem ∧
      (t.core w.spare).sct = (s.core r).sct ∧ (t.core w.spare).hdr = (s.core r).hdr ∧
      (t.core w.spare).fe.ptr = (s.core r).fe.ptr ∧ (t.core w.spare).fe.loss = (s.core r).fe.loss ∧
      t.pkg.reg .CORE_BRACKET w.spare = s.pkg.reg .CORE_BRACKET r ∧
      t.pkg.swap = some { w with running := true, st := (s.core r).st }) ∧
  (∀ (s : State) (w : SwapReq) (r : Nat), s.pkg.alive = true → s.pkg.swap = some w → w.running = true →
    (s.pkg.vat (w.logical / 128)).st ≠ .quiesce → s.pkg.physOf w.logical = some r → w.spare ≠ r → (s.core r).held = [] → s.pkg.getF F.CLAP_CONT_STATE.STATE 0 = 0 →
    isDirIdx (w.logical % 128) = false → w.spare % 128 ≠ 0x7F →
    ∃ t, exec .coreSwapDone s = .next t ∧ t.mem = s.mem ∧ (t.core w.spare).st = w.st ∧ (t.core r).st = .retired ∧
      t.pkg.swap = none ∧ t.pkg.physOf w.logical = some (w.logical / 128 * 128 + w.spare % 128))

/-! ### The vector engine (07) -/

/-- R236, R237, R242–R245, R251: a lane-wise op computes its active lanes, ZM zeroes or keeps the others, and the result
joins those on their way with the op's latency; no register changes before. Commands that complete here, with the
effect stated: VE_ADD, VE_SUB, VE_MUL, VE_FMA, VE_MAX, VE_MIN, VE_RCP, VE_RSQRT, VE_EXP2, VE_LOG2, VE_IADD, VE_ISUB,
VE_IMUL, VE_AND, VE_OR, VE_XOR. -/
def Obligations.VectorLanes : Prop :=
  ∀ q ∈ ([(.veAdd, 0x60, 4, 2, fun a b _ => (encFP 0 ((dec32 a).add (dec32 b))).bits),
      (.veSub, 0x61, 4, 2, fun a b _ => (encFP 0 ((dec32 a).sub (dec32 b))).bits),
      (.veMul, 0x62, 4, 2, fun a b _ => (encFP 0 ((dec32 a).mul (dec32 b))).bits),
      (.veFma, 0x63, 5, 3, fun a b c => (encFP 0 (((dec32 a).mul (dec32 b)).add (dec32 c))).bits),
      (.veMax, 0x64, 4, 2, fun a b _ => (encFP 0 ((dec32 a).max (dec32 b))).bits),
      (.veMin, 0x65, 4, 2, fun a b _ => (encFP 0 ((dec32 a).min (dec32 b))).bits),
      (.veRcp, 0x66, 12, 1, fun a _ _ => (encFP 0 (recipV (dec32 a))).bits),
      (.veRsqrt, 0x67, 12, 1, fun a _ _ => (encFP 0 (rsqrtV (dec32 a))).bits),
      (.veExp2, 0x68, 12, 1, fun a _ _ => (encFP 0 (exp2V (dec32 a))).bits),
      (.veLog2, 0x69, 12, 1, fun a _ _ => (encFP 0 (log2V (dec32 a))).bits),
      (.veIadd, 0x70, 4, 2, fun a b _ => (BitVec.ofNat 32 a + BitVec.ofNat 32 b).toNat),
      (.veIsub, 0x71, 4, 2, fun a b _ => (BitVec.ofNat 32 a - BitVec.ofNat 32 b).toNat),
      (.veImul, 0x72, 4, 2, fun a b _ => (BitVec.ofNat 32 a * BitVec.ofNat 32 b).toNat),
      (.veAnd, 0x73, 4, 2, fun a b _ => (BitVec.ofNat 32 a &&& BitVec.ofNat 32 b).toNat),
      (.veOr, 0x74, 4, 2, fun a b _ => (BitVec.ofNat 32 a ||| BitVec.ofNat 32 b).toNat),
      (.veXor, 0x75, 4, 2, fun a b _ => (BitVec.ofNat 32 a ^^^ BitVec.ofNat 32 b).toNat)] :
        List ((BitVec 9 → BitVec 96 → SramErr → Nat → Instr) × Nat × Nat × Nat × (Nat → Nat → Nat → Nat))),
  ∀ (s : State) (id : BitVec 9) (k wait : Nat) (bits : BitVec 96) (e : Entry) (rest : List Entry),
    s.opNext id k .ve q.2.1 bits.toNat e rest →
    let x := veOp bits.toNat
    let p := s.issued k .ve wait
    let c := p.core k
    let va := lanesOf (c.vreg x.va)
    let vb := lanesOf (c.vreg x.vb)
    let vc := lanesOf (c.vreg x.vc)
    let old := lanesOf (c.vreg x.vd)
    let keep := x.pen && !x.zm
    let lane (l : Nat) : Nat :=
      if c.active x l then q.2.2.2.2 (va.getD l 0) (vb.getD (if x.bb then x.bl else l) 0) (vc.getD l 0)
      else if x.zm then 0 else old.getD l 0
    let taint := p.vTaint k x.va || (2 ≤ q.2.2.2.1 && p.vTaint k x.vb) || (3 ≤ q.2.2.2.1 && p.vTaint k x.vc) ||
      (x.pen && p.pTaint k x.pg)
    let lanes := BitVec.ofNat 64 (if keep then c.preg x.pg else 2 ^ 64 - 1)
    ∃ t, exec (q.1 id bits .none wait) s = .next t ∧ t.mem = s.mem ∧ t.pending = s.pending ∧
      (t.core k).v = c.v ∧ (t.core k).p = c.p ∧ (t.core k).s = c.s ∧ (t.core k).queue .ve = rest ∧
      (t.core k).late = lateInsert ⟨.ve, c.ccOf .ve + q.2.2.1,
        .vreg x.vd lanes (ofLanes ((List.range 64).map lane)) taint keep⟩ c.late

/-- R62, R238, R236: a result that lands replaces the lanes its mask names, all others keep what they hold; every other
register of the core stays. -/
def Obligations.VectorResultLands : Prop :=
  ∀ (p : Pkg) (k n : Nat) (due : Nat) (lanes : BitVec 64) (val : BitVec 2048) (taint keep : Bool), n < 64 →
    let q := p.landOne k ⟨.ve, due, .vreg n lanes val taint keep⟩
    (∀ l, l < 64 → (lanesOf ((q.core k).vreg n)).getD l 0 =
      if lanes.getLsbD l then (lanesOf val.toNat).getD l 0 else (lanesOf ((p.core k).vreg n)).getD l 0) ∧
    (∀ j, j ≠ n → (q.core k).vreg j = (p.core k).vreg j) ∧ (q.core k).p = (p.core k).p ∧ (q.core k).s = (p.core k).s ∧
    q.vTaint k n = (taint || (keep && p.vTaint k n)) ∧ ∀ j, j ≠ n → j < 64 → q.vTaint k j = p.vTaint k j

/-- R241, R251, R256: compares, predicate ops and VE.CMASK give a bit for each lane, tainted by the registers they read
(VE.PLOG by both of its sources whatever its function: the model's choice, log entry 150). R236, R240, R246, R249,
R251: VE.SEL and the reductions write every lane, VE.IOTA, VE.BCAST and VE.LDS the active ones, ZM zeroing or keeping
the others; the result is on its way with the op's latency and the taint of what it reads. Commands that complete
here, with the effect stated: VE_SEL, VE_FCMP, VE_ICMP, VE_PLOG, VE_IOTA, VE_BCAST, VE_RSUM, VE_RMAX, VE_RMIN,
VE_RSSQ, VE_CMASK, VE_LDS. -/
def Obligations.VectorResults : Prop :=
  (∀ q ∈ ([(.veFcmp, 0x78, fun _ _ x a b _ => fcmp x.sub (dec32 a) (dec32 b), fun p k x => p.vTaint k x.va || p.vTaint k x.vb),
      (.veIcmp, 0x79, fun _ _ x a b _ => icmp x.sub a b, fun p k x => p.vTaint k x.va || p.vTaint k x.vb),
      (.vePlog, 0x7A, fun _ c x _ _ l => plog x.sub (bitOf (c.preg (x.va % 8)) l) (bitOf (c.preg (x.vb % 8)) l),
        fun p k x => p.pTaint k (x.va % 8) || p.pTaint k (x.vb % 8)),
      (.veCmask, 0x90, fun e _ x _ _ l =>
        let j := sc32 e x.sb + l
        j ≤ sc32 e x.sa && (sc32 e x.sc == 0 || sc32 e x.sa - j < sc32 e x.sc) && j ≤ 8388607, fun _ _ _ => false)] :
        List ((BitVec 9 → BitVec 96 → SramErr → Nat → Instr) × Nat ×
          (Entry → Core → VeOp → Nat → Nat → Nat → Bool) × (Pkg → Nat → VeOp → Bool))),
  ∀ (s : State) (id : BitVec 9) (k wait : Nat) (bits : BitVec 96) (e : Entry) (rest : List Entry),
    s.opNext id k .ve q.2.1 bits.toNat e rest →
    let x := veOp bits.toNat
    let p := s.issued k .ve wait
    let c := p.core k
    let va := lanesOf (c.vreg x.va)
    let vb := lanesOf (c.vreg x.vb)
    let keep := x.pen && !x.zm
    let lanes := BitVec.ofNat 64 (if keep then c.preg x.pg else 2 ^ 64 - 1)
    let taint := q.2.2.2 p k x || (x.pen && p.pTaint k x.pg)
    ∃ t val, exec (q.1 id bits .none wait) s = .next t ∧ t.mem = s.mem ∧ (t.core k).v = c.v ∧ (t.core k).p = c.p ∧
      (t.core k).queue .ve = rest ∧
      (t.core k).late = lateInsert ⟨.ve, c.ccOf .ve + 4, .preg x.pd lanes val taint keep⟩ c.late ∧
      ∀ l, l < 64 → val.getLsbD l = if c.active x l then
          q.2.2.1 e c x (va.getD l 0) (vb.getD (if x.bb then x.bl else l) 0) l
        else if x.zm then false else bitOf (c.preg x.pd) l) ∧
  (∀ q ∈ ([(.veSel, 0x77, 4, true, fun _ c x l =>
        if bitOf (c.preg x.pg) l then (lanesOf (c.vreg x.va)).getD l 0
        else (lanesOf (c.vreg x.vb)).getD (if x.bb then x.bl else l) 0,
        fun p k _ x => p.vTaint k x.va || p.vTaint k x.vb || p.pTaint k x.pg),
      (.veIota, 0x7C, 4, false, fun e c x l => if c.active x l then (sc32 e x.sa + l) % 2 ^ 32
        else if x.zm then 0 else (lanesOf (c.vreg x.vd)).getD l 0, fun p k _ x => x.pen && p.pTaint k x.pg),
      (.veBcast, 0x7D, 4, false, fun e c x l => if c.active x l then sc32 e x.sa
        else if x.zm then 0 else (lanesOf (c.vreg x.vd)).getD l 0, fun p k _ x => x.pen && p.pTaint k x.pg),
      (.veRsum, 0x84, 10, true, fun _ c x _ => (encFP 0 (treeParts partAdd 6 ((List.range 64).map fun l =>
        if c.active x l then (dec32 ((lanesOf (c.vreg x.va)).getD l 0), false) else (.fin true 0 0, false))).1).bits,
        fun p k _ x => p.vTaint k x.va || (x.pen && p.pTaint k x.pg)),
      (.veRmax, 0x85, 8, true, fun _ c x _ => (encFP 0 (treeParts (fun a b => (a.1.max b.1, false)) 6 ((List.range 64).map fun l =>
        if c.active x l then (dec32 ((lanesOf (c.vreg x.va)).getD l 0), false) else (.inf true, false))).1).bits,
        fun p k _ x => p.vTaint k x.va || (x.pen && p.pTaint k x.pg)),
      (.veRmin, 0x86, 8, true, fun _ c x _ => (encFP 0 (treeParts (fun a b => (a.1.min b.1, false)) 6 ((List.range 64).map fun l =>
        if c.active x l then (dec32 ((lanesOf (c.vreg x.va)).getD l 0), false) else (.inf false, false))).1).bits,
        fun p k _ x => p.vTaint k x.va || (x.pen && p.pTaint k x.pg)),
      (.veRssq, 0x87, 12, true, fun _ c x _ => (encFP 0 (treeParts partAdd 6 ((List.range 64).map fun l =>
        if c.active x l then
          (let v := dec32 ((lanesOf (c.vreg x.va)).getD l 0)
           let y := encFP 0 (v.mul v)
           (dec32 y.bits, v.isFin && y.ovf)) else (.fin true 0 0, false))).1).bits,
        fun p k _ x => p.vTaint k x.va || (x.pen && p.pTaint k x.pg)),
      (.veLds, 0xA0, 6, false, fun e c x l => if c.active x l then (lanesOf (ofLe (c.scrRead (sc32 e x.sa) 256))).getD l 0
        else if x.zm then 0 else (lanesOf (c.vreg x.vd)).getD l 0,
        fun p k e x => (p.core k).scrTainted (((List.range 64).filter ((p.core k).active x ·)).map fun l => ⟨sc32 e x.sa + 4 * l, 4⟩) ||
          (x.pen && p.pTaint k x.pg))] :
        List ((BitVec 9 → BitVec 96 → SramErr → Nat → Instr) × Nat × Nat × Bool × (Entry → Core → VeOp → Nat → Nat) ×
          (Pkg → Nat → Entry → VeOp → Bool))),
  ∀ (s : State) (id : BitVec 9) (k wait : Nat) (bits : BitVec 96) (e : Entry) (rest : List Entry),
    s.opNext id k .ve q.2.1 bits.toNat e rest →
    let x := veOp bits.toNat
    let p := s.issued k .ve wait
    let c := p.core k
    let keep := !q.2.2.2.1 && x.pen && !x.zm
    let lanes := BitVec.ofNat 64 (if keep then c.preg x.pg else 2 ^ 64 - 1)
    ∃ t, exec (q.1 id bits .none wait) s = .next t ∧ t.mem = s.mem ∧ (t.core k).v = c.v ∧
      (t.core k).p = c.p ∧ (t.core k).queue .ve = rest ∧
      (t.core k).late = lateInsert ⟨.ve, c.ccOf .ve + q.2.2.1,
        .vreg x.vd lanes (ofLanes ((List.range 64).map (q.2.2.2.2.1 e c x))) (q.2.2.2.2.2 p k e x) keep⟩ c.late)

/-- R249, R251: VE.GATH gathers words of scratch by lane, when every active lane's word lies in it; else it is skipped
with code 0x1810. R249, R252: VE.STS has 256 bytes of scratch on their way to its address. R250, R253: VE.XS moves a
lane into a scalar register at once; a tainted register gives the canonical NaN and counts. Commands that complete
here, with the effect stated: VE_XS, VE_STS, VE_GATH. -/
def Obligations.VectorScratch : Prop :=
  (∀ (s : State) (id : BitVec 9) (k wait : Nat) (bits : BitVec 96) (e : Entry) (rest : List Entry),
    s.opNext id k .ve 0xA2 bits.toNat e rest →
    let x := veOp bits.toNat
    let p := s.issued k .ve wait
    let c := p.core k
    let va := lanesOf (c.vreg x.va)
    let addr (l : Nat) : Nat := sc32 e x.sa + 4 * va.getD l 0
    let keep := x.pen && !x.zm
    let lanes := BitVec.ofNat 64 (if keep then c.preg x.pg else 2 ^ 64 - 1)
    let taint := p.vTaint k x.va || c.scrTainted (((List.range 64).filter (c.active x ·)).map fun l => ⟨addr l, 4⟩) ||
      (x.pen && p.pTaint k x.pg)
    ((∀ l, l < 64 → c.active x l = true → addr l + 4 ≤ p.scratch k) →
      ∃ t, exec (.veGath id bits .none wait) s = .next t ∧ t.mem = s.mem ∧ (t.core k).v = c.v ∧ (t.core k).p = c.p ∧
        (t.core k).queue .ve = rest ∧
        (t.core k).late = lateInsert ⟨.ve, c.ccOf .ve + 12, .vreg x.vd lanes (ofLanes ((List.range 64).map fun l =>
          if c.active x l then ofLe (c.scrRead (addr l) 4) else if x.zm then 0 else (lanesOf (c.vreg x.vd)).getD l 0))
          taint keep⟩ c.late) ∧
    (∀ l, l < 64 → c.active x l = true → p.scratch k < addr l + 4 →
      (∀ j, j < l → c.active x j = true → addr j + 4 ≤ p.scratch k) →
      exec (.veGath id bits .none wait) s = .next { s with pkg := p.skipHead k .ve e 0x1810 (addr l / 512) })) ∧
  (∀ (s : State) (id : BitVec 9) (k wait : Nat) (bits : BitVec 96) (e : Entry) (rest : List Entry),
    s.opNext id k .ve 0xA1 bits.toNat e rest →
    let x := veOp bits.toNat
    let p := s.issued k .ve wait
    let c := p.core k
    ∃ t, exec (.veSts id bits .none wait) s = .next t ∧ t.mem = s.mem ∧ (t.core k).scr = c.scr ∧ (t.core k).v = c.v ∧
      (t.core k).queue .ve = rest ∧
      (t.core k).late = lateInsert ⟨.ve, c.ccOf .ve + 6,
        .scr [(sc32 e x.sa, 256)] (leBytes 256 (c.vreg x.va)) (p.vTaint k x.va)⟩ c.late) ∧
  (∀ (s : State) (id : BitVec 9) (k wait : Nat) (bits : BitVec 96) (e : Entry) (rest : List Entry),
    s.opNext id k .ve 0x7E bits.toNat e rest →
    let x := veOp bits.toNat
    let p := s.issued k .ve wait
    let c := p.core k
    ∃ t, exec (.veXs id bits .none wait) s = .next t ∧ t.mem = s.mem ∧ (t.core k).v = c.v ∧ (t.core k).p = c.p ∧
      (t.core k).s = (c.sTo x.sa (BitVec.ofNat 64
        (if p.vTaint k x.va then 0x7FC00000 else (lanesOf (c.vreg x.va)).getD x.bl 0))).s ∧
      t.pkg.getF F.CORE_VE_STAT.XS_TAINT k = satAdd (F.CORE_VE_STAT.XS_TAINT.hi + 1 - F.CORE_VE_STAT.XS_TAINT.lo)
        (p.getF F.CORE_VE_STAT.XS_TAINT k) (b2n (p.vTaint k x.va)))

/-- R248, R251, R289: VE.CVT converts a row; with BLK the scales go to vc, which keeps them where it is vd. R251,
R257–R259: VE.OSM, VE.TOPK and VE.KLD over the active lanes, their results written whole, tainted by every register
they read. A running list of VE.TOPK that holds a NaN has no stated order: the entries of its merge are free values
(the model's choice, log entry 23). Commands that complete here, with the effect stated: VE_CVT, VE_OSM, VE_TOPK,
VE_KLD. -/
def Obligations.VectorTraining : Prop :=
  (∀ (s : State) (id : BitVec 9) (k wait : Nat) (bits : BitVec 96) (e : Entry) (rest : List Entry),
    s.opNext id k .ve 0x80 bits.toNat e rest →
    let x := veOp bits.toNat
    let p := s.issued k .ve wait
    let c := p.core k
    let a := sc32 e x.sa
    let row := encRow x.fmt x.blk x.bsz (if bitOf a 8 then (c.ent (a % 256)).ceiling else none)
      (cvtSource x (c.vreg x.va) (c.vreg x.vb))
    let taint := p.vTaint k x.va || (x.blk2 && p.vTaint k x.vb)
    let put (n w : Nat) (l : List Late) : List Late := lateInsert ⟨.ve, c.ccOf .ve + 6,
      .vreg n (BitVec.ofNat 64 (2 ^ 64 - 1)) (BitVec.ofNat 2048 w) taint false⟩ l
    ∃ t, exec (.veCvt id bits .none wait) s = .next t ∧ t.mem = s.mem ∧ (t.core k).v = c.v ∧ (t.core k).p = c.p ∧
      (t.core k).queue .ve = rest ∧ (t.core k).late =
        if x.blk then put x.vc row.scales (put x.vd (if x.vd = x.vc then row.scales else row.data) c.late)
        else put x.vd row.data c.late) ∧
  (∀ (s : State) (id : BitVec 9) (k wait : Nat) (bits : BitVec 96) (e : Entry) (rest : List Entry),
    let x := veOp bits.toNat
    let p := s.issued k .ve wait
    let c := p.core k
    let va := lanesOf (c.vreg x.va)
    let vb := lanesOf (c.vreg x.vb)
    let act := (List.range 64).filter (c.active x ·)
    let pg := x.pen && p.pTaint k x.pg
    let put (due n : Nat) (w : List Nat) (taint : Bool) (l : List Late) : List Late := lateInsert ⟨.ve, c.ccOf .ve + due,
      .vreg n (BitVec.ofNat 64 (2 ^ 64 - 1)) (ofLanes w) taint false⟩ l
    let both (due : Nat) (d w : List Nat) (taint : Bool) : List Late :=
      put due x.vc w taint (put due x.vd (if x.vd = x.vc then w else d) taint c.late)
    let fp (v : FV) : FV := dec32 (encFP 0 v).bits
    (s.opNext id k .ve 0x91 bits.toNat e rest →
      let old := lanesOf (c.vreg x.vc)
      let sc := dec32 (sc32 e x.sa)
      let m0 := if x.init then FV.inf true else dec32 (old.getD 0 0)
      let l0 := if x.init then FV.fin false 0 0 else dec32 (old.getD 1 0)
      let m1 := act.foldl (fun acc l => acc.max (dec32 (va.getD l 0))) m0
      let pow (a b : FV) : FV := fp (exp2V (fp ((fp (a.sub b)).mul sc)))
      let ps := (List.range 64).map fun l => if c.active x l then pow (dec32 (va.getD l 0)) m1 else .fin false 0 0
      let l1 := (l0.mul (pow m0 m1)).add (treeParts partAdd 6 (ps.map fun v => (v, false))).1
      let taint := p.vTaint k x.va || pg || (!x.init && p.vTaint k x.vc)
      let tail := List.replicate 61 0
      ∃ t, exec (.veOsm id bits .none wait) s = .next t ∧ t.mem = s.mem ∧ (t.core k).v = c.v ∧ (t.core k).p = c.p ∧
        (t.core k).queue .ve = rest ∧ (t.core k).late = if m1 = .inf true
          then both 40 (List.replicate 64 0) ([(encFP 0 m0).bits, (encFP 0 l0).bits, 0x3F800000] ++ tail) taint
          else both 40 (ps.map fun v => (encFP 0 v).bits)
            ([(encFP 0 m1).bits, (encFP 0 (fp l1)).bits, (encFP 0 (pow m0 m1)).bits] ++ tail) taint) ∧
    (s.opNext id k .ve 0x92 bits.toNat e rest →
      let n := x.bl + 1
      let pad := List.replicate 64 ((0xFF800000, 0xFFFFFFFF) : Nat × Nat)
      let old := if x.init then pad.take n
        else ((lanesOf (c.vreg x.vd)).take n).zip ((lanesOf (c.vreg x.vc)).take n)
      let cands := (act.filter fun l => !(dec32 (va.getD l 0)).isNaN).map fun l => (va.getD l 0, sc32 e x.sa + l)
      let out := (((cands ++ old).foldl (fun acc y => topInsert y acc) []).take n ++ pad).take 64
      let some_ (i : Nat) : List Nat := (lanesOf (Config.freeValue i % 2 ^ 2048)).take n
      let taint := p.vTaint k x.va || pg || (!x.init && (p.vTaint k x.vd || p.vTaint k x.vc))
      ∃ t, exec (.veTopk id bits .none wait) s = .next t ∧ t.mem = s.mem ∧ (t.core k).v = c.v ∧ (t.core k).p = c.p ∧
        (t.core k).queue .ve = rest ∧ (t.core k).late = if old.any fun y => (dec32 y.1).isNaN
          then both 24 ((some_ p.free ++ pad.map (·.1)).take 64) ((some_ (p.free + 1) ++ pad.map (·.2)).take 64) taint
          else both 24 (out.map (·.1)) (out.map (·.2)) taint) ∧
    (s.opNext id k .ve 0x93 bits.toNat e rest →
      let ts := (List.range 64).map fun l =>
        if c.active x l then kldTerm (dec32 (va.getD l 0)) (dec32 (vb.getD (if x.bb then x.bl else l) 0))
        else Trk.of (.fin true 0 0)
      let old := if x.init then FV.fin true 0 0 else dec32 ((lanesOf (c.vreg x.vd)).getD 0 0)
      let y := fp (old.add (treeParts partAdd 6 (ts.map fun q => (q.v, false))).1)
      let taint := p.vTaint k x.va || p.vTaint k x.vb || pg || (!x.init && p.vTaint k x.vd)
      ∃ t, exec (.veKld id bits .none wait) s = .next t ∧ t.mem = s.mem ∧ (t.core k).v = c.v ∧ (t.core k).p = c.p ∧
        (t.core k).queue .ve = rest ∧
        (t.core k).late = put 30 x.vd (List.replicate 64 (encFP 0 y).bits) taint c.late))

/-! ### The matrix engine (04) -/

/-- R127, R129, R139, R140: MX.LDW fills the shadow buffer of its array from its source; active buffers and accumulators
stay. Commands that complete here, with the effect stated: MX_LDW. -/
def Obligations.MatrixWeightsLoaded : Prop :=
  ∀ (s : State) (id : BitVec 9) (k wait : Nat) (bits : BitVec 96) (e : Entry) (rest : List Entry),
    s.opNext id k .mx 0x10 bits.toNat e rest →
    let x := ldwOp bits.toNat
    let c := (s.mxIssued k wait []).core k
    let rs := ldwRuns x e.sc
    s.mxClear k wait (fun c => max (tget 0 c.mxFree (4 + x.arr))
      (c.commitCc fun y => y.folds [] [x.arr] || y.tags.contains (x.arr, (c.shaBuf x.arr).tag))) [] →
    c.foldBusy [] [x.arr] = false → c.tagBusy x.arr (c.shaBuf x.arr).tag = false →
    (x.fill = true → c.absent (linesOf rs) = []) →
    ∃ t, exec (.mxLdw id bits .none wait) s = .next t ∧ t.mem = s.mem ∧ (t.core k).queue .mx = rest ∧
      (t.core k).act = c.act ∧ (t.core k).acc = c.acc ∧ (t.core k).scr = c.scr ∧ (t.core k).v = c.v ∧
      (t.core k).shaBuf x.arr = wbufOf x.fmt x.blk x.bsz x.trunc
        ((rs.take (x.km1 + 1)).map fun q => ofLe (c.srcRead x.fill q))
        ((rs.drop (x.km1 + 1)).map (fun q => (chunksOf 64 q.len (c.srcRead x.fill q)).map ofLe)).flatten
        (c.srcTainted x.fill rs) (c.issueNo + 2) ∧
      ∀ a, a ≠ x.arr → (t.core k).shaBuf a = c.shaBuf a

/-- R126, R132–R137, R141, R148: MX.MMA computes a row for every array of its mask and every activation row, from the
buffers it uses and, with ACC, the bank's old row; the rows are held until its check. R142: MX.CMUL drives two arrays,
with GAUSS three, for a row of the real part in array 0's bank and one of the imaginary part in array 1's. R153–R155:
the fold form computes a row for every column group, on alternating arrays, and every activation row, its K tiles in
ascending order, with ACC from the bank's old row; it goes in flight and the rows are held until its check. Commands
that complete here, with the effect stated: MX_MMA, MX_MMA_FOLD, MX_CMUL. -/
def Obligations.MatrixProducts : Prop :=
  (∀ (s : State) (id : BitVec 9) (k wait : Nat) (bits : BitVec 96) (e : Entry) (rest : List Entry),
    s.opNext id k .mx 0x11 bits.toNat e rest → bitOf bits.toNat 8 = false →
    let x := mmaOp bits.toNat
    let as := arraysOf x.amask
    let c := (s.mxIssued k wait as).core k
    let rs := mmaRuns x e.sc
    s.mxClear k wait (fun c => max (c.streamFree as x.swap)
      (c.commitCc (·.folds (as.map fun a => a * 8 + x.bank) as))) as →
    c.foldBusy (as.map fun a => a * 8 + x.bank) as = false →
    (∀ a ∈ as, (c.usedBuf x.swap a).fits x.fmt x.blk x.bsz = true) → (x.fill = true → c.absent (linesOf rs) = []) →
    ∃ t r, exec (.mxMma id bits .none wait) s = .next t ∧ t.mem = s.mem ∧ (t.core k).queue .mx = rest ∧
      (t.core k).acc = c.acc ∧ (t.core k).scr = c.scr ∧ (t.core k).v = c.v ∧
      (t.core k).flight = c.flight ++ [⟨c.issueNo, .mx, 0x11, e.slate, e.idx, e.brk, .mx r⟩] ∧
      r.banks = as.map (fun a => a * 8 + x.bank) ∧ r.arrs = as ∧ r.fresh = !x.acc ∧ r.fold = false ∧
      ∀ a ∈ as, ∀ i, i ≤ x.mm1 →
        let q := (c.actRows x.fill rs (x.mm1 + 1)).getD i (0, 0)
        tfind r.rows ((a * 8 + x.bank) * 64 + i) = some (packAcc (outRow x.fmt (!x.acc) (asAcc (c.accRow a x.bank i))
          fun col => elemChunks x.fmt x.blk x.bsz x.trunc (c.usedBuf x.swap a)
            (actVals x.fmt x.blk x.bsz q.1 q.2 (kTile x.fmt)) col))) ∧
  (∀ (s : State) (id : BitVec 9) (k wait : Nat) (bits : BitVec 96) (e : Entry) (rest : List Entry),
    s.opNext id k .mx 0x12 bits.toNat e rest →
    let x := cmulOp bits.toNat
    let as := if x.gauss then [0, 1, 2] else [0, 1]
    let c := (s.mxIssued k wait as).core k
    let rs := cmulRuns x e.sc
    let n := x.mm1 + 1
    let per := n + (if x.blk then 1 else 0)
    s.mxClear k wait (fun c => max (c.streamFree as x.swap) (c.commitCc (·.folds [x.bank, 8 + x.bank] as))) as →
    c.foldBusy [x.bank, 8 + x.bank] as = false →
    (∀ a ∈ as, (c.usedBuf x.swap a).fits x.fmt x.blk x.bsz = true) → (x.fill = true → c.absent (linesOf rs) = []) →
    ∃ t r, exec (.mxCmul id bits .none wait) s = .next t ∧ t.mem = s.mem ∧ (t.core k).queue .mx = rest ∧
      (t.core k).acc = c.acc ∧ (t.core k).scr = c.scr ∧ (t.core k).v = c.v ∧
      (t.core k).flight = c.flight ++ [⟨c.issueNo, .mx, 0x12, e.slate, e.idx, e.brk, .mx r⟩] ∧
      r.banks = [x.bank, 8 + x.bank] ∧ r.arrs = as ∧ r.fresh = !x.acc ∧
      ∀ i, i ≤ x.mm1 →
        let acts (j : Nat) : List FV :=
          let q := (c.actRows x.fill ((rs.drop (j * per)).take per) n).getD i (0, 0)
          actVals x.fmt x.blk x.bsz q.1 q.2 (kTile x.fmt)
        let ch (a j col : Nat) := elemChunks x.fmt x.blk x.bsz false (c.usedBuf x.swap a) (acts j) col
        tfind r.rows (x.bank * 64 + i) = some (packAcc (outRow x.fmt (!x.acc) (asAcc (c.accRow 0 x.bank i)) fun col =>
          if x.gauss then joinChunks (ch 0 0 col) (negChunks (ch 2 2 col))
          else joinChunks (ch 0 0 col) (negChunks (ch 1 1 col)))) ∧
        tfind r.rows ((8 + x.bank) * 64 + i) = some (packAcc (outRow x.fmt (!x.acc) (asAcc (c.accRow 1 x.bank i)) fun col =>
          if x.gauss then joinChunks (ch 0 0 col) (ch 1 1 col) else joinChunks (ch 1 0 col) (ch 0 1 col)))) ∧
  (∀ (s : State) (id : BitVec 9) (k wait : Nat) (bits : BitVec 96) (e : Entry) (rest : List Entry),
    s.opNext id k .mx 0x11 bits.toNat e rest → bitOf bits.toNat 8 = true →
    let x := foldOp bits.toNat
    let banks := (List.range (x.nt + 1)).map fun j => j % 2 * 8 + (x.bank + j / 2)
    let arrs := if x.nt = 0 then [0] else [0, 1]
    let c := (s.mxIssued k wait arrs).core k
    s.mxClear k wait (fun c => max (c.streamFree arrs true) (c.commitCc (·.folds banks arrs))) arrs →
    c.foldBusy banks arrs = false → (x.wfill = true → c.absent (linesOf (foldWRuns x e.sc)) = []) →
    (x.afill = true → c.absent (linesOf (foldARuns x e.sc)) = []) →
    let kt := kTile x.fmt
    let n := 64 * (x.nt + 1)
    let wrows := ((foldWRuns x e.sc).take (kt * (x.kt + 1))).map fun q => ofLe (c.srcRead x.wfill q)
    let wsc := ofLe (((foldWRuns x e.sc).drop (kt * (x.kt + 1))).map fun q => c.srcRead x.wfill q).flatten
    let rows := c.actRows x.afill (foldARuns x e.sc) (x.mm1 + 1)
    let per := if x.blk then kt / blkLen x.bsz else 0
    let tile (j u : Nat) : WBuf := wbufOf x.fmt x.blk x.bsz x.trunc
      ((List.range kt).map fun i => subRow x.fmt (wrows.getD (u * kt + i) 0) (64 * j) 64)
      ((List.range per).map fun i => (wsc >>> (8 * ((u * per + i) * n + 64 * j))) % 2 ^ 512)
      (c.srcTainted x.wfill (foldWRuns x e.sc)) (c.issueNo + 2)
    let acts (i u : Nat) : List FV :=
      let q := rows.getD i (0, 0)
      actVals x.fmt x.blk x.bsz (subRow x.fmt q.1 (u * kt) kt) (q.2 >>> (8 * (u * per))) kt
    ∃ t r, exec (.mxMmaFold id bits .none wait) s = .next t ∧ t.mem = s.mem ∧ (t.core k).queue .mx = rest ∧
      (t.core k).acc = c.acc ∧ (t.core k).scr = c.scr ∧ (t.core k).v = c.v ∧
      (t.core k).flight = c.flight ++ [⟨c.issueNo + 1, .mx, 0x11, e.slate, e.idx, e.brk, .mx r⟩] ∧
      r.banks = banks ∧ r.arrs = arrs ∧ r.fresh = !x.acc ∧ r.fold = true ∧
      ∀ j i, j ≤ x.nt → i ≤ x.mm1 →
        tfind r.rows ((j % 2 * 8 + (x.bank + j / 2)) * 64 + i) = some (packAcc ((List.range (x.kt + 1)).foldl (fun old u =>
          outRow x.fmt (!x.acc && u == 0) old fun col => elemChunks x.fmt x.blk x.bsz x.trunc (tile j u) (acts i u) col)
          (asAcc (c.accRow (j % 2) (x.bank + j / 2) i)))))

/-- R146, R148–R152: a check without a mismatch leaves the oldest open op to commit at its cc; a mismatch recomputes its
units, each counted, and stops the engine's issue until no op is in flight, when every op commits; one pass that
mismatches again raises its array's counters and taints the banks it adds into. What a disturbance adds, that
RECOMPUTES counts units, and the later commit by the recompute's time are the model's choice (log entries 118 and
120). R156–R159: MX.TONE sets the window and the enable; the end of a region counts room tone up to the window, adds
the cycles of its taper that no other taper counted (the first of the 64: the model's choice, log entry 126), and
clears the array's bit. Commands that complete here, with the effect stated: MX_TONE, MX_CHECK, ROOM_TONE_WINDOW_END. -/
def Obligations.MatrixChecks : Prop :=
  (∀ (s : State) (id : BitVec 9) (k : Nat) (f : Flight) (x : MxRun) (first again : List MxUpset), s.carries id k →
    (s.core k).mxOpen = some (f, x) → (s.core k).lateMx = [] → (s.core k).mxStop = false →
    let rest := (s.core k).flight.filter (fun g => g.no != f.no)
    let redone := x.redone first
    let z := x.upset (x.final redone first again)
    let y : MxRun := { z with due := z.due + maxOf (x.arrs.map (x.redoCc redone)) }
    let acc := y.rows.foldl (fun a q => tset 0 a q.1 q.2) (s.core k).acc
    ∃ t, exec (.mxCheck id first again) s = .next t ∧ t.mem = s.mem ∧ (t.core k).flight.map (·.no) = rest.map (·.no) ∧
      (t.core k).v = (s.core k).v ∧
      (t.core k).scr = (s.core k).scr ∧ (t.core k).s = (s.core k).s ∧
      t.pkg.getF F.CORE_MX_STAT.RECOMPUTES k = satAdd (F.CORE_MX_STAT.RECOMPUTES.hi + 1 - F.CORE_MX_STAT.RECOMPUTES.lo)
        (s.pkg.getF F.CORE_MX_STAT.RECOMPUTES k) redone.length ∧
      (redone = [] → (t.core k).mxStop = false ∧ (t.core k).flight = rest ∧
        (y.due ≤ (s.core k).ccOf .mx ∨ (s.core k).st ≠ .run → (t.core k).acc = acc) ∧
        ((s.core k).ccOf .mx < y.due → (s.core k).st = .run →
          (t.core k).acc = (s.core k).acc ∧ (t.core k).lateMx = [⟨y, [], f.brk⟩])) ∧
      (redone ≠ [] → ({ s.core k with flight := rest } : Core).mxOpen.isNone = false →
        (t.core k).mxStop = true ∧ (t.core k).acc = (s.core k).acc) ∧
      (redone ≠ [] → ({ s.core k with flight := rest } : Core).mxOpen = none →
        (t.core k).mxStop = false ∧ (t.core k).acc = acc ∧ (t.core k).lateMx = [] ∧
        ∀ q, x.failed redone again = [q] → q.1.arr < 4 →
          t.pkg.getF (arrFault q.1.arr) k = satAdd 16 (s.pkg.getF (arrFault q.1.arr) k) 1 ∧
          t.pkg.getF F.CORE_FAULT.ARRAY_FAULTS k = satAdd
            (F.CORE_FAULT.ARRAY_FAULTS.hi + 1 - F.CORE_FAULT.ARRAY_FAULTS.lo) (s.pkg.getF F.CORE_FAULT.ARRAY_FAULTS k) 1 ∧
          ∀ i ∈ x.banks, i < 32 → i ∈ q.1.outs.map (·.1) → bitOf (t.pkg.getF F.CORE_MX_TAINT.TAINT k) i = true)) ∧
  ((∀ (s : State) (id : BitVec 9) (k wait : Nat) (bits : BitVec 96) (e : Entry) (rest : List Entry),
    s.opNext id k .mx 0x14 bits.toNat e rest → s.mxClear k wait (fun _ => 0) [] →
    ∃ t, exec (.mxTone id bits .none wait) s = .next t ∧ t.mem = s.mem ∧ (t.core k).queue .mx = rest ∧
      t.pkg.getF F.CORE_MX_TONE.WINDOW k = min 256 (fld bits.toNat 17 9) ∧
      t.pkg.getF F.CORE_MX_TONE.EN k = fld bits.toNat 8 8 ∧
      (fld bits.toNat 8 8 = 0 → t.pkg.getF F.CORE_MX_TONE.ACTIVE k = 0)) ∧
  (∀ (s : State) (id : BitVec 9) (k : Nat) (a : BitVec 2) (cc : BitVec 16), s.carries id k →
    bitOf (s.pkg.getF F.CORE_MX_TONE.ACTIVE k) a.toNat = true →
    let ends := tget 0 (s.core k).mxFree a.toNat + s.pkg.getF F.CORE_MX_TONE.WINDOW k
    let p := s.pkg.toneTo k ends
    ∃ t, exec (.roomToneWindowEnd id a cc) s = .next t ∧ t.mem = s.mem ∧
      bitOf (t.pkg.getF F.CORE_MX_TONE.ACTIVE k) a.toNat = false ∧
      t.pkg.getF F.CORE_MX_STAT.TONE_CC k = satAdd (F.CORE_MX_STAT.TONE_CC.hi + 1 - F.CORE_MX_STAT.TONE_CC.lo)
        (p.getF F.CORE_MX_STAT.TONE_CC k) ((p.core k).toneNew [(ends, ends + min 64 cc.toNat)])))

/-- R109–R118, R143, R146: MX.OUT converts its rows; they are written its latency after issue, into scratch with their
scales or into vector registers. Commands that complete here, with the effect stated: MX_OUT. -/
def Obligations.MatrixOut : Prop :=
  ∀ (s : State) (id : BitVec 9) (k wait : Nat) (bits : BitVec 96) (e : Entry) (rest : List Entry),
    s.opNext id k .mx 0x13 bits.toNat e rest →
    let x := outOp bits.toNat
    let c := (s.mxIssued k wait []).core k
    let vec (o : Nat) : List FV := (lanesOf (ofLe (c.scrRead (scal e.sc x.ssb + o) 256))).map dec32
    let row (i : Nat) : RowEnc :=
      let res := if x.res then (lanesOf (ofLe (c.scrRead (scal e.sc x.sr + 256 * i) 256))).map dec32 else []
      encRow x.fmt x.blk x.bsz (if x.blk then (c.ent x.tid).ceiling else none)
        ((c.accRow x.arr x.bank i).zipIdx.map fun q =>
          (outStages x ((if x.scl then vec 0 else []).getD q.2 .nan) ((if x.bias then vec 256 else []).getD q.2 .nan)
            (dec32 (scal e.sc x.sclip)) (dec32 (scal e.sc x.sclip / 2 ^ 32)) (res.getD q.2 .nan)
            (dec32 (c.ent x.tid).rlo) (dec32 (c.ent x.tid).rhi) (dec32 q.1)).v)
    let due := c.ccOf .mx + x.rm1 + 21
    s.mxClear k wait (fun c => max (tget 0 c.mxFree (8 + x.arr)) (c.commitCc (·.folds [x.arr * 8 + x.bank] [x.arr]))) [] →
    c.foldBusy [x.arr * 8 + x.bank] [x.arr] = false →
    let taint := bitOf ((s.mxIssued k wait []).getF F.CORE_MX_TAINT.TAINT k) (x.arr * 8 + x.bank) || c.scrTainted (outReads x e.sc)
    ∃ t, exec (.mxOut id bits .none wait) s = .next t ∧ t.mem = s.mem ∧ (t.core k).queue .mx = rest ∧
      (t.core k).acc = c.acc ∧ (t.core k).scr = c.scr ∧ (t.core k).v = c.v ∧
      (x.vreg = false → (t.core k).late = lateInsert ⟨.mx, due, .scr ((outWrites x e.sc).map fun r => (r.addr, r.len))
        ((((List.range (x.rm1 + 1)).map fun i => leBytes (rowBytes x.fmt 64) (row i).data) ++
          (if x.blk then (List.range (x.rm1 + 1)).map fun i => leBytes (64 / blkLen x.bsz) (row i).scales else [])).flatten)
        taint⟩ c.late) ∧
      (x.vreg = true → ∀ i, i ≤ x.rm1 → (⟨.mx, due, .vreg (x.vd + i) (BitVec.ofNat 64 (2 ^ 64 - 1))
        (BitVec.ofNat 2048 (row i).data) taint false⟩ : Late) ∈ (t.core k).late)

/-! ### Loads, stores and tensor descriptors (06) -/

/-- R33, R207, R208: a load of an engine that holds a credit, whose descriptors memory serves and whose checks pass,
copies what the fill partition holds, or touches it, and has every other block or line outstanding. R209: LD.INV
invalidates the whole partition, or the lines of its footprint; it needs a credit only where it reads a descriptor in
memory. A scale descriptor is no footprint of it, and SCALE = 1 no error (the model's choice, log entry 145). R207,
R218, R219: what a load reads once it is served. A line of program memory that arrives for a load into scratch is
written to the segments that wait for it; of a whole block the rind is checked, and what it fills is tainted where the
rind does not fit. A line that arrives in the fill partition, or is fetched again, holds the bytes of memory, tainted
where its block's rind does not fit. Commands that complete here, with the effect stated: FILL_REFETCH_DONE, LD_T,
LD_PF, LD_INV, LD_BLOCK_ARRIVE. -/
def Obligations.Loads : Prop :=
  (∀ (s : State) (id : BitVec 9) (k : Nat) (bits : BitVec 64) (e : Entry) (rest : List Entry) (pf : Bool) (q : Pkg),
    let opc := if pf then 0x41 else 0x40
    s.opNext id k .ld opc bits.toNat e rest → s.credit k .ld → (s.core k).ldClear → s.served k .ld opc e = some q →
    let x := moveOp bits.toNat
    let a := scal e.sc x.sdesc
    let h := q.heads s.mem k .ld bits.toNat a x.dsrc true false
    let p := q.headNote s.mem k x.dsrc a h
    let ps := ldParts e h
    let fill := pf || x.alt
    let lines := dedup (ps.map fun l => linesOf l.runs).flatten
    let gone := (p.core k).absent lines
    h.bad = none → p.ldRange k e fill false ps = none →
    ∃ t, exec (if pf then .ldPf id bits .none else .ldT id bits .none) s = .next t ∧ t.mem = s.mem ∧
      (t.core k).queue .ld = rest ∧ (t.core k).v = (p.core k).v ∧
      (fill = false → gone = [] → (t.core k).flight.map (·.no) = (p.core k).flight.map (·.no) ∧ (t.core k).scr =
        ((p.core k).putSegs (ps.map (·.pads)).flatten
          ((ps.map (·.segs)).flatten.map fun g => (g, (p.core k).fillRead ⟨g.src, g.len⟩))).scr) ∧
      (fill = true → (t.core k).scr = (p.core k).scr) ∧
      ((ps.map (·.units gone)).flatten ≠ [] → ∃ r, (t.core k).flight.getLast? =
          some ⟨(p.core k).issueNo, .ld, opc, e.slate, e.idx, e.brk, .load r⟩ ∧
        r.units = (ps.map (·.units gone)).flatten ∧ r.fill = fill ∧ r.pf = pf)) ∧
  (∀ (s : State) (id : BitVec 9) (k : Nat) (bits : BitVec 64) (e : Entry) (rest : List Entry),
    s.opNext id k .ld 0x42 bits.toNat e rest → (s.core k).ldClear →
    let x := moveOp bits.toNat
    let a := scal e.sc x.sdesc
    (bitOf bits.toNat 46 = true → ∃ t, exec (.ldInv id bits .none) s = .next t ∧ t.mem = s.mem ∧
      (t.core k).queue .ld = rest ∧ (t.core k).fill = [] ∧ (t.core k).scr = ((s.moved k .ld).core k).scr) ∧
    (∀ q, bitOf bits.toNat 46 = false → s.served k .ld 0x42 e = some q → (x.dsrc = true → s.credit k .ld) →
      let h := q.heads s.mem k .ld bits.toNat a x.dsrc false false
      let p := q.headNote s.mem k x.dsrc a h
      let ps := ldParts e h
      h.bad = none → p.ldRange k e true true ps = none →
      ∃ t, exec (.ldInv id bits .none) s = .next t ∧ t.mem = s.mem ∧ (t.core k).queue .ld = rest ∧
        (t.core k).scr = (p.core k).scr ∧ ∀ l, tfind (t.core k).fill l =
          if l ∈ (ps.map fun l => linesOf l.runs).flatten then none else tfind (p.core k).fill l)) ∧
  ((∀ (s : State) (id : BitVec 9) (k no : Nat) (a : BitVec 48) (x : LdRun) (f : Flight) (q : Pkg), s.carries id k →
    (s.core k).flightOf no = some f → f.kind = .load x → x.fill = false → x.units.find? (·.1 == a.toNat) =
      some (a.toNat, false) → s.pkg.comes k .ld no a.toNat = some q →
    (∃ v, q.place a.toNat = .user v ∧ q.vatReady v = true) →
    q.held (stackOf a.toNat) = false → q.badRange a.toNat 512 = false →
    (x.lines.all fun l => !(l.1 / 8 == a.toNat / 4096 && q.badRange (l.1 * 512) 512)) = true →
    let here := x.segs.filter fun g => decide (a.toNat ≤ g.src) && decide (g.src < a.toNat + 512)
    ∃ t, exec (.ldBlockArrive id no a) s = .next t ∧ t.mem = s.mem ∧ (t.core k).v = (s.core k).v ∧
      (t.core k).scr = ((s.core k).putSegs x.pads (here.map fun g =>
        (g, bytesAt (s.mem.view q a.toNat 512) (g.src - a.toNat) g.len))).scr ∧
      (x.units = [(a.toNat, false)] → ∀ g ∈ (t.core k).flight, g.no ≠ no)) ∧
  (∀ (s : State) (id : BitVec 9) (k no : Nat) (a : BitVec 48) (x : LdRun) (f : Flight) (whole : Bool) (q : Pkg), s.carries id k →
    (s.core k).flightOf no = some f → f.kind = .load x → x.units.find? (·.1 == a.toNat) = some (a.toNat, whole) →
    s.pkg.comes k .ld no a.toNat = some q → q.readable a.toNat → s.sound → tfind (s.core k).take (a.toNat / 4096) = none →
    let n := if whole then 4096 else 512
    let bs := s.mem.read a.toNat n
    let taint := whole && (⟨s.mem, q⟩ : Dev).rind a.toNat != rindOf bs
    let here := x.segs.filter fun g => decide (a.toNat ≤ g.src) && decide (g.src < a.toNat + n)
    ∃ t, exec (.ldBlockArrive id no a) s = .next t ∧ t.mem = s.mem ∧
      (x.fill = false → (t.core k).scr =
          ((s.core k).putSegs x.pads (here.map fun g => (g, bytesAt bs (g.src - a.toNat) g.len))).scr ∧
        (taint = true → ∀ l ∈ segLines here, tget false (t.core k).scrT l = true)) ∧
      (∀ l hint, x.fill = true → a.toNat % n = 0 → (s.core k).fillSound k →
        (x.lines.filter fun w => decide (a.toNat / 512 ≤ w.1) && decide (w.1 * 512 < a.toNat + n)) = [(l, hint)] →
        ∃ y, tfind (t.core k).fill l = some y ∧ y.data = BitVec.ofNat 4096 (ofLe (bytesAt bs (l * 512 - a.toNat) 512)) ∧
          y.taint = taint ∧ (thas (s.core k).fill l = false →
            y.cnt = (if hint = 15 then 0 else hint) ∧ y.stream = (hint == 15)))) ∧
  (∀ (s : State) (id : BitVec 9) (k : Nat) (l : BitVec 39) (q : Pkg), s.carries id k →
    (s.core k).refetch.contains l.toNat = true →
    let whole := tget false (s.core k).rindBlk l.toNat
    let a := if whole = true then l.toNat / 8 * 4096 else l.toNat * 512
    let n := if whole = true then 4096 else 512
    let bs := s.mem.read a n
    s.pkg.direct (kindOf k a) false whole a n = some q →
    ∃ t, exec (.fillRefetchDone id l) s = .next t ∧ l.toNat ∉ (t.core k).refetch ∧
      (∀ j ∈ (t.core k).refetch, j ∈ (s.core k).refetch) ∧
      (q.readable a → s.sound → tfind (s.core k).take (a / 4096) = none → (s.core k).fillSound k →
        ((s.core k).refetch.filter fun i => i / 8 == l.toNat / 8) = [l.toNat] → thas (s.core k).fill l.toNat = false →
        t.mem = s.mem ∧ ∃ y, tfind (t.core k).fill l.toNat = some y ∧
          y.data = BitVec.ofNat 4096 (ofLe (bytesAt bs (l.toNat * 512 - a) 512)) ∧
          y.taint = (whole && (⟨s.mem, q⟩ : Dev).rind a != rindOf bs) ∧ y.cnt = 0 ∧ y.stream = false)))

/-- R32, R33, R214, R217, R220, R221: a store of an engine that holds a credit, whose descriptors memory serves and whose
checks pass, puts its writes in flight, and with a credit for each they are under way; in an open bracket the whole
blocks it writes get the invalid mark and will enter the take buffer. Memory changes as they are performed. R210,
R214, R217, R221, R363: a write performed behind what its engine sent to the same data before changes the bytes it
names and, for a whole protected block, the block's entry in the rind table; every other byte of memory stays. A write
of an open bracket's store enters the take buffer with its data's rind. Commands that complete here, with the effect
stated: ST_T, STORE_DONE. -/
def Obligations.Stores : Prop :=
  (∀ (s : State) (id : BitVec 9) (k : Nat) (bits : BitVec 64) (e : Entry) (rest : List Entry) (q : Pkg),
    s.opNext id k .st 0x50 bits.toNat e rest → s.credit k .st → s.served k .st 0x50 e = some q →
    let x := moveOp bits.toNat
    let a := scal e.sc x.sdesc
    let h := q.heads s.mem k .st bits.toNat a x.dsrc true true
    let p := q.headNote s.mem k x.dsrc a h
    let ps := stParts e h
    let inB := p.inBracket k e.brk
    let ws := stWrites (ps.map fun l => (l, p.image k x.alt l.src l.d.bytes)) inB
    h.bad = none → p.stRange k e ps = none →
    (inB = true → (dedup ((p.core k).takeBlocks ++ (ps.map fun l =>
      if l.d.rind then (piecesOf l.runs l.d.row).map fun y => y.addr / 4096 else []).flatten)).length ≤ 8192) →
    ∃ t, exec (.stT id bits .none) s = .next t ∧ t.mem = s.mem ∧ (t.core k).queue .st = rest ∧
      (t.core k).scr = (p.core k).scr ∧ (t.core k).v = (p.core k).v ∧ (t.core k).take = (p.core k).take ∧
      (t.core k).flight = (p.core k).flight ++ [⟨(p.core k).issueNo, .st, 0x50, e.slate, e.idx, e.brk,
        .store ws⟩] ∧
      (∀ w ∈ ws, w.take = true → inB = true ∧ w.rind = .invalid) ∧
      ((p.core k).sends .st ws.length →
        (t.core k).fab = (p.core k).fab ++ ws.map (fun w => ⟨.st, (p.core k).issueNo, w.addr, 2⟩) ∧
        tget 0 (t.core k).spent Eng.st.key = tget 0 (p.core k).spent Eng.st.key + ws.length)) ∧
  (∀ (s : State) (id : BitVec 9) (k no : Nat) (a : BitVec 48) (f : Flight) (ws : List WrReq) (w : WrReq) (q : Pkg), s.MemOk →
    s.carries id k → (s.core k).flightOf no = some f → f.kind = .store ws → ws.find? (·.addr == a.toNat) = some w →
    (s.core k).behind no a.toNat w.data.length (w.rind != .keep) = false → s.pkg.comes k .st no a.toNat = some q →
    q.writable a.toNat → s.sound →
    let r := rindEntry (blockOf a.toNat)
    ∃ t, exec (.storeDone id no a) s = .next t ∧
      (∀ b, ¬(a.toNat ≤ b ∧ b < a.toNat + w.data.length) → (w.rind = .keep ∨ ¬(r ≤ b ∧ b < r + 4)) →
        t.mem.byte b = s.mem.byte b) ∧
      (∀ i, i < w.data.length → (w.rind = .keep ∨ ¬(r ≤ a.toNat + i ∧ a.toNat + i < r + 4)) →
        t.mem.byte (a.toNat + i) = w.data.getD i 0) ∧
      (w.rind = .correct → t.mem.read r 4 = leBytes 4 (rindOf w.data)) ∧
      (w.rind = .invalid → t.mem.read r 4 =
        leBytes 4 (invalidMark (rindOf ((s.mem.write a.toNat w.data).read (blockOf a.toNat) 4096)))) ∧
      (t.core k).scr = (s.core k).scr ∧ (t.core k).v = (s.core k).v ∧
      (t.core k).take = if w.take = true ∧ q.inBracket k f.brk = true
        then tins (s.core k).take (a.toNat / 4096) ⟨rindOf w.data, w.taint⟩ else (s.core k).take)

/-- R230–R232: a transfer reads its source blocks and sends their bytes, each block with its rind, or the invalid mark
where it is tainted, and holds them until each is acknowledged or refused; with a credit for each, those for another
package go out as messages in order. An acknowledgement counts a block done, a refusal counts it failed. When the
source is read and a tainted block counted is the model's choice (log entry 145). R232: a block is checked against its
carried rind and its 4,096 bytes are written with the rind or the invalid mark: a block of another package as it
arrives, and its acknowledgement is sent; a copy within the package as its store engine holds it, which is then done
with. A refused block of another package is logged, marks its sender's class and is answered with the reason. Commands
that complete here, with the effect stated: ST_X, XF_BLOCK_ARRIVE, XF_ACK. -/
def Obligations.Transfers : Prop :=
  ((∀ (s : State) (id : BitVec 9) (k : Nat) (bits : BitVec 64) (e : Entry) (rest : List Entry) (q : Pkg),
    s.opNext id k .st 0x51 bits.toNat e rest → s.credit k .st → s.served k .st 0x51 e = some q →
    s.pkg.logicalOf k = some id.toNat →
    let x := moveOp bits.toNat
    let a := scal e.sc x.sdesc
    let h := q.heads s.mem k .st bits.toNat a x.dsrc false false
    let p := q.headNote s.mem k x.dsrc a h
    let rs := h.data.runs (scal e.sc x.soff)
    let sdst := scal e.sc (fld bits.toNat 45 41)
    let tc := fld bits.toNat 47 46
    let bytes := cleanRows h.data.fmt (h.data.size 0)
      ((piecesOf rs h.data.row).map fun y => s.mem.read y.addr y.len).flatten
    let stained (b : Nat) : Bool := (⟨s.mem, p⟩ : Dev).rind b != rindOf (s.mem.read b 4096)
    let xs : List XBlk := (List.range (h.data.bytes / 4096)).map fun i =>
      XBlk.make ((sdst % 2 ^ 48 + i * 4096) % 2 ^ 48) ((bytes.drop (i * 4096)).take 4096)
        ((piecesOf rs h.data.row).any fun y => decide (y.pos < i * 4096 + 4096) && decide (i * 4096 < y.pos + y.len) &&
          stained (blockOf y.addr))
    h.bad = none → p.xfReason h.data rs = none → s.sound → s.pkg.reaches (sdst / 2 ^ 48) = true →
    (∀ y ∈ piecesOf rs h.data.row, p.readable (blockOf y.addr) ∧ tfind (p.core k).take (y.addr / 4096) = none) →
    ∃ t, exec (.stX id bits .none) s = .next t ∧ t.mem = s.mem ∧ (t.core k).queue .st = rest ∧
      (t.core k).flight = (p.core k).flight ++ [⟨(p.core k).issueNo, .st, 0x51, e.slate, e.idx, e.brk,
        .xfer (sdst / 2 ^ 48) tc xs⟩] ∧
      ((p.core k).sends .st xs.length → (xs.map (·.addr)).Nodup → sdst / 2 ^ 48 ≠ s.pkg.pkgId →
        t.pkg.tx = s.pkg.tx ++ xs.map fun y => ⟨.xfBlock, sdst / 2 ^ 48, y.words tc id.toNat (p.core k).issueNo []⟩)) ∧
  (∀ (s : State) (id : BitVec 9) (k no : Nat) (a : BitVec 48) (reason : BitVec 4) (f : Flight) (pkg tc : Nat) (bs : List XBlk),
    s.carries id k → (s.core k).flightOf no = some f → f.kind = .xfer pkg tc bs → bs.any (·.addr == a.toNat) = true →
    ∃ t, exec (.xfAck id no a reason) s = .next t ∧ t.mem = s.mem ∧
      (t.core k).flight = ((s.core k).dropBlock no a.toNat).flight ∧
      (reason = 0 → t.pkg.getF F.CORE_XF_STAT.BLOCKS k = satAdd (F.CORE_XF_STAT.BLOCKS.hi + 1 - F.CORE_XF_STAT.BLOCKS.lo)
        (s.pkg.getF F.CORE_XF_STAT.BLOCKS k) 1) ∧
      (reason ≠ 0 → t.pkg.getF F.CORE_XF_STAT.FAILED k = satAdd (F.CORE_XF_STAT.FAILED.hi + 1 - F.CORE_XF_STAT.FAILED.lo)
        (s.pkg.getF F.CORE_XF_STAT.FAILED k) 1))) ∧
  (let put (s t : State) (a : Nat) (data : List Byte) (rind : Nat) : Prop :=
    (∀ i, i < 4096 → t.mem.byte (a + i) = data.getD i 0) ∧
    (∀ b, ¬(a ≤ b ∧ b < a + 4096) → ¬(rindEntry a ≤ b ∧ b < rindEntry a + 4) → t.mem.byte b = s.mem.byte b) ∧
    t.mem.read (rindEntry a) 4 = leBytes 4 (if rindOf data = rind then rindOf data else invalidMark (rindOf data))
  (∀ (s : State) (src : BitVec 12) (core : BitVec 9) (tc : BitVec 2) (no : Nat) (a : BitVec 48) (rind : BitVec 32)
    (data : List Byte) (q : Pkg), s.pkg.alive = true → src.toNat ≠ s.pkg.pkgId → data.length = 4096 →
    s.pkg.direct 4 true true a.toNat 4096 = some q →
    let r := q.xfRefusal a.toNat false
    (r = 0 → s.MemOk → q.held (stackOf a.toNat) = false → s.sound →
      ∃ t, exec (.xfBlockArrive src core tc no false a rind data) s = .next t ∧ put s t a.toNat data rind.toNat ∧
        t.pkg = q.send .xfAck src.toNat [core.toNat, no, a.toNat, 0]) ∧
    (r ≠ 0 → ∃ t, exec (.xfBlockArrive src core tc no false a rind data) s = .next t ∧ t.mem = s.mem ∧
      t.pkg.sigMarked src.toNat core.toNat tc.toNat = (tc.toNat != 0) ∧
      t.pkg.tx = q.tx ++ [⟨.xfRefuse, src.toNat, [core.toNat, no, a.toNat, r]⟩])) ∧
  (∀ (s : State) (core : BitVec 9) (k : Nat) (tc : BitVec 2) (no : Nat) (a : BitVec 48) (rind : BitVec 32) (data : List Byte)
    (f : Flight) (bs : List XBlk) (y : XBlk) (q : Pkg), s.pkg.alive = true → s.pkg.pkgId < 4096 → s.pkg.physOf core.toNat = some k →
    (s.core k).flightOf no = some f → f.kind = .xfer s.pkg.pkgId tc.toNat bs → bs.find? (·.addr == a.toNat) = some y →
    (s.core k).firstBlock s.pkg.pkgId tc.toNat no a.toNat = true → y.data.length = 4096 →
    s.pkg.direct 4 true true a.toNat 4096 = some q → q.xfRefusal a.toNat false = 0 → s.MemOk →
    q.held (stackOf a.toNat) = false → s.sound →
    ∃ t, exec (.xfBlockArrive (BitVec.ofNat 12 s.pkg.pkgId) core tc no false a rind data) s = .next t ∧
      put s t a.toNat y.data y.rind ∧ (t.core k).flight = ((s.core k).dropBlock no a.toNat).flight))

/-- R420–R423: ST.CX sends the blocks of the open call; a collective block of another package for the open call is
written; its acknowledgement drops it from its op. Commands that complete here, with the effect stated: ST_CX,
CX_BLOCK_ARRIVE, CX_ACK. -/
def Obligations.CollectiveBlocks : Prop :=
  (∀ (s : State) (id : BitVec 9) (k g : Nat) (bits : BitVec 64) (e : Entry) (rest : List Entry) (c : Call),
    s.opNext id k .st 0x52 bits.toNat e rest → s.credit k .st → (s.moved k .st).callOf k = some (g, c) → bitOf bits.toNat 31 = false →
    let dst := scal e.sc (fld bits.toNat 45 41)
    let n := scal e.sc (fld bits.toNat 40 36)
    (s.moved k .st).reaches (dst / 2 ^ 48) = true → s.pkg.logicalOf k = some id.toNat →
    ∃ t xs, exec (.stCx id bits .none) s = .next t ∧ t.mem = s.mem ∧ (t.core k).queue .st = rest ∧
      (t.core k).flight = ((s.moved k .st).core k).flight ++ [⟨((s.moved k .st).core k).issueNo, .st, 0x52, e.slate, e.idx,
        e.brk, .cx (dst / 2 ^ 48) g c.seq c.digest n xs⟩] ∧ xs.length = n ∧
      (∀ i, i < n → (xs.getD i ⟨0, 0, []⟩).addr = dst % 2 ^ 48 + i * 4096 ∧
        (xs.getD i ⟨0, 0, []⟩).data =
          ((s.moved k .st).core k).scrRead (scal e.sc (fld bits.toNat 30 26) + i * 4096) 4096) ∧
      (((s.moved k .st).core k).sends .st n → dst / 2 ^ 48 ≠ s.pkg.pkgId → t.pkg.tx = s.pkg.tx ++
        xs.map fun y => ⟨.cxBlock, dst / 2 ^ 48, y.words 1 id.toNat ((s.core k).issueNo) [g, c.seq, c.digest, n]⟩)) ∧
  (∀ (s : State) (src : BitVec 12) (core : BitVec 9) (no : Nat) (g : BitVec 6) (seq rind : BitVec 32) (dg : BitVec 64)
    (n : BitVec 11) (a : BitVec 48) (data : List Byte) (c : Call) (v : Nat), s.pkg.alive = true →
    src.toNat ≠ s.pkg.pkgId → data.length = 4096 → s.pkg.lead.join = none → s.MemOk →
    (s.pkg.collGrp g.toNat).call = some c → c.seq = seq.toNat → c.aborted = false → c.digest = dg.toNat →
    s.pkg.cxRefused g.toNat seq.toNat a.toNat = false → s.pkg.place a.toNat = .staging v →
    s.pkg.badRange a.toNat 4096 = false →
    ∃ t, exec (.cxBlockArrive src core no g seq dg n a rind data) s = .next t ∧
      (∀ i, i < 4096 → t.mem.byte (a.toNat + i) = data.getD i 0) ∧
      (∀ b, ¬(a.toNat ≤ b ∧ b < a.toNat + 4096) → t.mem.byte b = s.mem.byte b)) ∧
  (∀ (s : State) (id : BitVec 9) (k no : Nat) (a : BitVec 48) (f : Flight) (pkg g seq dg n : Nat) (bs : List XBlk),
    s.carries id k → (s.core k).flightOf no = some f → f.kind = .cx pkg g seq dg n bs →
    exec (.cxAck id no a) s = .next (s.pkgTo fun p => (p.onCore k fun c => c.dropBlock no a.toNat).pumpAll k))

/-- R320–R323: an atomic whose checks pass puts its elements in flight by block, in the order of its footprint. A request
performed behind what its engine sent to the same data before updates its elements one after another, ST.AADD by the
sum in their format, modulo the word for integers and saturating for floating point, ST.AMAX and ST.AMIN by the
maximum and minimum; no other byte of memory changes but, for a tensor with rinds, the entries of the blocks touched:
the new rind, or the invalid mark where a source was tainted or the block did not fit its rind before. R327, R329:
ST.PRESS joins the queue of its record's vat, with the core's step, while fewer than 8 ops wait there. Commands that
complete here, with the effect stated: ST_AADD, ST_AMAX, ST_AMIN, PRESS_ATOMIC_PERFORM, ST_PRESS. -/
def Obligations.AtomicsAndPress : Prop :=
  ((∀ q ∈ ([(.stAadd, 0x58), (.stAmax, 0x59), (.stAmin, 0x5A)] : List ((BitVec 9 → BitVec 64 → SramErr → Instr) × Nat)),
    ∀ (s : State) (id : BitVec 9) (k : Nat) (bits : BitVec 64) (e : Entry) (rest : List Entry) (r : Pkg),
    s.opNext id k .st q.2 bits.toNat e rest → s.credit k .st → s.served k .st q.2 e = some r →
    let x := moveOp bits.toNat
    let a := scal e.sc x.sdesc
    let h := r.heads s.mem k .st bits.toNat a x.dsrc true false
    let p := r.headNote s.mem k x.dsrc a h
    let rs := h.data.runs (scal e.sc x.soff)
    let src := scal e.sc x.sd
    h.bad = none → r.atomFmt s.mem k q.2 a x.dsrc bits.toNat = none → h.data.cave = false →
    vecBad x.alt false src h.data.bytes = false →
    (∀ r ∈ rs, ∀ y ∈ pieces r, p.isUser y.addr = true) →
    (x.alt = true ∨ scratchCheck (p.scratch k) [⟨src, h.data.bytes⟩] = none) →
    let im := p.image k x.alt src h.data.bytes
    let w := fmtBits h.data.fmt / 8
    let es : List (Nat × Nat) := (rs.zipIdx.map fun x => (List.range (h.data.size 0)).map fun i =>
      (x.1.addr + i * w, x.2 * h.data.row + i * w)).flatten
    let blocks : List ABlk := (dedup (es.map fun y => blockOf y.1)).map fun b =>
      let here := es.filter fun y => blockOf y.1 == b
      ⟨b, here.map fun y => (y.1, ofLe (bytesAt im.bytes y.2 w)), here.any fun y => im.dirty y.2 w,
        here.any fun y => b + 4096 < y.1 + w && im.dirty y.2 w⟩
    ∃ t, exec (q.1 id bits .none) s = .next t ∧ t.mem = s.mem ∧ (t.core k).queue .st = rest ∧
      (t.core k).flight = (p.core k).flight ++ [⟨(p.core k).issueNo, .st, q.2, e.slate, e.idx, e.brk,
        .atomic ⟨q.2, h.data.fmt, h.data.rind, blocks, false⟩⟩]) ∧
  (∀ (s : State) (id : BitVec 9) (k no : Nat) (b : BitVec 48) (f : Flight) (x : ARun) (y : ABlk) (q : Pkg), s.MemOk →
    s.carries id k → (s.core k).flightOf no = some f → f.kind = .atomic x →
    x.blocks.find? (·.blk == b.toNat) = some y → (s.core k).behind no b.toNat 4096 true = false →
    ((y.touched x.fmt).drop 1).any (s.pkg.touchBusy k no · 4096 true) = false → s.pkg.comes k .st no b.toNat = some q →
    q.vatReady (vatOfAddr b.toNat) = true → b.toNat + 4096 < 0x010000000000 →
    (∀ c ∈ y.touched x.fmt, q.held (stackOf c) = false ∧ q.inCave c = false) → s.sound →
    let w := fmtBits x.fmt / 8
    let sum (old new : Nat) : Nat :=
      if x.fmt = fmtINT32 then (old + new) % 2 ^ 32 else if x.fmt = fmtINT64 then (old + new) % 2 ^ 64
      else (encFP x.fmt (if x.opc = 0x59 then (decF x.fmt old).max (decF x.fmt new)
        else if x.opc = 0x5A then (decF x.fmt old).min (decF x.fmt new) else (decF x.fmt old).add (decF x.fmt new))).bits
    let data := y.elems.foldl (fun m z => m.write z.1 (leBytes w (sum (ofLe (m.read z.1 w)) z.2))) s.mem
    ∃ t, exec (.pressAtomicPerform id no b) s = .next t ∧
      (x.rind = false → t.mem = data ∧
        ∀ c, (∀ z ∈ y.elems, ¬(z.1 ≤ c ∧ c < z.1 + w)) → t.mem.byte c = s.mem.byte c) ∧
      (x.rind = true → t.mem = (y.touched x.fmt).foldl (fun m c =>
        let inv := (if c = b.toNat then y.taint else y.spill) ||
          ofLe (s.mem.read (rindEntry c) 4) != rindOf (s.mem.read c 4096)
        let now := rindOf (m.read c 4096)
        m.write (rindEntry c) (leBytes 4 (if inv then invalidMark now else now))) data))) ∧
  (∀ (s : State) (id : BitVec 9) (k : Nat) (bits : BitVec 64) (e : Entry) (rest : List Entry),
    s.opNext id k .st 0x5B bits.toNat e rest → s.credit k .st → s.pkg.logicalOf k = some id.toNat →
    let a := scal e.sc (fld bits.toNat 20 16)
    let v := vatOfAddr a
    s.pkg.vatReady v = true → (s.pkg.vat v).pressQ.length < 8 →
    ∃ t, exec (.stPress id bits .none) s = .next t ∧ t.mem = s.mem ∧ (t.core k).queue .st = rest ∧
      (t.pkg.vat v).pressQ = (s.pkg.vat v).pressQ ++
        [⟨s.pkg.pressNo, id.toNat, k, ((s.moved k .st).core k).issueNo, e.slate, (s.pkg.reg .CORE_STEP k).toNat, a⟩] ∧
      t.pkg.pressNo = s.pkg.pressNo + 1)

/-! ### Semaphores, ordering and watchdogs (08) -/

/-- R266, R268, R274, R277, R278: a gate reached by its engine. A signal or decrement is passed at once; a wait takes its
count or holds the engine; a wait for a time or a fence passes when met, else holds; none passes before every earlier
entry of its engine is complete. R277, R278: a held engine goes on when its time comes, or when its fence is met.
Commands that complete here, with the effect stated: SY_SIG, SY_WAIT, SY_DEC, SY_WTIME, SY_FENCE, WTIME_EXPIRE,
FENCE_RELEASE. -/
def Obligations.Gates : Prop :=
  (∀ (s : State) (id : BitVec 9) (k : Nat) (bits : BitVec 64) (e : SyEnt), s.running id k →
    (s.core k).readyEnt bits.toNat = some e →
    let x := syOp bits.toNat
    let c := s.core k
    let hold (kind : WKind) (sem arg : Nat) (ack : Bool) : Waiter :=
      ⟨e.serve, kind, sem, arg, ack, e.id, c.issueNo, e.slate, s.pkg.time⟩
    let turn := c.inTurn e.serve e.id
    (opcOf bits.toNat = 0xC0 → exec (.sySig id bits) s = .next (s.coreTo k fun c => c.passMark e)) ∧
    (opcOf bits.toNat = 0xC2 → exec (.syDec id bits) s = .next (s.coreTo k fun c => c.passMark e)) ∧
    (opcOf bits.toNat = 0xC1 → exec (.syWait id bits .none) s = .next (s.coreTo k fun c =>
      if x.n ≤ c.semVal x.sem ∧ turn = true then
        (c.setSem x.sem (c.semVal x.sem - x.n)).passGate (hold .wait x.sem x.n false)
      else { c with waits := c.waits ++ [hold .wait x.sem x.n false] })) ∧
    (opcOf bits.toNat = 0xC3 →
      (scal e.sc x.stg ≤ s.pkg.time → turn = true →
        exec (.syWtime id bits) s = .next (s.coreTo k fun c => c.passGate (hold .wtime 0 (scal e.sc x.stg) false))) ∧
      ((s.pkg.time < scal e.sc x.stg ∧ scal e.sc x.stg ≤ s.pkg.time + s.pkg.period k) ∨ turn = false →
        exec (.syWtime id bits) s = .next (s.coreTo k fun c =>
          { c with waits := c.waits ++ [hold .wtime 0 (scal e.sc x.stg) false] })) ∧
      (s.pkg.time + s.pkg.period k < scal e.sc x.stg → turn = true →
        ∃ t, exec (.syWtime id bits) s = .next t ∧ t.mem = s.mem ∧
          (t.core k).qSy = (c.passGate (hold .wtime 0 (scal e.sc x.stg) false)).qSy ∧ (t.core k).waits = c.waits.filter
            (· != hold .wtime 0 (scal e.sc x.stg) false) ∧
          t.pkg.getF F.CORE_IFAULT.SKIPS k = satAdd 32 (s.pkg.getF F.CORE_IFAULT.SKIPS k) 1)) ∧
    (opcOf bits.toNat = 0xC4 →
      let w := hold .fence 0 0 (bitOf bits.toNat 16)
      exec (.syFence id bits) s = .next (s.pkgTo fun p =>
        if c.fenceDone w ∧ turn = true then (p.landEng k e.serve).onCore k fun c => c.passGate w
        else p.onCore k fun c => { c with waits := c.waits ++ [w] }))) ∧
  ((∀ (s : State) (id : BitVec 9) (k g : Nat) (w : Waiter), s.running id k →
    (s.core k).waits.find? (fun w => w.kind == .wtime && w.gate == g) = some w → (s.core k).inTurn w.eng g = true →
    exec (.wtimeExpire id g) s = .next (s.pkgTo fun p =>
      { p.onCore k (fun c => c.passGate w) with time := max p.time w.arg })) ∧
  (∀ (s : State) (id : BitVec 9) (k g : Nat) (w : Waiter), s.running id k →
    (s.core k).waits.find? (fun w => w.kind == .fence && w.gate == g) = some w → (s.core k).fenceDone w = true →
    (s.core k).inTurn w.eng g = true →
    exec (.fenceRelease id g) s = .next (s.pkgTo fun p => (p.landEng k w.eng).onCore k fun c => c.passGate w)))

/-- R32, R269–R271, R273: a passed signal leaves once what precedes it is complete, for a credit: within the package
toward its target, else as a message to the package named; one to a package that no route reaches is skipped. Then the
next entry of its engine has its turn (R268). A credit within the package comes back once the signal is done with (the
model's choice, log entry 142). R28, R29, R270, R274, R275: the oldest signal of its source to a core, over a route
that carries traffic, adds its count, on which no wait is pending, or is discarded whole where the sum would exceed
65,535; one from another package for a core that exists joins those under way. R268, R276: a passed decrement takes
its count, and the next entry of its engine has its turn; or below 0 is skipped, counted and leaves the semaphore
alone. Commands that complete here, with the effect stated: SIGNAL_LEAVE, SIGNAL_APPLY, REMOTE_SIGNAL_ARRIVE,
DEC_APPLY. -/
def Obligations.Signals : Prop :=
  (∀ (s : State) (id : BitVec 9) (k g : Nat) (e : SyEnt), s.running id k → (s.core k).qSy.find? (·.id == g) = some e →
    opcOf e.bits = 0xC0 → s.pkg.logicalOf k = some id.toNat →
    let x := syOp e.bits
    let dst := s.pkg.sigDst e
    (s.core k).mayLeave e dst x.tc = true → s.pkg.lossWaits k e = false → s.credit k .sy →
    let target := if x.tgt = 0 then id.toNat else sigCore (scal e.sc x.stg)
    (dst = s.pkg.pkgId → exec (.signalLeave id g) s = .next (s.pkgTo fun p =>
      let q := (p.landEng k e.serve).onCore k fun c => (c.endSy g).spend .sy
      Pkg.nextTurn
        { q with sigs := q.sigs ++ [⟨q.sigNo, q.pkgId, id.toNat, e.serve, target, x.sem, x.n, e.slate, x.tc, e.reached.getD 0, false⟩],
                 sigNo := q.sigNo + 1 } s.mem k e.serve .none)) ∧
    (dst ≠ s.pkg.pkgId → s.pkg.reaches dst = true → s.pkg.routeUp (k / 128) 4 = true →
      exec (.signalLeave id g) s = .next (s.pkgTo fun p =>
        (((p.landEng k e.serve).onCore k fun c => c.endSy g).send .signal dst
          [x.tc, id.toNat, target, x.sem, x.n, e.slate]).nextTurn s.mem k e.serve .none)) ∧
    (dst ≠ s.pkg.pkgId → s.pkg.reaches dst = false →
      ∃ t, exec (.signalLeave id g) s = .next t ∧ t.mem = s.mem ∧ t.pkg.sigs = s.pkg.sigs ∧ g ∉ (t.core k).qSy.map (·.id))) ∧
  ((∀ (s : State) (id : BitVec 9) (k n : Nat) (g : Sig), s.running id k → s.pkg.sigs.find? (·.id == n) = some g →
    g.tgt = id.toNat → g.tc = 0 →
    s.pkg.sigs.find? (fun t => t.tgt == g.tgt && t.src == g.src && t.srcPkg == g.srcPkg && t.tc == 0) = some g →
    s.pkg.vatReady (id.toNat / 128) = true → s.pkg.routeUp (if g.hub then 4 else g.src / 128) (id.toNat / 128) = true →
    (s.core k).waits.find? (fun w => w.kind == .wait && w.sem == g.sem) = none →
    ∃ t, exec (.signalApply id n [] [] .none) s = .next t ∧ t.mem = s.mem ∧ t.pkg.sigs = s.pkg.sigs.filter (fun t => t.id != n) ∧
      (t.core k).semVal g.sem = (if (s.core k).semVal g.sem + g.n ≤ 65535 then (s.core k).semVal g.sem + g.n
        else (s.core k).semVal g.sem) ∧
      (65535 < (s.core k).semVal g.sem + g.n → t.pkg.getF F.CORE_SY_STAT.SIG_OVERFLOW k =
        satAdd (F.CORE_SY_STAT.SIG_OVERFLOW.hi + 1 - F.CORE_SY_STAT.SIG_OVERFLOW.lo)
          (s.pkg.getF F.CORE_SY_STAT.SIG_OVERFLOW k) 1)) ∧
  (∀ (s : State) (src : BitVec 12) (core target : BitVec 9) (tc : BitVec 2) (sem : BitVec 6) (n slate : BitVec 16),
    s.pkg.alive = true → src.toNat ≠ s.pkg.pkgId → s.pkg.sigMarked src.toNat core.toNat tc.toNat = false →
    s.pkg.isCore target.toNat = true →
    exec (.remoteSignalArrive src core tc target sem n slate) s = .next (s.pkgTo fun p =>
      { p with sigs := p.sigs ++ [⟨p.sigNo, src.toNat, core.toNat, .st, target.toNat, sem.toNat, n.toNat, slate.toNat, 0, 0, true⟩],
               sigNo := p.sigNo + 1 }))) ∧
  (∀ (s : State) (id : BitVec 9) (k g : Nat) (e : SyEnt), s.running id k → (s.core k).qSy.find? (·.id == g) = some e →
    opcOf e.bits = 0xC2 → (s.core k).mayLeave e 0 0 = true →
    let x := syOp e.bits
    (x.n ≤ (s.core k).semVal x.sem → exec (.decApply id g .none) s = .next (s.pkgTo fun p =>
      ((p.landEng k e.serve).onCore k fun c => (c.setSem x.sem (c.semVal x.sem - x.n)).endSy g).nextTurn s.mem k e.serve
        .none)) ∧
    ((s.core k).semVal x.sem < x.n → ∃ t, exec (.decApply id g .none) s = .next t ∧ t.mem = s.mem ∧
      ((s.core k).waits.find? (fun w => w.kind == .wait && w.eng == e.serve) = none →
        (t.core k).semVal x.sem = (s.core k).semVal x.sem) ∧
      t.pkg.getF F.CORE_SY_STAT.DEC_UNDERFLOW k = satAdd
        (F.CORE_SY_STAT.DEC_UNDERFLOW.hi + 1 - F.CORE_SY_STAT.DEC_UNDERFLOW.lo)
        (s.pkg.getF F.CORE_SY_STAT.DEC_UNDERFLOW k) 1))

/-- R280–R282: a watchdog that fires before what its waiter waits for has arrived halts the core with cause 0x2, ends its
waits, shows the waiter in CORE_WDOG and reports to the top lead. Commands that complete here, with the effect stated:
WDOG_FIRE. -/
def Obligations.WatchdogHalts : Prop :=
  ∀ (s : State) (id : BitVec 9) (k : Nat) (slot : BitVec 3) (e : Eng) (w : Waiter), s.running id k →
    Eng.ofSlot slot.toNat = some e → (s.core k).waits.find? (·.eng == e) = some w → s.pkg.released k w = false →
    s.pkg.getF F.CLAP_CONT_STATE.STATE 0 = 0 →
    ∃ t, exec (.wdogFire id slot) s = .next t ∧ t.mem = s.mem ∧ (t.core k).st = .halt ∧ (t.core k).halt = 2 ∧
      (t.core k).waits = [] ∧ t.pkg.time = max s.pkg.time (w.since + s.pkg.period k) ∧
      t.pkg.flag F.CORE_WDOG.FIRED k = true ∧ t.pkg.getF F.CORE_WDOG.ENGINE k = w.eng.code ∧
      t.pkg.tx.getLast?.map (·.kind) = some .haltReport

/-! ### Training numerics and press units (09, 10) -/

/-- R296, R297, R301: a close report joins its group's round; the report that completes it decides, and an outcome for
every member of the group is on its way. R312–R316: the oldest loss sample is judged: a first sample becomes the mean,
a flagged one leaves the statistics alone; the host sets them while the source core does not run. Commands that
complete here, with the effect stated: REPORT_ARRIVE, LOSS_SAMPLE, NUM_LOSS_STATE_WRITE, NUM_LOSS_SAMPLES_WRITE. -/
def Obligations.TrainingReports : Prop :=
  (∀ (s : State) (id : BitVec 9) (k : Nat) (r : Report), s.carries id k →
    s.pkg.reps.find? (·.core == id.toNat) = some r →
    s.pkg.vatReady (s.pkg.getF F.NUM_GRP_DIR.DIRECTOR r.group / 128) = true →
    let x := s.pkg.lgroup r.group
    let rs := x.reports.filter (fun y => y.core != r.core) ++ [r]
    (x.layer = none ∨ x.layer = some r.layer) →
    ((s.pkg.members r.group).all (fun m => rs.any (·.core == m)) = false →
      exec (.reportArrive id) s = .next (s.pkgTo fun p =>
        ({ p with reps := p.reps.filter fun y => y.core != id.toNat }).setLgroup r.group
          { x with layer := some r.layer, reports := rs })) ∧
    ((s.pkg.members r.group).all (fun m => rs.any (·.core == m)) = true → x.held = [] → s.sound →
      let y := x.decide r.layer rs
      ∃ t, exec (.reportArrive id) s = .next t ∧ t.pkg.outs = s.pkg.outs ++ (s.pkg.members r.group).map (fun m =>
          ⟨m, r.layer, y.rung * 256 + (if y.retake then retakeFmt y.rank * 16 + 1 else 0) +
            b2n (rs.any fun z => z.core == m && z.skip) * 2⟩) ∧
        (t.pkg.lgroup r.group).layer = none ∧ (t.pkg.lgroup r.group).pend = y.retake)) ∧
  ((∀ (s : State) (step v slate : Nat) (rest : List (Nat × Nat × Nat)), s.pkg.alive = true →
    s.pkg.lossQ = (step, v, slate) :: rest → v < 2 ^ 32 →
    ∃ t, exec .lossSample s = .next t ∧ t.mem = s.mem ∧ t.pkg.lossQ = rest ∧ t.pkg.getF F.NUM_LOSS_STAT.LAST 0 = v ∧
      t.pkg.reg .NUM_LOSS_STEP 0 = BitVec.ofNat 64 step ∧
      ((dec32 v).isFin = false → t.pkg.flag F.NUM_LOSS_STAT.NF_LAST 0 = true ∧
        t.pkg.flag F.NUM_LOSS_STAT.SPIKE_LAST 0 = true ∧
        t.pkg.getF F.NUM_LOSS_STATE.MEAN 0 = s.pkg.getF F.NUM_LOSS_STATE.MEAN 0 ∧
        t.pkg.getF F.NUM_LOSS_STATE.VAR 0 = s.pkg.getF F.NUM_LOSS_STATE.VAR 0) ∧
      ((dec32 v).isFin = true → s.pkg.getF F.NUM_LOSS_STAT.SAMPLES 0 = 0 →
        t.pkg.flag F.NUM_LOSS_STAT.SPIKE_LAST 0 = false ∧ t.pkg.getF F.NUM_LOSS_STATE.MEAN 0 = v ∧
        t.pkg.getF F.NUM_LOSS_STATE.VAR 0 = 0 ∧ t.pkg.getF F.NUM_LOSS_STAT.SAMPLES 0 = 1)) ∧
  (∀ (s : State) (w : BitVec 64), s.pkg.alive = true → s.pkg.runs (s.pkg.getF F.NUM_LOSS_CFG.SRC 0) = false →
    ∃ t, exec (.numLossStateWrite w) s = .next t ∧ t.mem = s.mem ∧ t.pkg.reg .NUM_LOSS_STATE 0 = w ∧
      t.pkg.getF F.NUM_LOSS_STAT.SAMPLES 0 = 0) ∧
  (∀ (s : State) (n : BitVec 8), s.pkg.alive = true → s.pkg.runs (s.pkg.getF F.NUM_LOSS_CFG.SRC 0) = false →
    ∃ t, exec (.numLossSamplesWrite n) s = .next t ∧ t.mem = s.mem ∧ t.pkg.getF F.NUM_LOSS_STAT.SAMPLES 0 = n.toNat))

/-- R285, R292: a word of a scale table written while its core is IDLE or halted; every other entry stays. Commands that
complete here, with the effect stated: CORE_SCT_DATA_WRITE. -/
def Obligations.ScaleTableWritten : Prop :=
  ∀ (s : State) (id : BitVec 9) (tid : BitVec 8) (w : BitVec 4) (v : BitVec 64), s.pkg.alive = true →
    s.pkg.isPhys id.toNat = true → w.toNat < 10 → s.pkg.lead.join = none →
    ((s.core id.toNat).st = .idle ∨ (s.core id.toNat).st = .halt) →
    ∃ t, exec (.coreSctDataWrite id tid w v) s = .next t ∧ t.mem = s.mem ∧
      (t.core id.toNat).ent tid.toNat = ((s.core id.toNat).ent tid.toNat).setWord w.toNat v.toNat ∧
      (∀ j, j ≠ tid.toNat → (t.core id.toNat).ent j = (s.core id.toNat).ent j) ∧ ∀ k, k ≠ id.toNat → t.core k = s.core k

/-- R329, R331, R337: a vat that runs no update takes its oldest one once memory serves the read of its record; a record
that passes its checks runs, one that fails is refused with its reason. R331–R334, R337: a slice whose turn it is and
whose reads and writes memory serves is done once. Where a block it reads fails its rind check, or the update is
discarded, memory stays. Else each of its 4,096 parameters, the master formed of its HI and LO halves, takes the
update of the optimizer (`OptRec.param`, R331–R333): the halves, the whey and the moments are written, each block with
the rind of its new data, every other byte of memory stays, and the parameters held and the saturations are counted.
R326, R338–R340: an update all of whose slices are done ends: its vat runs none, its record of eight words enters the
dailies where it fits, with the units' sums added in stack order and the ratio of the update to the weights, and its
ST.PRESS is complete for the core. Commands that complete here, with the effect stated: PRESS_OP_START, PRESS_SLICE,
PRESS_OP_DONE. -/
def Obligations.PressUpdate : Prop :=
  (∀ (s : State) (v : BitVec 2) (o : PressOp) (rest : List PressOp) (p : Pkg), s.pkg.alive = true →
    s.pkg.vatReady v.toNat = true → (s.pkg.vat v.toNat).press = none → (s.pkg.vat v.toNat).pressQ = o :: rest →
    s.sound → s.pkg.place o.recA = .user v.toNat → s.pkg.held (stackOf o.recA) = false →
    s.pkg.directs 7 false false ((pieces ⟨o.recA, 128⟩).map fun r => (r.addr, r.len)) = some p →
    let q := p.setVat v.toNat { p.vat v.toNat with pressQ := rest }
    let g := s.mem.fetch q 7 o.recA 128
    (q.recordReason v.toNat g = none → ∃ t x, exec (.pressOpStart v) s = .next t ∧ t.mem = s.mem ∧
      (t.pkg.vat v.toNat).pressQ = rest ∧ (t.pkg.vat v.toNat).press = some x ∧ x.op = o ∧ x.r = optRecOf g.bytes ∧
      x.discard = s.pkg.discards v.toNat o.step ∧ x.done = []) ∧
    (∀ r, q.recordReason v.toNat g = some r → ∃ t, exec (.pressOpStart v) s = .next t ∧ t.mem = s.mem ∧
      (t.pkg.vat v.toNat).pressQ = rest ∧ (t.pkg.vat v.toNat).press = none ∧
      t.pkg.getF F.PRESS_STAT2.REFUSED (4 * v.toNat) = satAdd
        (F.PRESS_STAT2.REFUSED.hi + 1 - F.PRESS_STAT2.REFUSED.lo) (s.pkg.getF F.PRESS_STAT2.REFUSED (4 * v.toNat)) 1)) ∧
  (∀ (s : State) (v : BitVec 2) (j : Nat) (x : PressRun) (q : Pkg), s.pkg.alive = true → s.pkg.vatReady v.toNat = true →
    (s.pkg.vat v.toNat).press = some x → x.turn j = true → s.sound →
    let r := x.r
    let blks (a n : Nat) : List SliceBlk := Dev.sliceRead ⟨s.mem, s.pkg⟩ a n
    let hi := blks (r.hi + 8192 * j) 2
    let lo := blks (r.lo + 8192 * j) 2
    let wh := if r.whey = true then blks (r.wheyA + 4096 * j) 1 else []
    let gr := if x.discard = true then [] else if r.gbf16 = true then blks (r.grad + 8192 * j) 2 else blks (r.grad + 16384 * j) 4
    let m1 := if x.discard = true ∨ r.usesM1 = false then [] else blks (r.mom1 + 16384 * j) 4
    let m2 := if x.discard = true ∨ r.usesM2 = false then [] else blks (r.mom2 + 16384 * j) 4
    let ins := [hi, lo, wh, gr, m1, m2].flatten
    let outs := if x.discard = true ∨ ∃ b ∈ ins, b.ok = false then [] else [hi, lo, wh, m1, m2].flatten
    (s.pkg.directs 2 false true (ins.map fun b => (b.addr, 4096))).bind
      (fun p => p.directs 2 true true (outs.map fun b => (b.addr, 4096))) = some q →
    ∃ t y, exec (.pressSlice v j) s = .next t ∧ (t.pkg.vat v.toNat).press = some y ∧ y.done = x.done ++ [j] ∧
      y.op = x.op ∧ y.r = x.r ∧ (outs = [] → t.mem = s.mem) ∧
      (outs ≠ [] → s.MemOk → s.pkg.placeBad v.toNat r = false → (∀ b ∈ outs, s.pkg.writable b.addr) →
        let old (i : Nat) : Nat := (numsOf 2 (sliceBytes hi)).getD i 0 * 65536 + (numsOf 2 (sliceBytes lo)).getD i 0
        let ps := (List.range 4096).map fun i => r.param (old i) (((numsOf 1 (sliceBytes wh)).map (toSigned 8)).getD i 0)
          ((numsOf (if r.gbf16 = true then 2 else 4) (sliceBytes gr)).getD i 0) ((numsOf 4 (sliceBytes m1)).getD i 0)
          ((numsOf 4 (sliceBytes m2)).getD i 0)
        let put (a : Nat) (bs : List Byte) : Prop := t.mem.read a bs.length = bs ∧ ∀ i, i * 4096 < bs.length →
          t.mem.read (rindEntry (a + i * 4096)) 4 = leBytes 4 (rindOf ((bs.drop (i * 4096)).take 4096))
        put (r.hi + 8192 * j) (ps.map fun y => leBytes 2 (y.m / 65536)).flatten ∧
        put (r.lo + 8192 * j) (ps.map fun y => leBytes 2 (y.m % 65536)).flatten ∧
        (r.whey = true → put (r.wheyA + 4096 * j) (ps.map fun y => BitVec.ofNat 8 (ofSigned 8 y.q))) ∧
        (r.usesM1 = true → put (r.mom1 + 16384 * j) (ps.map fun y => leBytes 4 y.m1).flatten) ∧
        (r.usesM2 = true → put (r.mom2 + 16384 * j) (ps.map fun y => leBytes 4 y.m2).flatten) ∧
        (∀ b, (∀ y ∈ outs, ¬(y.addr ≤ b ∧ b < y.addr + 4096) ∧ ¬(rindEntry y.addr ≤ b ∧ b < rindEntry y.addr + 4)) →
          t.mem.byte b = s.mem.byte b) ∧
        y.nfG = x.nfG + (ps.filter (·.held == 1)).length ∧ y.nfW = x.nfW + (ps.filter (·.held == 2)).length ∧
        y.sat = x.sat + (ps.map (·.sat)).foldl (· + ·) 0)) ∧
  (∀ (s : State) (v : BitVec 2) (x : PressRun), s.pkg.alive = true → s.pkg.hasVat v.toNat = true →
    (s.pkg.vat v.toNat).press = some x → x.allDone = true →
    ∃ t, exec (.pressOpDone v) s = .next t ∧ t.mem = s.mem ∧ (t.pkg.vat v.toNat).press = none ∧
      (t.core x.op.phys).flight = (s.core x.op.phys).flight.filter (fun f => match f.kind with
        | .press _ n => n != x.op.no
        | _ => true) ∧
      (s.pkg.fifoFits 2 8 = true →
        let o := x.op
        let sum (f : Sums → Nat) : FV := x.sums.foldl (fun a y => rnd64 (a.add (decF 14 (f y.2)))) (.fin false 0 0)
        let ratio := if x.discard = true then 0 else ratioOf (sum (·.u)) (sum (·.w))
        let high := (dec32 (s.pkg.getF F.PRESS_CFG.RATIO_MAX 0)).lt (dec32 ratio)
        let fp64 (a : FV) : Nat := (encFP 14 a).bits % 2 ^ 63
        let ws : List Nat := [b2n x.discard * 2 ^ 62 + b2n high * 2 ^ 61 + b2n x.rindHeld * 2 ^ 60 + x.r.opt * 2 ^ 56 +
            v.toNat * 2 ^ 54 + x.r.layer * 2 ^ 32 + o.slate * 2 ^ 16 + min x.sat 65535, o.step % 2 ^ 63, s.pkg.time % 2 ^ 63,
          fp64 (sum (·.w)), fp64 (sum (·.g)), fp64 (sum (·.u)), ratio % 2 ^ 31 * 2 ^ 32 + min x.nfG (2 ^ 32 - 1),
          min x.nfW (2 ^ 31 - 1) * 2 ^ 32 + x.r.slices]
        t.pkg.fifo 2 = s.pkg.fifo 2 ++ ws.map fun w => BitVec.ofNat 64 (2 ^ 63 + w)))

/-- R343: a combination of the step named takes every entry of it, drops the older ones, and shows its digests when done.
Commands that complete here, with the effect stated: DIGEST_GO, DIGEST_DONE. -/
def Obligations.DigestCombined : Prop :=
  (∀ (s : State), s.pkg.alive = true → s.pkg.flag F.PRESS_DIG_CTL.DONE 0 = true →
    let n := (s.pkg.reg .PRESS_DIG_STEP 0).toNat
    let vs := (List.range 4).filter s.pkg.hasVat
    ∃ t, exec .digestGo s = .next t ∧ t.mem = s.mem ∧ t.pkg.flag F.PRESS_DIG_CTL.DONE 0 = false ∧
      t.pkg.lastDig = some n ∧ (∀ v ∈ vs, (t.pkg.vat v).digs = (s.pkg.vat v).digs.filter fun e => n < e.step) ∧
      t.pkg.dig = some ⟨n, vs.map fun v => (v, (s.pkg.vatDigest v n).1, (s.pkg.vatDigest v n).2),
        ceWords (vs.map fun v => (s.pkg.vatDigest v n).1), ciWords (vs.map fun v => (s.pkg.vatDigest v n).2)⟩) ∧
  (∀ (s : State) (r : DigRun), s.pkg.alive = true → s.pkg.dig = some r →
    ∃ t, exec .digestDone s = .next t ∧ t.mem = s.mem ∧ t.pkg.flag F.PRESS_DIG_CTL.DONE 0 = true ∧ t.pkg.dig = none ∧
      t.pkg.reg .PRESS_DIG_CE 0 = BitVec.ofNat 64 r.ce ∧ t.pkg.reg .PRESS_DIG_CI 0 = BitVec.ofNat 64 r.ci)

/-! ### The memory system (11) -/

/-- R363, R368: a request for stacked memory joins its pseudo-channel's queue while that has a free slot and its bank less
than 16 requests; else the fabric holds it, and at the cap of its bank it is counted. Behind a full queue every held
request waits in its order. Other pseudo-channels and memory stay. R355, R356, R359, R363, R365: the service picks
among the requests whose bank is ready, whose row is not under copy and that stand behind no older one to the same
data; the request served leaves the queue, and an op's is performed for its op; another one's read leaves memory
alone, its write is performed. Commands that complete here, with the effect stated: MEM_REQUEST_ACCEPT,
MEM_READ_SERVICE, MEM_WRITE_SERVICE. -/
def Obligations.MemoryRequests : Prop :=
  (∀ (s : State) (id : Nat) (kind : BitVec 4) (wr : Bool) (a : BitVec 48) (len : BitVec 13) (rind : Bool)
    (slate : BitVec 16) (data : List Byte) (v : Nat), s.pkg.alive = true →
    (s.pkg.place a.toNat = .user v ∨ s.pkg.place a.toNat = .reserved v) →
    let c := pchKey a.toNat
    let x := s.pkg.pch c
    let r : MemReq := ⟨id, kind.toNat, wr, a.toNat, len.toNat, rind, slate.toNat, 0, data, none, false⟩
    let full := s.pkg.bankFull x r
    let F := F.MC_BANK_STAT.CAP_HITS
    let bare (ys : List MemReq) : List MemReq := ys.map fun y => { y with hit := false }
    ∃ t, exec (.memRequestAccept id kind wr a len rind slate data) s = .next t ∧ t.mem = s.mem ∧
      (∀ j, j ≠ c → t.pkg.pch j = s.pkg.pch j) ∧
      (x.held = [] → x.q.length < 64 ∧ full = false →
        (t.pkg.pch c).q = x.q ++ [{ r with since := s.pkg.time }] ∧ (t.pkg.pch c).held = [] ∧
        t.pkg.getF F c = s.pkg.getF F c) ∧
      (x.held = [] → ¬(x.q.length < 64 ∧ full = false) →
        (t.pkg.pch c).q = x.q ∧ (t.pkg.pch c).held = [{ r with hit := full }] ∧
        t.pkg.getF F c = satAdd (F.hi + 1 - F.lo) (s.pkg.getF F c) (b2n full)) ∧
      (64 ≤ x.q.length → (t.pkg.pch c).q = x.q ∧ bare (t.pkg.pch c).held = bare (x.held ++ [r]))) ∧
  (∀ (s : State) (n : BitVec 4) (c : BitVec 6) (ready : BitVec 64) (r : MemReq) (p : Pkg), s.pkg.alive = true →
    s.pkg.hasVat (n.toNat / 4) = true →
    let key := n.toNat * 64 + c.toNat
    let may (p : Pkg) (r : MemReq) : Bool := bitOf ready.toNat (p.bankOf r) && !p.underCopy r.addr r.len
    (s.pkg.serveNext key ready.toNat false = some (r, p) →
      r ∈ readyReqs (may s.pkg) [] (s.pkg.pch key).q ∧
      ((s.pkg.pch key).held = [] → (p.pch key).q = (s.pkg.pch key).q.erase r) ∧
      (s.sound → r.op = none → p.vatReady (key / 256) = true → (r.kind = 6 ∨ p.held (key / 64) = false) →
        exec (.memReadService n c ready []) s = .next { s with pkg := p }) ∧
      (∀ k no, r.op = some (k, no) → exec (.memReadService n c ready []) s = .next { s with
        mem := (Dev.performAt ⟨s.mem, p⟩ k no r.addr).mem, pkg := (Dev.performAt ⟨s.mem, p⟩ k no r.addr).pkg })) ∧
    (s.pkg.serveNext key ready.toNat true = some (r, p) →
      r ∈ readyReqs (may s.pkg) [] (s.pkg.pch key).q ∧
      ((s.pkg.pch key).held = [] → (p.pch key).q = (s.pkg.pch key).q.erase r) ∧
      (s.MemOk → s.sound → r.op = none → s.pkg.writable r.addr → r.rind = false → r.data.length = r.len →
        ∃ t, exec (.memWriteService n c ready []) s = .next t ∧
          (∀ i, i < r.len → t.mem.byte (r.addr + i) = r.data.getD i 0) ∧
          ∀ b, ¬(r.addr ≤ b ∧ b < r.addr + r.len) → t.mem.byte b = s.mem.byte b) ∧
      (∀ k no, r.op = some (k, no) → exec (.memWriteService n c ready []) s = .next { s with
        mem := (Dev.performAt ⟨s.mem, p⟩ k no r.addr).mem, pkg := (Dev.performAt ⟨s.mem, p⟩ k no r.addr).pkg })))

/-- R354, R355, R357, R360: the inner-code count rises; a patrol read corrects and counts a codeword with errors that the
code corrects, and counts one that it cannot correct, which stays as it is. R358, R359: a pin at its threshold is
marked when no other is; a row at its threshold is copied into a remap row; when the copy is done the row is retired,
and its accesses go to the remap row. Commands that complete here, with the effect stated: INNER_COUNT_POLL,
SCRUB_READ, PIN_MARKED, ROW_RETIRED, ROW_COPY_DONE. -/
def Obligations.MemoryErrors : Prop :=
  ((∀ (s : State) (n : BitVec 4) (c : BitVec 6) (k : BitVec 16), s.pkg.alive = true → s.pkg.hasVat (n.toNat / 4) = true →
    exec (.innerCountPoll n c k) s = .next (s.pkgTo fun p => p.addF F.MC_ERR.INNER (n.toNat * 64 + c.toNat) k.toNat)) ∧
  (∀ (s : State) (a : BitVec 48) (e : CwErr) (v : Nat), s.pkg.alive = true →
    (s.pkg.place a.toNat = .user v ∨ s.pkg.place a.toNat = .reserved v) → s.pkg.vatReady v = true →
    s.pkg.flag F.MC_ERR_CFG.SCRUB_EN 0 = true → s.sound → e.addr = a →
    let u := unitOf a.toNat
    let c := pchKey (8 * u)
    ∃ t, exec (.scrubRead a [e]) s = .next t ∧ t.mem = s.mem ∧ match (s.pkg.struck [e]).decode u with
      | .clean => t.pkg = s.pkg.struck [e]
      | .lost => t.pkg.badRange a.toNat 1 = true ∧ t.pkg.getF F.MC_ERR.UE c =
          satAdd (F.MC_ERR.UE.hi + 1 - F.MC_ERR.UE.lo) (s.pkg.getF F.MC_ERR.UE c) 1
      | _ => tfind t.pkg.flaws u = none ∧ t.pkg.getF F.MC_ERR.CE c =
          satAdd (F.MC_ERR.CE.hi + 1 - F.MC_ERR.CE.lo) (s.pkg.getF F.MC_ERR.CE c) 1)) ∧
  (∀ (s : State) (n : BitVec 4) (c bank : BitVec 6) (row : BitVec 13), s.pkg.alive = true →
    s.pkg.hasVat (n.toNat / 4) = true →
    let key := n.toNat * 64 + c.toNat
    let x := s.pkg.pch key
    let here (y : Nat × Nat × Nat) : Bool := (y.1, y.2.1) == (bank.toNat, row.toNat)
    (∀ pin : BitVec 5, max 1 (s.pkg.getF F.MC_ERR_CFG.PIN_THRESH 0) ≤ tget 0 x.pins pin.toNat →
      x.pinLog.contains pin.toNat = false → s.pkg.getF F.MC_LANE.MARKED key = 0 →
      ∃ t, exec (.pinMarked n c pin) s = .next t ∧ t.mem = s.mem ∧ t.pkg.getF F.MC_LANE.MARKED key = 2 ^ pin.toNat) ∧
    (∀ r, x.rows.find? (fun r => r.bank == bank.toNat && r.row == row.toNat) = some r →
      max 1 (s.pkg.getF F.MC_ERR_CFG.ROW_THRESH 0) ≤ r.cnt → (x.copying ++ x.retired).any here = false →
      s.pkg.getF F.MC_REMAP.USED key < 2048 →
      ∃ t, exec (.rowRetired n c bank row) s = .next t ∧ t.mem = s.mem ∧
        (t.pkg.pch key).copying = x.copying ++ [(bank.toNat, row.toNat, s.pkg.getF F.MC_REMAP.USED key)] ∧
        t.pkg.getF F.MC_REMAP.USED key = s.pkg.getF F.MC_REMAP.USED key + 1) ∧
    (∃ t, exec (.rowCopyDone n c bank row) s = .next t ∧ t.mem = s.mem ∧
      (t.pkg.pch key).copying = x.copying.filter (fun y => !here y) ∧
      (t.pkg.pch key).retired = x.retired ++ x.copying.filter here ∧
      ∀ (a i : Nat), x.retired.any here = false → x.copying.filter here = [(bank.toNat, row.toNat, i)] →
        pchKey a = key → bankRow a = (bank.toNat, row.toNat) → t.pkg.rowOf a = remapRow i))

/-- R372, R373: distinct blocks of a cellar have distinct places in its slices; a write of a block stores it with its
rind; a read corrects and counts a word with one wrong bit, and counts an uncorrectable one. R375–R377: a maintenance
hold is set while no core of the vat runs; a repair is started under it and refused without it; its result is shown,
and a row repaired keeps its data, its correctable errors corrected. Commands that complete here, with the effect
stated: CELLAR_ACCESS, MC_MAINT_HOLD, SPPR, HPPR, LANE_SOFT, LANE_HARD, UNDO_SOFT, REPAIR_RESULT. -/
def Obligations.CellarsAndRepairs : Prop :=
  ((∀ c c' : Nat, cellarSlice c = cellarSlice c' → c = c') ∧
  ∀ (s : State) (v : BitVec 2) (b : BitVec 16) (data : List Byte), s.pkg.alive = true →
    s.pkg.vatReady v.toNat = true → s.sound →
    let a := 0x010000000000 + v.toNat * 0x100000000 + b.toNat * 4096
    (data.length = 4096 → ∃ t, exec (.cellarAccess v b [] true data) s = .next t ∧ t.mem = s.mem.write a data ∧
      tget (BitVec.ofNat 32 zeroRind) t.pkg.crinds (a / 4096) = BitVec.ofNat 32 (rindOf data)) ∧
    (∀ e : CwErr, a ≤ e.addr.toNat → e.addr.toNat < a + 4096 →
      let u := unitOf e.addr.toNat
      (∀ es, (s.pkg.struck [e]).decode u = .fixed es → ∃ t, exec (.cellarAccess v b [e] false data) s = .next t ∧
        t.mem = s.mem ∧ tfind t.pkg.flaws u = none ∧ t.pkg.getF F.MC_CELLAR_ERR.CE v.toNat = satAdd
          (F.MC_CELLAR_ERR.CE.hi + 1 - F.MC_CELLAR_ERR.CE.lo) (s.pkg.getF F.MC_CELLAR_ERR.CE v.toNat) 1) ∧
      ((s.pkg.struck [e]).decode u = .lost → ∃ t, exec (.cellarAccess v b [e] false data) s = .next t ∧
        t.mem = s.mem ∧ t.pkg.getF F.MC_CELLAR_ERR.UE v.toNat = satAdd
          (F.MC_CELLAR_ERR.UE.hi + 1 - F.MC_CELLAR_ERR.UE.lo) (s.pkg.getF F.MC_CELLAR_ERR.UE v.toNat) 1))) ∧
  ((∀ (s : State) (n : BitVec 4), s.pkg.alive = true → s.pkg.hasVat (n.toNat / 4) = true →
    (s.pkg.anyRunIn (n.toNat / 4) = false → ∃ t, exec (.mcMaintHold n true) s = .next t ∧ t.mem = s.mem ∧
      t.pkg.held n.toNat = true) ∧
    (∃ t, exec (.mcMaintHold n false) s = .next t ∧ t.mem = s.mem ∧ t.pkg.held n.toNat = false)) ∧
  (∀ q ∈ ([(.sppr, 1), (.hppr, 2), (.laneSoft, 3), (.laneHard, 4), (.undoSoft, 5)] :
      List ((BitVec 4 → BitVec 6 → BitVec 6 → BitVec 13 → BitVec 5 → Instr) × Nat)),
    ∀ (s : State) (n : BitVec 4) (pch bank : BitVec 6) (row : BitVec 13) (lane : BitVec 5), s.pkg.alive = true →
    s.pkg.hasVat (n.toNat / 4) = true → s.pkg.flag F.MC_REPAIR_STAT.DONE n.toNat = true →
    (s.pkg.held n.toNat = true → s.pkg.stackIdle n.toNat = true →
      ∃ t, exec (q.1 n pch bank row lane) s = .next t ∧ t.mem = s.mem ∧
        tfind t.pkg.repairs n.toNat = some ⟨q.2, pch.toNat, bank.toNat, row.toNat, lane.toNat⟩ ∧
        t.pkg.flag F.MC_REPAIR_STAT.DONE n.toNat = false ∧ t.pkg.getF F.MC_REPAIR.OP n.toNat = q.2) ∧
    (s.pkg.held n.toNat = false →
      ∃ t, exec (q.1 n pch bank row lane) s = .next t ∧ t.mem = s.mem ∧ t.pkg.repairs = s.pkg.repairs ∧
        t.pkg.flag F.MC_REPAIR_STAT.DONE n.toNat = true ∧ t.pkg.getF F.MC_REPAIR_STAT.RESULT n.toNat = 3)) ∧
  (∀ (s : State) (n : BitVec 4) (r : Repair), s.pkg.alive = true → s.pkg.hasVat (n.toNat / 4) = true →
    tfind s.pkg.repairs n.toNat = some r → r.op = 1 →
    ∃ t, exec (.repairResult n 1) s = .next t ∧ t.mem = s.mem ∧ t.pkg.flag F.MC_REPAIR_STAT.DONE n.toNat = true ∧
      t.pkg.getF F.MC_REPAIR_STAT.RESULT n.toNat = 1 ∧ tfind t.pkg.repairs n.toNat = none ∧
      (t.pkg.pch (n.toNat * 64 + r.pch)).softRows =
        (s.pkg.pch (n.toNat * 64 + r.pch)).softRows ++ [(r.bank, r.row)] ∧
      ∀ u ∈ s.pkg.rowUnits (n.toNat * 64 + r.pch) r.bank r.row, (∃ es, s.pkg.decode u = .fixed es) → tfind t.pkg.flaws u = none))

/-! ### Collective calls (13) -/

/-- R414–R418, R428, R429, R431: a call opens once memory serves the read of its descriptor, is registered, closes and
gives its outcome word. The arrival of a member for the last call has its time recorded and its digest compared: a
difference aborts the open call. That an arrival for the next call waits until it opens is the model's choice (log
entry 57). An abort of the open call acts. Commands that complete here, with the effect stated: SC_COPEN, SC_CCLOSE,
CALL_REGISTER, COLL_ARRIVAL_RECEIVE, COLL_ABORT_RECEIVE, CCLOSE_DRAINED. -/
def Obligations.CollectiveCalls : Prop :=
  (∀ (s : State) (id : BitVec 9) (k : Nat) (bits : BitVec 64) (e : Entry) (q : Pkg), s.scNext id k 0x34 bits e → isDirKey k = true →
    let a := (e.s (fld bits.toNat 17 13)).toNat
    let d := collDesc (s.mem.read a 64)
    s.pkg.addrCode (s.core k).hdr.claims a = none → alignedTo 64 a = true →
    (∃ v, s.pkg.place a = .user v ∧ s.pkg.vatReady v = true) → s.pkg.held (stackOf a) = false →
    s.sound → d.group < 64 → s.pkg.collValid d.group = true →
    some (s.pkg.getF F.COLL_GRP_CFG.DIRECTOR d.group) = s.pkg.logicalOf k → s.pkg.callOf k = none →
    (s.pkg.onCore k Core.scDone).direct 7 false false a 64 = some q →
    exec (.scCopen id bits) s =
      .next (s.pkgTo fun _ => q.onCore k fun c => c.holdTo (.copen d.group (ofLe (s.mem.read a 64))))) ∧
  (∀ (s : State) (id : BitVec 9) (k g desc : Nat), s.running id k → (s.core k).fe.hold = .copen g desc → g < 64 →
    let x := s.pkg.collGrp g
    let d := collDesc (leBytes 64 desc)
    let seq := s.pkg.getF F.COLL_GRP_STATE.SEQ_NEXT g
    let mask := s.pkg.collMask g
    x.mark = none → x.early = none → x.soon = [] → x.earlyN ≤ d.expect →
    (s.pkg.positions g mask).contains (s.pkg.getF F.COLL_GRP_CFG.OWN_POS g) = true →
    s.pkg.collDescOk (s.core k).hdr.claims (s.pkg.positions g mask).length d = true →
    ∃ t, exec (.callRegister id) s = .next t ∧ t.mem = s.mem ∧ (t.core k).fe.hold = .free ∧
      t.pkg.getF F.COLL_GRP_STATE.SEQ_NEXT g = (seq + 1) % 2 ^ 32 ∧ t.pkg.getF F.COLL_GRP_STATE.STATE g = 1 ∧
      (t.pkg.collGrp g).call = some ⟨k, seq, mask, s.pkg.callDigest g seq mask d, d.expect, d.dst, d.dstLen, d.stg,
        d.stgLen, false, 0, false⟩) ∧
  (∀ (s : State) (id : BitVec 9) (k g : Nat) (bits : BitVec 64) (e : Entry) (c : Call), s.scNext id k 0x35 bits e →
    s.pkg.callOf k = some (g, c) → exec (.scCclose id bits) s = .next (s.coreTo k fun c =>
      { c.scDone.holdTo (.cclose (fld bits.toNat 12 8) g) with
        waits := c.waits ++ [⟨.fe, .lclose, 0, 0, false, 0, 0, e.slate, s.pkg.time⟩] })) ∧
  (∀ (s : State) (id : BitVec 9) (k sd g : Nat) (x : Call), s.running id k → (s.core k).fe.hold = .cclose sd g →
    (s.core k).drained = true → (s.pkg.collGrp g).call = some x → x.aborted = false →
    s.pkg.getF F.COLL_GRP_STATE.ARRIVED g = x.expect →
    ∃ t, exec (.ccloseDrained id) s = .next t ∧ t.mem = s.mem ∧ (t.core k).fe.hold = .free ∧
      (t.core k).s = ((s.core k).sTo sd (BitVec.ofNat 64 (x.seq * 2 ^ 32))).s ∧ (t.pkg.collGrp g).call = none ∧
      t.pkg.getF F.COLL_GRP_STATE.STATE g = 0) ∧
  (∀ (s : State) (src : BitVec 12) (g : BitVec 6) (seq : BitVec 32) (dg time : BitVec 64), s.pkg.alive = true →
    let x := s.pkg.collGrp g.toNat
    (∀ l, x.late = some l → l.seq = seq.toNat →
      ∃ t, exec (.collArrivalReceive src g seq dg time) s = .next t ∧
        (∀ i, (s.pkg.positions g.toNat l.mask).find? (fun i => s.pkg.member g.toNat i == src.toNat) = some i →
          t.pkg.reg .COLL_LATE (g.toNat * 256 + i) = BitVec.ofNat 64 (timeWord time.toNat)) ∧
        (dg = s.pkg.reg .COLL_GRP_DIGEST g.toNat → t.mem = s.mem ∧ (t.pkg.collGrp g.toNat).call = x.call ∧
          t.pkg.tx = s.pkg.tx) ∧
        (∀ c, dg ≠ s.pkg.reg .COLL_GRP_DIGEST g.toNat → x.call = some c → c.aborted = false →
          (t.pkg.collGrp g.toNat).call = some { c with aborted := true, cause := 0, raiser := true } ∧
          t.pkg.getF F.COLL_STAT.RAISED 0 = satAdd (F.COLL_STAT.RAISED.hi + 1 - F.COLL_STAT.RAISED.lo)
            (s.pkg.getF F.COLL_STAT.RAISED 0) 1)) ∧
    ((∀ l, x.late = some l → l.seq ≠ seq.toNat) → seq.toNat = s.pkg.getF F.COLL_GRP_STATE.SEQ_NEXT g.toNat →
    exec (.collArrivalReceive src g seq dg time) s = .next (s.pkgTo fun p =>
      p.setColl g.toNat { x with soon := x.soon ++ [⟨src.toNat, dg.toNat, time.toNat⟩] }))) ∧
  (∀ (s : State) (g : BitVec 6) (seq : BitVec 32) (cause : BitVec 2) (c : Call), s.pkg.alive = true →
    (s.pkg.collGrp g.toNat).call = some c → c.seq = seq.toNat → c.aborted = false →
    ∃ t, exec (.collAbortReceive g seq cause) s = .next t ∧ t.mem = s.mem ∧
      (t.pkg.collGrp g.toNat).call = some { c with aborted := true, cause := cause.toNat, raiser := false } ∧
      t.pkg.getF F.COLL_STAT.RECEIVED 0 = satAdd (F.COLL_STAT.RECEIVED.hi + 1 - F.COLL_STAT.RECEIVED.lo)
        (s.pkg.getF F.COLL_STAT.RECEIVED 0) 1)

/-! ### Aedun ports (12) -/

/-- R381–R383, R399: a good flit in order is delivered, and the credit of its buffer goes back; one with more than 8
damaged symbols is discarded and asked for again, so is one that shows an earlier one lost; a replay that fails again
is counted. An acknowledgement frees the kept flits up to it, gives credits back and, where it asks for a replay,
sends the others again. A port whose replays fail REPLAY_LIMIT times, or whose partner's do, retrains, and goes on at
the width of its healthy lanes. The model's choices: that more than 8 damaged symbols are always uncorrectable (log
entry 135), where the header holds the sequence number (132), which flits count as replays (68), how a failed flit is
known for a replay, and credits that no flit carries (151). Commands that complete here, with the effect stated:
PORT_FLIT_RECEIVE, PORT_FLIT_ACK, PORT_REPLAY_LIMIT, PORT_RETRAIN_DONE. -/
def Obligations.PortFlits : Prop :=
  (∀ (s : State) (n : BitVec 5) (h crc : BitVec 32) (payload : List Byte), s.pkg.alive = true → n.toNat ≤ 17 →
    s.pkg.portUp n.toNat = true →
    let x := s.pkg.port n.toNat
    (fld h.toNat 11 0 = x.rxSeq → crc.toNat = flitCrc h.toNat payload →
      ∃ t, exec (.portFlitReceive n h payload crc []) s = .next t ∧ t.mem = s.mem ∧
        (t.pkg.port n.toNat).rxSeq = (x.rxSeq + 1) % 4096 ∧ (t.pkg.port n.toNat).fails = 0 ∧
        (t.pkg.port n.toNat).asked = false ∧ (t.pkg.port n.toNat).owed = [] ∧
        ⟨.flit, n.toNat, [h.toNat, ofLe (flitPayload payload)]⟩ ∈ t.pkg.tx) ∧
    (∀ syms : List (BitVec 9), 8 < (dedup (syms.map (·.toNat))).length →
      ∃ t, exec (.portFlitReceive n h payload crc syms) s = .next t ∧ t.mem = s.mem ∧
        t.pkg.port n.toNat = { x with asked := true } ∧
        t.pkg.tx = s.pkg.tx ++ (if x.asked = true then [] else [⟨.flitNak, n.toNat, [x.rxSeq]⟩]) ∧
        t.pkg.getF F.PORT_ERR.UNCORR n.toNat = satAdd (F.PORT_ERR.UNCORR.hi + 1 - F.PORT_ERR.UNCORR.lo)
          (s.pkg.getF F.PORT_ERR.UNCORR n.toNat) 1) ∧
    (fld h.toNat 11 0 ≠ x.rxSeq → crc.toNat = flitCrc h.toNat payload → x.asked = false →
      (seqAhead x.rxTop (fld h.toNat 11 0) = 0 ∨ 2048 ≤ seqAhead x.rxTop (fld h.toNat 11 0)) →
      ∃ t, exec (.portFlitReceive n h payload crc []) s = .next t ∧ t.mem = s.mem ∧
        t.pkg.port n.toNat = { x with asked := true, rxTop := (fld h.toNat 11 0 + 1) % 4096 } ∧
        t.pkg.tx = s.pkg.tx ++ [⟨.flitNak, n.toNat, [x.rxSeq]⟩]) ∧
    (∀ seq : BitVec 12, seq.toNat = x.rxSeq → crc.toNat ≠ flitCrc h.toNat payload →
      ∃ t, exec (.portFlitReceive n h payload crc [] (some seq)) s = .next t ∧ t.mem = s.mem ∧
        t.pkg.port n.toNat = { x with asked := true, fails := x.fails + 1 } ∧
        t.pkg.tx = s.pkg.tx ++ [⟨.flitNak, n.toNat, [x.rxSeq]⟩] ∧ t.pkg.getF F.PORT_ERR.REPLAYS n.toNat =
          satAdd (F.PORT_ERR.REPLAYS.hi + 1 - F.PORT_ERR.REPLAYS.lo) (s.pkg.getF F.PORT_ERR.REPLAYS n.toNat) 1) ∧
    (∀ partner : Bool, partner = true ∨ max 1 (s.pkg.getF F.PORT_CFG.REPLAY_LIMIT 0) ≤ x.fails →
      ∃ t, exec (.portReplayLimit n partner) s = .next t ∧ t.pkg.portState n.toNat = 8 ∧
        (t.pkg.port n.toNat).fails = 0 ∧ (t.pkg.port n.toNat).kept = x.kept ∧ t.pkg.getF F.PORT_ERR.RETRAINS n.toNat =
          satAdd (F.PORT_ERR.RETRAINS.hi + 1 - F.PORT_ERR.RETRAINS.lo) (s.pkg.getF F.PORT_ERR.RETRAINS n.toNat) 1)) ∧
  (∀ (s : State) (n : BitVec 5) (seq : BitVec 12) (replay : Bool) (credits : List (BitVec 5 × Nat)), s.pkg.alive = true →
    n.toNat ≤ 17 →
    let x := s.pkg.port n.toNat
    let left := if x.kept.any (·.seq == seq.toNat) = true then (x.kept.dropWhile (·.seq != seq.toNat)).drop 1 else x.kept
    ∃ t more, exec (.portFlitAck n seq replay credits) s = .next t ∧ t.mem = s.mem ∧
      (t.pkg.port n.toNat).kept = left ++ more ∧
      (x.out = [] → t.pkg.port n.toNat =
          { credits.foldl (fun y c => y.credited c.1.toNat c.2) x with kept := left } ∧
        t.pkg.tx = s.pkg.tx ++ if replay = true ∧ s.pkg.portUp n.toNat = true then left.map fun f =>
          let h := flitHeader f.seq ((x.rxSeq + 4095) % 4096) f.tc f.vc f.cred
          ⟨.flitSend, n.toNat, [h, ofLe (flitPayload f.payload), flitCrc h f.payload]⟩ else [])) ∧
  (∀ (s : State) (n : BitVec 5), s.pkg.alive = true → n.toNat ≤ 17 → s.pkg.retraining n.toNat = true →
    (s.pkg.port n.toNat).late = [] → s.pkg.optical n.toNat = false → s.pkg.lanesWidth n.toNat ≠ 0 →
    ∃ t, exec (.portRetrainDone n 0 0) s = .next t ∧
      t.pkg.portState n.toNat = widthState (s.pkg.lanesWidth n.toNat) ∧
      ((s.pkg.port n.toNat).asked = true → ⟨.flitNak, n.toNat, [(s.pkg.port n.toNat).rxSeq]⟩ ∈ t.pkg.tx) ∧
      t.pkg.getF F.PORT_STATUS.BW n.toNat = bandwidth (s.pkg.getF F.PORT_STATUS.RATE n.toNat) (s.pkg.lanesWidth n.toNat))

/-- R384–R386, R405: a window is judged lane by lane; a lane that fails at this end is marked and its partner told; at the
agreed boundary the port keeps its width on a spare lane, or retrains to the width left; an optical port notes the
guest die's report. R388–R392: training starts at every port in RESET; a port whose partner is the cabled one goes UP
at the width of its lanes and the highest rate that both ends support, another is MISCABLED; one without a common rate
(the model's choice, log entry 134), or that finds no partner, says so. Commands that complete here, with the effect
stated: LINK_TRAINING_START, PORT_TRAIN_DONE, PORT_NO_PARTNER, LANE_WINDOW_END, LANE_FAIL, LANE_SIGNAL_LOSS,
LINK_CONTROL_BLOCK, GUEST_PORT_STATE. -/
def Obligations.PortLinks : Prop :=
  ((∀ (s : State) (n : BitVec 5), s.pkg.alive = true → n.toNat ≤ 17 →
    ∃ t, exec (.laneWindowEnd n) s = .next t ∧ (t.pkg.port n.toNat).win = [] ∧
      (t.pkg.port n.toNat).winNo = (s.pkg.port n.toNat).winNo + 1 ∧
      ∀ l, l < 5 → t.pkg.getF F.PORT_LANE_ERR.BAD_WIN (laneInst n.toNat l) =
        satAdd (F.PORT_LANE_ERR.BAD_WIN.hi + 1 - F.PORT_LANE_ERR.BAD_WIN.lo)
          (s.pkg.getF F.PORT_LANE_ERR.BAD_WIN (laneInst n.toNat l))
          (b2n (s.pkg.getF F.PORT_CFG.WIN_LIMIT 0 < tget 0 (s.pkg.port n.toNat).win l))) ∧
  (∀ (s : State) (n : BitVec 5) (l : BitVec 3), s.pkg.alive = true → n.toNat ≤ 17 →
    s.pkg.laneLive n.toNat l.toNat = true →
    let done (t : State) : Prop := (t.pkg.port n.toNat).late = (s.pkg.port n.toNat).late ++
        [(0, l.toNat, (s.pkg.port n.toNat).winNo)] ∧
      bitOf (t.pkg.getF F.PORT_STATUS.RX_FAILED n.toNat) l.toNat = true ∧
      t.pkg.flag F.PORT_LANE_ERR.FAILED (laneInst n.toNat l.toNat) = true ∧
      t.pkg.tx = s.pkg.tx ++ [⟨.linkControl, n.toNat, [l.toNat]⟩]
    (∃ t, exec (.laneSignalLoss n l) s = .next t ∧ done t) ∧
    (max 1 (s.pkg.getF F.PORT_CFG.LANE_THRESH 0) ≤ s.pkg.getF F.PORT_LANE_ERR.BAD_WIN (laneInst n.toNat l.toNat) →
      ∃ t, exec (.laneFail n l) s = .next t ∧ done t)) ∧
  (∀ (s : State) (n : BitVec 5) (tx : Bool) (l : BitVec 3), s.pkg.alive = true → n.toNat ≤ 17 →
    s.pkg.portUp n.toNat = true → s.pkg.optical n.toNat = false → l.toNat < 5 →
    (tx = false → (s.pkg.port n.toNat).late.any (fun y => y.1 == 0 && y.2.1 == l.toNat) = true ∧
      (s.pkg.port n.toNat).behindLane l.toNat = false) →
    (tx = true → bitOf (s.pkg.getF F.PORT_STATUS.TX_FAILED n.toNat) l.toNat = false) →
    let w := (s.pkg.dropLane n.toNat (b2n tx) l.toNat).lanesWidth n.toNat
    (w ≠ 0 → ∃ t, exec (.linkControlBlock n tx l) s = .next t ∧
      t.pkg.portState n.toNat = (if s.pkg.portWidth n.toNat ≤ w then s.pkg.portState n.toNat else 8) ∧
      (tx = true → bitOf (t.pkg.getF F.PORT_STATUS.TX_FAILED n.toNat) l.toNat = true)) ∧
    (w = 0 → ∃ t, exec (.linkControlBlock n tx l) s = .next t ∧ t.pkg.portState n.toNat = 7)) ∧
  (∀ (s : State) (n : BitVec 5), s.pkg.alive = true → 15 ≤ n.toNat → n.toNat ≤ 17 → s.pkg.optical n.toNat = true →
    let w := ofLe (s.mem.read (0x020020000000 + 8 * (n.toNat - 15)) 8)
    let st := if bitOf w 2 then 7 else 6 - w % 4
    bitOf w 63 = true → (bitOf w 2 = true ∨ w % 4 ≠ 3) →
    ∃ t, exec (.guestPortState n) s = .next t ∧ t.mem = s.mem ∧ (t.pkg.port n.toNat).guest = st)) ∧
  ((∀ (s : State), s.pkg.alive = true → s.pkg.getF F.CFG_BOOT.PHASE 0 = 5 →
    ∃ t, exec .linkTrainingStart s = .next t ∧ t.mem = s.mem ∧ t.pkg.getF F.CFG_BOOT.PHASE 0 = 6 ∧
      ∀ n, n < 18 → t.pkg.portState n = if s.pkg.portState n = 0 then 1 else s.pkg.portState n) ∧
  (∀ (s : State) (n pport : BitVec 5) (pid : BitVec 12) (popt : Bool) (rates : BitVec 4) (ver : BitVec 8),
    s.pkg.alive = true → n.toNat ≤ 17 → s.pkg.portState n.toNat = 1 → s.pkg.optical n.toNat = false →
    let run := exec (.portTrainDone n pid pport popt rates 31 31 ver) s
    (rates.toNat &&& linkRates ≠ 0 → s.pkg.cabled n.toNat pid.toNat pport.toNat popt = true →
      (s.pkg.port n.toNat).rxOut = 0 → (s.pkg.port n.toNat).txOut = 0 →
      ∃ t, run = .next t ∧ t.pkg.portState n.toNat = 4 ∧ t.pkg.getF F.PORT_STATUS.PARTNER_ID n.toNat = pid.toNat ∧
        (t.pkg.port n.toNat).partner = some (rates.toNat, ver.toNat) ∧
        t.pkg.getF F.PORT_STATUS.BW n.toNat = (if bitOf rates.toNat 2 then 200 else 100)) ∧
    (rates.toNat &&& linkRates ≠ 0 → s.pkg.cabled n.toNat pid.toNat pport.toNat popt = false →
      ∃ t, run = .next t ∧ t.pkg.portState n.toNat = 3) ∧
    (rates.toNat &&& linkRates = 0 → ∃ t, run = .next t ∧ t.pkg.portState n.toNat = 2)) ∧
  (∀ (s : State) (n : BitVec 5), s.pkg.alive = true → n.toNat ≤ 17 → s.pkg.portState n.toNat = 1 →
    ∃ t, exec (.portNoPartner n) s = .next t ∧ t.pkg.portState n.toNat = 2))

/-- R387, R393–R397, R399: a packet for the package itself is delivered to its hub, whose acts on it are commands of their
own (the model's choice, log entry 152); another joins the flits of the port its route gives, on the virtual channel
of its next hop, or is dropped and counted at the hop limit or for want of a route, at the sender too (the model's
choice, log entry 53; so is how a packet waits at a port, log entry 44). A refused block is dropped from its op; a
routing entry is written while no core runs. R32, R34, R39: a credit comes back, and the next request that waits for
one leaves; the oldest request of an engine to a READY die joins the queue of its pseudo-channel, and a write to a vat
that is not READY is dropped. Commands that complete here, with the effect stated: CREDIT_RETURN,
FABRIC_REQUEST_ARRIVE, PACKET_ROUTE, REFUSAL_RECEIVE, PORT_RT_DATA_WRITE. -/
def Obligations.PacketsRouted : Prop :=
  (∀ (s : State) (src dst : BitVec 12) (tc : BitVec 2) (hops : BitVec 4) (core : BitVec 9) (eng : BitVec 3)
    (blk : Option (BitVec 9 × Nat × BitVec 48)) (data : List Byte), s.pkg.alive = true →
    let run := exec (.packetRoute src dst tc hops core eng blk data) s
    let way := s.pkg.egress src.toNat (8 * core.toNat + eng.toNat) dst.toNat tc.toNat
    (dst.toNat = s.pkg.pkgId → run = .next (s.pkgTo fun p => p.send .packet dst.toNat
      ([src.toNat, tc.toNat, hops.toNat, 8 * core.toNat + eng.toNat] ++ (match blk with
        | some b => [1, b.1.toNat, b.2.1, b.2.2.toNat]
        | none => [0]) ++ [data.length, ofLe data]))) ∧
    (dst.toNat ≠ s.pkg.pkgId → 8 ≤ hops.toNat → ∃ t, run = .next t ∧ t.pkg.getF F.PORT_RT_STAT.HOP_DROPS 0 =
      satAdd (F.PORT_RT_STAT.HOP_DROPS.hi + 1 - F.PORT_RT_STAT.HOP_DROPS.lo) (s.pkg.getF F.PORT_RT_STAT.HOP_DROPS 0) 1) ∧
    (dst.toNat ≠ s.pkg.pkgId → hops.toNat < 8 → way = none →
      ∃ t, run = .next t ∧ t.pkg.getF F.PORT_RT_STAT.NO_ENTRY 0 =
        satAdd (F.PORT_RT_STAT.NO_ENTRY.hi + 1 - F.PORT_RT_STAT.NO_ENTRY.lo) (s.pkg.getF F.PORT_RT_STAT.NO_ENTRY 0) 1) ∧
    (∀ n, dst.toNat ≠ s.pkg.pkgId → hops.toNat < 8 → way = some n →
      let x := s.pkg.port n
      let fs := packetFlits src.toNat dst.toNat tc.toNat (hops.toNat + 1) (8 * core.toNat + eng.toNat) s.pkg.net.pktNo
        (blk.map fun b => (b.1.toNat, b.2.1, b.2.2.toNat)) data
      ∃ t, run = .next t ∧ t.mem = s.mem ∧ t.pkg.net.pktNo = s.pkg.net.pktNo + 1 ∧
        (s.pkg.portUp n = false → (t.pkg.port n).out = x.out ++ fs ∧ (t.pkg.port n).kept = x.kept) ∧
        (t.pkg.port n).kept.length + (t.pkg.port n).out.length = x.kept.length + x.out.length + fs.length ∧
        ∀ f ∈ fs, f ∈ (t.pkg.port n).out ∨ ∃ g ∈ (t.pkg.port n).kept, { g with seq := 0, cred := 0 } = f)) ∧
  (∀ (s : State) (id : BitVec 9) (k no pkg tc : Nat) (a : BitVec 48) (f : Flight) (bs : List XBlk), s.pkg.alive = true →
    s.pkg.physOf id.toNat = some k → (s.core k).flightOf no = some f → f.kind = .xfer pkg tc bs →
    bs.any (·.addr == a.toNat) = true →
    ∃ t, exec (.refusalReceive id no a) s = .next t ∧ t.mem = s.mem ∧
      (t.core k).flight = ((s.core k).dropBlock no a.toNat).flight ∧
      t.pkg.getF F.CORE_XF_STAT.FAILED k = satAdd (F.CORE_XF_STAT.FAILED.hi + 1 - F.CORE_XF_STAT.FAILED.lo)
        (s.pkg.getF F.CORE_XF_STAT.FAILED k) 1) ∧
  (∀ (s : State) (g : Bool) (e : BitVec 8) (w : BitVec 64), s.pkg.alive = true → s.pkg.anyRun = false →
    (g = true ∨ e.toNat < 16) →
    (rtBad w.toNat = false → exec (.portRtDataWrite g e w) s =
      .next (s.pkgTo fun p => p.setReg .PORT_RT_DATA (rtInst (b2n g) e.toNat) w)) ∧
    (rtBad w.toNat = true → ∃ t, exec (.portRtDataWrite g e w) s = .next t ∧
      bitOf (t.pkg.reg .PORT_RT_DATA (rtInst (b2n g) e.toNat)).toNat 63 = false)) ∧
  (∀ (s : State) (id : BitVec 9) (k : Nat) (slot : BitVec 3) (e : Eng), s.carries id k → Eng.ofSlot slot.toNat = some e →
    ((∀ r ∈ (s.core k).unsent, r.eng ≠ e) → exec (.creditReturn id slot) s = .next (s.coreTo k fun c =>
      { c with spent := tset 0 c.spent e.key (tget 0 c.spent e.key - 1) })) ∧
    (∀ r f, (s.core k).unsent.find? (·.eng == e) = some r → tget 0 (s.core k).spent e.key = creditDepth →
      (s.core k).flightOf r.no = some f → ∃ t, exec (.creditReturn id slot) s = .next t ∧ t.mem = s.mem ∧
        (t.core k).unsent = (s.core k).unsent.erase r ∧ tget 0 (t.core k).spent e.key = creditDepth ∧
        (f.kind.toMemory = true → (t.core k).fab = (s.core k).fab ++ [r]))) ∧
  (∀ (s : State) (id : BitVec 9) (k : Nat) (slot die : BitVec 3) (e : Eng), s.carries id k →
    Eng.ofSlot slot.toNat = some e →
    let way := (s.core k).fab.find? fun r => r.eng == e && dieOf r.addr == die.toNat
    (way = none → s.pkg.vatReady die.toNat = true → exec (.fabricRequestArrive id slot die) s = .next s) ∧
    (∀ r q, way = some r → s.pkg.routeUp (k / 128) die.toNat = true → s.pkg.vatReady die.toNat = true →
      r.addr < 0x010000000000 → s.pkg.opMemReq k e r.no r.addr = some q →
      exec (.fabricRequestArrive id slot die) s = .next (s.pkgTo fun p =>
        (p.onCore k fun c => { c with fab := c.fab.erase r }).memAccept q)) ∧
    (∀ r f ws w, way = some r → s.pkg.routeUp (k / 128) die.toNat = true → (∃ v, s.pkg.place r.addr = .user v) →
      s.pkg.vatReady die.toNat = false → (s.core k).flightOf r.no = some f → f.kind = .store ws → r.eng = .st → r.tc = 2 →
      r ∉ (s.core k).unsent → ws.find? (·.addr == r.addr) = some w →
      (s.core k).behind r.no r.addr w.data.length (w.rind != .keep) = false →
      ∃ t, exec (.fabricRequestArrive id slot die) s = .next t ∧ t.mem = s.mem ∧ ((t.core k).flightOf r.no).map (·.kind) =
        if ws.erase w = [] then none else some (.store (ws.erase w))))

/-! ### Die-to-die edges (01) -/

/-- R19, R21–R24, R29: a flit in order whose CRC is right is delivered, with the credits of its class, and where it is a
replay it is counted and raises ERR_COUNT of the lanes in which the copy that failed differs; a bad one is kept for
that comparison; an acknowledged flit is freed; a module whose replays fail retrains, and goes to OFF when that fails;
a lane at its threshold is mapped onto a repair lane. The polynomial of the CRC, the layout of a flit with its class
and the lanes its bits take are the model's choice (log entry 106), so are the unbounded number of the flit awaited
and what counts as a replay (log entry 68). Commands that complete here, with the effect stated: D2D_FLIT_RECEIVE,
D2D_FLIT_ACK, D2D_REPLAY_LIMIT, D2D_RETRAIN_DONE, D2D_LANE_THRESH. -/
def Obligations.DieToDie : Prop :=
  ∀ (s : State) (e : BitVec 4) (n : BitVec 5) (en : BitVec 1), s.pkg.alive = true → n.toNat < s.pkg.edgeModules e.toNat →
    let x := s.pkg.d2dMod e.toNat n.toNat
    let y := x.endOf en.toNat
    let after (t : State) : D2dEnd := (t.pkg.d2dMod e.toNat n.toNat).endOf en.toNat
    (∀ (cred : BitVec 4) (payload : List Byte), x.works = true → y.ahead = [] → payload.length = 250 →
      (∃ t, exec (.d2dFlitReceive e n en y.rx cred payload []) s = .next t ∧ (after t).rx = y.rx + 1 ∧
        (after t).got = y.got ++ [payload] ∧ (after t).cred = tset 0 y.cred (flitTc payload) (tget 0 y.cred (flitTc payload) + cred.toNat) ∧ thas (after t).kept y.rx = true ∧
        t.pkg.getF F.D2D_REPLAY_CNT.REPLAYS (endInst e.toNat n.toNat en.toNat) =
          satAdd (F.D2D_REPLAY_CNT.REPLAYS.hi + 1 - F.D2D_REPLAY_CNT.REPLAYS.lo)
            (s.pkg.getF F.D2D_REPLAY_CNT.REPLAYS (endInst e.toNat n.toNat en.toNat)) (b2n (y.bads.any (·.no == y.rx))) ∧
        ∀ b l, y.bads.filter (·.no == y.rx) = [b] → b.mod = n.toNat → l < 128 →
          t.pkg.getF F.D2D_LANE_ERR.ERR_COUNT (d2dLane e.toNat n.toNat en.toNat l) =
            satAdd (F.D2D_LANE_ERR.ERR_COUNT.hi + 1 - F.D2D_LANE_ERR.ERR_COUNT.lo)
              (s.pkg.getF F.D2D_LANE_ERR.ERR_COUNT (d2dLane e.toNat n.toNat en.toNat l))
              (b2n ((s.pkg.differing e.toNat n.toNat en.toNat b.flit (d2dFlit y.rx cred.toNat payload)).contains l))) ∧
      ∀ flips : List (BitVec 11),
        let flit := flipBits (d2dFlit y.rx cred.toNat payload) (flips.map (·.toNat))
        flitGood flit = false → ∃ t, exec (.d2dFlitReceive e n en y.rx cred payload flips) s = .next t ∧
          (after t).rx = y.rx ∧ (after t).got = y.got ∧ (after t).bads = y.bads ++ [⟨y.rx, n.toNat, y.rx, flit⟩]) ∧
    (∀ q, q < y.rx → exec (.d2dFlitAck e n en q) s = .next (s.pkgTo fun p =>
      p.setMod e.toNat n.toNat (x.setEnd en.toNat { y with kept := tdel y.kept q }))) ∧
    (x.works = true → max 1 (s.pkg.getF F.D2D_CFG.REPLAY_LIMIT 0) ≤ y.fails n.toNat →
      ∃ t, exec (.d2dReplayLimit e n en) s = .next t ∧ (t.pkg.d2dMod e.toNat n.toNat).st = 3 ∧
        (t.pkg.d2dMod e.toNat n.toNat).want = x.st) ∧
    (x.st = 3 → thas s.pkg.edges e.toNat = true →
      (exec (.d2dRetrainDone e n true) s =
        .next (s.pkgTo fun p => p.setMod e.toNat n.toNat { x with st := x.want })) ∧
      ∃ t, exec (.d2dRetrainDone e n false) s = .next t ∧ (t.pkg.d2dMod e.toNat n.toNat).st = 2) ∧
    (∀ l : BitVec 7, x.st = 0 → x.want = 0 → thas s.pkg.edges e.toNat = true → l.toNat < 68 →
      let i := d2dLane e.toNat n.toNat en.toNat l.toNat
      max 1 (s.pkg.getF F.D2D_CFG.LANE_THRESH 0) ≤ s.pkg.getF F.D2D_LANE_ERR.ERR_COUNT i →
      s.pkg.flag F.D2D_LANE_ERR.REPAIRED i = false → s.pkg.repairsUsed e.toNat n.toNat en.toNat < 4 →
      ∃ t, exec (.d2dLaneThresh e n en l) s = .next t ∧ (t.pkg.d2dMod e.toNat n.toNat).st = 3 ∧
        t.pkg.flag F.D2D_LANE_ERR.REPAIRED i = true)

/-! ### Vat resets, power, reset and boot (01, 16, 18, 19) -/

/-- R34, R37–R40, R483, R485: a vat reset runs through QUIESCE, RESET, SCAN or BOOT to READY; in RESET its cores hold no
program, and of their ops only requests to other dies are still under way; the cellar of the vat comes out clear, and
no other byte of memory changes. Commands that complete here, with the effect stated: VAT_PLL_UNLOCK,
VAT_RESET_REQUEST, VAT_QUIESCE_DRAINED, VAT_RESET_HOLD_END, VAT_SCAN_DONE, VAT_BOOT_DONE. -/
def Obligations.VatResets : Prop :=
  (∀ (s : State) (mask cause : BitVec 4) (scan : Bool), s.pkg.alive = true →
    (cause.toNat ∈ [1, 2, 5] → ∃ t, exec (.vatResetRequest mask cause scan) s = .next t ∧ t.mem = s.mem ∧
      ∀ v, v < 4 → bitOf mask.toNat v = true → s.pkg.vatReady v = true →
        (t.pkg.vat v).st = .quiesce ∧ (t.pkg.vat v).cause = cause.toNat ∧ (t.pkg.vat v).scan = scan) ∧
    (cause.toNat ∉ [1, 2, 5] → exec (.vatResetRequest mask cause scan) s = .next s)) ∧
  (∀ (s : State) (v : BitVec 2), s.pkg.alive = true → s.pkg.vatReady v.toNat = true →
    ∃ t, exec (.vatPllUnlock v) s = .next t ∧ t.mem = s.mem ∧ (t.pkg.vat v.toNat).st = .quiesce ∧
      (t.pkg.vat v.toNat).cause = 4) ∧
  (∀ (s : State) (v : BitVec 2), s.pkg.alive = true → s.pkg.hasVat v.toNat = true →
    ((s.pkg.vat v.toNat).st = .quiesce → s.pkg.swap = none →
      ∃ t, exec (.vatQuiesceDrained v) s = .next t ∧ t.mem = s.mem ∧ (t.pkg.vat v.toNat).st = .reset ∧
        (t.pkg.vat v.toNat).press = none ∧ (t.pkg.vat v.toNat).pressQ = [] ∧
        (∀ k ∈ vatCores v.toNat, (t.core k).st ≠ .run ∧ (t.core k).s = [] ∧ ∀ f ∈ (t.core k).flight,
          f.kind.toMemory = true → ∀ a ∈ f.kind.requests, dieOf a ≠ v.toNat) ∧
        ∀ c ∈ t.pkg.outs, c.core / 128 ≠ v.toNat) ∧
    ((s.pkg.vat v.toNat).st = .reset →
      let w := max s.pkg.time ((s.pkg.vat v.toNat).since + 100000)
      exec (.vatResetHoldEnd v) s = .next (s.pkgTo fun p => ({ p with time := w }).setVat v.toNat
        { p.vat v.toNat with st := (if (p.vat v.toNat).scan then .scan else .boot), since := w })) ∧
    (∀ (unit : BitVec 4) (us : BitVec 32), (s.pkg.vat v.toNat).st = .scan →
      s.pkg.getF F.CLAP_CONT_STATE.STATE 0 = 0 →
      ∃ t, exec (.vatScanDone v [] unit us) s = .next t ∧ t.mem = s.mem ∧
        (t.pkg.vat v.toNat).st = (if unit = 0 then .boot else .held) ∧
        t.pkg.getF F.REL_SCAN.RESULT v.toNat = (if unit = 0 then 1 else 3) ∧
        t.pkg.getF F.REL_SCAN.FAIL_UNIT v.toNat = unit.toNat) ∧
    ((s.pkg.vat v.toNat).st = .boot → (s.pkg.vat v.toNat).cause ≠ 0 → s.pkg.getF F.CLAP_CONT_STATE.STATE 0 = 0 →
      (∃ t, exec (.vatBootDone v false []) s = .next t ∧ t.mem = s.mem ∧ (t.pkg.vat v.toNat).st = .held) ∧
      ((s.pkg.vat v.toNat).ues = [] → s.pkg.flag F.REL_UE.FULL v.toNat = false →
        ∃ t, exec (.vatBootDone v true []) s = .next t ∧ (t.pkg.vat v.toNat).st = .ready ∧
          ∀ a, t.mem.byte a = if 0x010000000000 + v.toNat * 0x100000000 ≤ a ∧
            a < 0x010000000000 + v.toNat * 0x100000000 + 0x10000000 then 0 else s.mem.byte a)))

/-- R31, R479, R551: a fatal error of the hub asserts FAULT_N, a junction at 110 °C THERMTRIP_N; every core stops, and the
package acts no more. THERMTRIP_N is asserted while RESET_N is low too. Commands that complete here, with the effect
stated: THERMTRIP, NR1_PLL_UNLOCK, HUB_SRAM_UE. -/
def Obligations.FatalErrorsStop : Prop :=
  (∀ q ∈ ([.nr1PllUnlock, .hubSramUe] : List Instr), ∀ (s : State), s.pkg.alive = true →
    ∃ t, exec q s = .next t ∧ t.mem = s.mem ∧ t.pkg.pins.faultN = true ∧ t.pkg.alive = false ∧
      ∀ k, (t.core k).st ≠ .run) ∧
  ∀ (s : State) (die : BitVec 3) (temp : BitVec 8), s.pkg.pins.supply = true → 110 ≤ temp.toNat →
    ∃ t, exec (.thermtrip die temp) s = .next t ∧ t.mem = s.mem ∧ t.pkg.pins.thermtrip = true ∧ t.pkg.alive = false ∧
      (s.pkg.alive = true → ∀ k, (t.core k).st ≠ .run)

/-- R13, R36, R543, R544: RESET_N or PWRGD falling, and supplies coming or going, leave memory clear, the clapper at 0, no
core with a program and every register but the displays of repairs and scans at its reset value; fuses and flash stay.
THERMTRIP_N stays until the supplies go (R551). That memory is clear at once and not during boot (R353) is the model's
choice (log entry 88), so are the values of registers for which the spec gives no reset value (log entry 9). Commands
that complete here, with the effect stated: PWRGD_FALL, RESET_N_ASSERT, POWER_UP, POWER_DOWN. -/
def Obligations.PowerAndReset : Prop :=
  ∀ (s : State),
    let clear (t : State) : Prop := t.mem = [] ∧ t.pkg.time = 0 ∧ t.pkg.cores = [] ∧ t.pkg.vats = [] ∧ t.pkg.orders = [] ∧
      t.pkg.fuse = s.pkg.fuse ∧ t.pkg.flash = s.pkg.flash ∧ t.pkg.alive = false ∧ t.pkg.pins.resetN = false ∧
      ∀ r i, r ≠ .MC_LANE → r ≠ .REL_SCAN → t.pkg.reg r i = resetReg s.pkg.fuse r i
    (s.pkg.pins.resetN = true → (∃ t, exec .resetAssert s = .next t ∧ clear t) ∧
      ∃ t, exec .pwrgdFall s = .next t ∧ clear t ∧ t.pkg.pins.pwrgd = false) ∧
    (s.pkg.pins.resetN = false → exec .resetAssert s = .next s) ∧
    ((s.pkg.pins.supply && s.pkg.pins.pwrgd) = false →
      ∃ t, exec .powerUp s = .next t ∧ clear t ∧ t.pkg.pins.supply = true ∧ t.pkg.pins.pwrgd = true ∧
        t.pkg.pins.thermtrip = (s.pkg.pins.thermtrip && s.pkg.pins.supply)) ∧
    ∃ t, exec .powerDown s = .next t ∧ clear t ∧ t.pkg.pins.supply = false ∧ t.pkg.pins.thermtrip = false

/-- R524, R525, R535: the release of RESET_N draws BOOT_ID and starts the image chosen under the root key, whose hash the
fuses hold, or stops the package on a bad flash; that a part whose fuses the state does not hold yet has them read
then is the model's choice (log entry 155). Firmware's start ends in the configuration record's phase or in SAFE.
Commands that complete here, with the effect stated: RESET_N_RELEASE, FIRMWARE_START. -/
def Obligations.FirmwareBoots : Prop :=
  (∀ (s : State) (b : BitVec 24), s.pkg.pins.resetN = false → s.pkg.pins.supply = true → s.pkg.pins.pwrgd = true →
    s.pkg.pins.thermtrip = false →
    let f := s.pkg.flash
    ((f.ok = false ∨ f.mib < 256) → ∃ t, exec (.resetRelease b none) s = .next t ∧ t.mem = s.mem ∧
      t.pkg.pins.faultN = true ∧ t.pkg.pins.resetN = true) ∧
    (∀ i, f.ok = true → 256 ≤ f.mib → 2 ≤ f.dir.1.trial → f.dir.1.confirmed = i → i < 2 →
      f.choose s.pkg.rootKey s.pkg.fuse.minSvn f.dir.1.rej = some i →
      ∃ t, exec (.resetRelease b none) s = .next t ∧ t.mem = s.mem ∧ t.pkg.getF F.CFG_BOOT.PHASE 0 = 1 ∧
        t.pkg.boot.image = some i ∧ t.pkg.getF F.SEC_BOOT.BOOT_ID 0 = b.toNat ∧
        t.pkg.getF F.SEC_BOOT.IMAGE 0 = i ∧ t.pkg.reg .SEC_CTR 0 = BitVec.ofNat 64 (b.toNat * 2 ^ 40) ∧
        t.pkg.flash = f) ∧
    (∀ g prog, s.pkg.fuse.rootHash = 0 → ∃ t, exec (.resetRelease b prog (some g)) s = .next t ∧ t.mem = s.mem ∧
      t.pkg.fuse = Fuse.ofProg g ∧ t.pkg.pins.resetN = true)) ∧
  (∀ (s : State) (l0 l1 : BitVec 32), s.pkg.alive = true → s.pkg.getF F.CFG_BOOT.PHASE 0 = 1 →
    ∃ t, exec (.firmwareStart l0 l1) s = .next t ∧ t.mem = s.mem ∧ t.pkg.boot.early = [] ∧
      (t.pkg.getF F.CFG_BOOT.PHASE 0 = 2 ∨ t.pkg.getF F.CFG_BOOT.PHASE 0 = 9 ∧
        ∀ v, v < 4 → t.pkg.hasVat v = true → (t.pkg.vat v).st = .held))

/-- R46, R80, R353, R537, R538: the edges take the highest version and rate both ends have; the core map gives each
logical core the next good physical core; memory comes out clear but for firmware's copy, and the vats READY; the
package reports ready for job; a late clock is noted. Commands that complete here, with the effect stated:
DIES_TRAINED, BOOT_TEST_DONE, MEMORY_CLEAR_DONE, BOOT_READY, CLOCK_LATE. -/
def Obligations.BootPhases : Prop :=
  (∀ (s : State) (caps : BitVec 64), s.pkg.alive = true → s.pkg.getF F.CFG_BOOT.PHASE 0 = 2 →
    ∃ t, exec (.diesTrained caps []) s = .next t ∧ t.mem = s.mem ∧ t.pkg.getF F.CFG_BOOT.PHASE 0 = 3 ∧
      ∀ e, e < 9 → s.pkg.edgeModules e ≠ 0 → ∀ x,
        negotiate (s.pkg.edgeCaps e caps.toNat).1 (s.pkg.edgeCaps e caps.toNat).2 = some x →
        tget (0, 0) t.pkg.edges e = x ∧ ∀ n, n < s.pkg.edgeModules e → (t.pkg.d2dMod e n).st = 0) ∧
  (∀ (s : State) (bad : List (BitVec 9)), s.pkg.alive = true → s.pkg.getF F.CFG_BOOT.PHASE 0 = 3 →
    ∃ t, exec (.bootTestDone bad) s = .next t ∧ t.mem = s.mem ∧ t.pkg.getF F.CFG_BOOT.PHASE 0 = 4 ∧
      ∀ v i, s.pkg.hasVat v = true → i < s.pkg.logCount →
        t.pkg.physOf (v * 128 + i) = (((List.range 100).map (v * 128 + ·)).filter fun k =>
          !s.pkg.fuse.fusedOff.contains k && !(bad.map (·.toNat)).contains k)[i]?) ∧
  (∀ (s : State), s.pkg.alive = true → s.pkg.getF F.CFG_BOOT.PHASE 0 = 4 → s.pkg.boot.lib = none →
    ∃ t, exec .memoryClearDone s = .next t ∧ t.pkg.getF F.CFG_BOOT.PHASE 0 = 5 ∧
      t.mem = Memory.write [] 0x0F000000 (s.pkg.flash.imgBody (s.pkg.boot.image.getD 0)) ∧
      ∀ v, v < 4 → (s.pkg.vat v).st = .boot → (s.pkg.vat v).cause = 0 → (t.pkg.vat v).st = .ready) ∧
  (∀ (s : State), s.pkg.alive = true → s.pkg.getF F.CFG_BOOT.PHASE 0 = 7 → s.pkg.clockOk = true →
    s.pkg.boot.lib.isSome = true → (∀ v, v < 4 → s.pkg.hasVat v = true → (s.pkg.vat v).st = .ready) →
    ∃ t, exec .bootReady s = .next t ∧ t.mem = s.mem ∧ t.pkg.getF F.CFG_BOOT.PHASE 0 = 8) ∧
  (∀ (s : State), s.pkg.alive = true → 5 ≤ s.pkg.getF F.CFG_BOOT.PHASE 0 → s.pkg.getF F.CFG_BOOT.PHASE 0 ≤ 7 →
    s.pkg.clockOk = false → s.pkg.boot.lateLog = false →
    ∃ t, exec .clockLate s = .next t ∧ t.mem = s.mem ∧ t.pkg.boot.lateLog = true ∧
      t.pkg.time = max s.pkg.time (s.pkg.boot.t0 + 90000000000).toNat)

/-! ### The gaffer and the board (19) -/

/-- R439, R547, R549, R552, R555, R556: the brake and a power sample set the level; the highest temperature of each die's
sensors and of the stacks is shown, and the pins are, MGPIO2 and MGPIO3 as the board drives them (that commands of
BRAKE_N name them is the model's choice, log entry 158); the TAP answers IDCODE; an edge of TIME_IN steers the root.
Commands that complete here, with the effect stated: BRAKE_N_FALL, BRAKE_N_RISE, TIME_IN_EDGE, GAFFER_SAMPLE,
TEMP_SAMPLE, JTAG_INSTRUCTION, GAFF_GPIO_WRITE. -/
def Obligations.BoardEvents : Prop :=
  (∀ (s : State), s.pkg.alive = true → (s.pkg.pins.brakeLow = false →
      ∃ t, exec .brakeFall s = .next t ∧ t.mem = s.mem ∧ t.pkg.pins.brakeLow = true ∧
        t.pkg.getF F.GAFF_POWER.LEVEL 0 = t.pkg.level ∧ t.pkg.getF F.GAFF_THR_STAT.BRAKES 0 =
          satAdd (F.GAFF_THR_STAT.BRAKES.hi + 1 - F.GAFF_THR_STAT.BRAKES.lo) (s.pkg.getF F.GAFF_THR_STAT.BRAKES 0) 1) ∧
    ∃ t, exec .brakeRise s = .next t ∧ t.mem = s.mem ∧ t.pkg.pins.brakeLow = false ∧
      t.pkg.getF F.GAFF_POWER.LEVEL 0 = t.pkg.level) ∧
  (∀ (s : State), exec (.brakeFall 2) s = .next (s.pkgTo fun p => { p with pins := { p.pins with m2 := false } }) ∧
    exec (.brakeRise 2) s = .next (s.pkgTo fun p => { p with pins := { p.pins with m2 := true } }) ∧
    exec (.brakeFall 3) s = .next (s.pkgTo fun p => { p with pins := { p.pins with m3 := false } }) ∧
    exec (.brakeRise 3) s = .next (s.pkgTo fun p => { p with pins := { p.pins with m3 := true } })) ∧
  (∀ (s : State) (w : BitVec 16), s.pkg.alive = true → ∃ t, exec (.gafferSample w) s = .next t ∧ t.mem = s.mem ∧
    t.pkg.pow.samples = (w.toNat :: s.pkg.pow.samples).take 100000 ∧ t.pkg.getF F.GAFF_POWER.PNOW_W 0 = w.toNat ∧
    t.pkg.getF F.GAFF_POWER.LEVEL 0 = t.pkg.level ∧
    (1000 * (s.pkg.burstW - 50) ≤ (t.pkg.pow.samples.take 1000).foldl (· + ·) 0 →
      t.pkg.pow.power = min 56 (s.pkg.pow.power + 1))) ∧
  (∀ (s : State) (v0 v1 v2 v3 hub st : List Byte), s.pkg.alive = true →
    let top (bs : List Byte) : Nat := maxOf (bs.map (·.toNat))
    ∃ t, exec (.tempSample v0 v1 v2 v3 hub st) s = .next t ∧ t.mem = s.mem ∧
      t.pkg.getF F.GAFF_TEMP.HUB 0 = top (hub.take 8) ∧
      t.pkg.getF F.GAFF_TEMP.STACK 0 = maxOf ((st.take 16).zipIdx.map fun x => if s.pkg.hasVat (x.2 / 4) = true then x.1.toNat else 0) ∧
      ∀ v, v < 4 → t.pkg.getF F.GAFF_TEMP.VAT 0 / 2 ^ (8 * v) % 256 =
        if s.pkg.hasVat v = true then top (([v0, v1, v2, v3].getD v []).take 16) else 0) ∧
  (∀ (s : State) (w : BitVec 64), s.pkg.alive = true → ∃ t, exec (.gaffGpioWrite w) s = .next t ∧ t.mem = s.mem ∧
    t.pkg.getF F.GAFF_GPIO.ALERT_L 0 = fld w.toNat 31 26 ∧ t.pkg.flag F.GAFF_GPIO.ALERT_EN 0 = bitOf w.toNat 10 ∧
    t.pkg.flag F.GAFF_GPIO.TIME_EN 0 = bitOf w.toNat 9 ∧ t.pkg.flag F.GAFF_GPIO.M3_OUT 0 = bitOf w.toNat 8 ∧
    t.pkg.flag F.GAFF_GPIO.M2_CONFLICT 0 = (bitOf w.toNat 9 && bitOf w.toNat 10)) ∧
  (∀ (s : State), s.pkg.pins.resetN = false → s.pkg.pins.supply = true →
    exec (.jtagInstruction 2) s = .next (s.pkgTo fun p => { p with pins := { p.pins with jtag := 2, tdr := 0x14160A9F } })) ∧
  (∀ (s : State), s.pkg.alive = true → s.pkg.getF F.CLAP_STAT.STATE 0 = 3 → s.pkg.flag F.CLAP_CFG.TIME_FOLLOW 0 = true →
    s.pkg.flag F.GAFF_GPIO.TIME_EN 0 = true → s.pkg.time % 1000000000 ≠ 500000000 →
    let r := s.pkg.time % 1000000000
    exec .timeInEdge s = .next (s.pkgTo fun p => { p with pins := { p.pins with m2 := true }, lead := { p.lead with
      slew := (if r < 500000000 then -(r : Int) else 1000000000 - r), phase := 0 } }))

/-! ### Clapper, leads and supervision (14, 16) -/

/-- R433, R435, R436, R438, R441: an idle step passes one hub cycle (the model's choice, log entry 3); the child sends its
request, whatever the state of its port, and the top lead its heartbeat where that is another package; the parent
answers; the reply locks the clapper and sets or slews it; MISS requests without a reply end in HOLDOVER. The model's
choices: that t2 and t3 both are the parent's clapper at the receipt and a missed reply counts at the next period (log
entry 91), and when a heartbeat of its own goes to the top lead (log entry 92). Commands that complete here, with the
effect stated: CLAP_PERIOD, CLAP_REQUEST_RECEIVE, CLAP_REPLY_RECEIVE, CLAP_HOLDOVER. -/
def Obligations.ClapperExchange : Prop :=
  (∀ (s : State), s.pkg.alive = true → s.pending = [] → s.pkg.lead.slew = 0 →
    step s = .next (s.pkgTo fun p => { p with time := p.time + 1 })) ∧
  (∀ (s : State), s.pkg.alive = true → s.pkg.getF F.CLAP_STAT.STATE 0 ≠ 3 → s.pkg.parentPort ≤ 17 →
    s.pkg.role = 0 → s.pkg.flag F.CLAP_ROLE.TOP_STBY 0 = false →
    let w := max s.pkg.time (s.pkg.lead.sentAt + s.pkg.clapNs)
    exec .clapPeriod s = .next (s.pkgTo fun p => { p with
      time := w
      lead := { p.lead with t1 := some w, missed := (if p.lead.t1.isSome then p.lead.missed + 1 else 0), sentAt := w }
      tx := p.tx ++ [⟨.clapRequest, p.parentId, [p.pkgId, w, p.highStep, p.getF F.REL_SUP.HEARTBEAT 0]⟩] })) ∧
  (∀ (s : State), s.pkg.alive = true → s.pkg.getF F.CLAP_STAT.STATE 0 ≠ 3 → s.pkg.beatsTop = true →
    ∃ t, exec .clapPeriod s = .next t ∧ t.mem = s.mem ∧ t.pkg.lead.top1 = true ∧
      t.pkg.tx.getLast?.map (fun m => (m.kind, m.dst)) = some (.clapRequest, s.pkg.topId)) ∧
  (∀ (s : State) (src : BitVec 12) (t1 st : BitVec 64) (beat : BitVec 32), s.pkg.alive = true →
    ∃ t c, exec (.clapRequestReceive src t1 st beat) s = .next t ∧ t.mem = s.mem ∧
      tfind t.pkg.lead.kids src.toNat = some c ∧ c.seen = s.pkg.time ∧ c.step = st.toNat ∧ c.beat = beat.toNat ∧
      t.pkg.tx = s.pkg.tx ++ [⟨.clapReply, src.toNat, [s.pkg.pkgId, t1.toNat, s.pkg.time, s.pkg.time]⟩]) ∧
  (∀ (s : State) (src : BitVec 12) (t1 t2 t3 : BitVec 64), s.pkg.alive = true →
    s.pkg.getF F.CLAP_STAT.STATE 0 ≠ 3 → src.toNat = s.pkg.parentId → s.pkg.lead.t1 = some t1.toNat →
    let th := halfEven (((t2.toNat : Int) - t1.toNat) - ((s.pkg.time : Int) - t3.toNat))
    ∃ t, exec (.clapReplyReceive src t1 t2 t3) s = .next t ∧ t.mem = s.mem ∧ t.pkg.getF F.CLAP_STAT.STATE 0 = 1 ∧
      t.pkg.lead.t1 = none ∧ t.pkg.lead.missed = 0 ∧
      (if s.pkg.getF F.CLAP_STAT.STATE 0 = 0 ∧ s.pkg.getF F.CFG_BOOT.PHASE 0 ≠ 8
        then t.pkg.time = ((s.pkg.time : Int) + th).toNat
        else t.pkg.time = s.pkg.time ∧ t.pkg.lead.slew = th ∧ t.pkg.lead.phase = 0)) ∧
  (∀ (s : State), s.pkg.alive = true → s.pkg.getF F.CLAP_STAT.STATE 0 = 1 → s.pkg.missMax ≤ s.pkg.lead.missed →
    ∃ t, exec .clapHoldover s = .next t ∧ t.mem = s.mem ∧ t.pkg.getF F.CLAP_STAT.STATE 0 = 2 ∧
      t.pkg.lead.slew = 0 ∧ t.pkg.lead.holdAt = s.pkg.time)

/-- R441–R443: a child lost is declared so, and reported or expelled; a standby takes its lead's role with a higher epoch;
a takeover is followed when its epoch is above that of the takeover that gave the role's lead (log entry 136); crew
that hears of none says so. Commands that complete here, with the effect stated: PKG_LOST, LEAD_TAKEOVER,
TAKEOVER_RECEIVE, LEADERLESS, FW_STALLED, LOSS_REPORT_RECEIVE. -/
def Obligations.LeadsChange : Prop :=
  (∀ (s : State) (i : BitVec 12) (c : Child), s.pkg.fwOn = true → tfind s.pkg.lead.kids i.toNat = some c → c.lost = false →
    s.pkg.isTop = false →
    (∃ t d, exec (.pkgLost i) s = .next t ∧ t.mem = s.mem ∧ tfind t.pkg.lead.kids i.toNat = some d ∧ d.lost = true ∧
      t.pkg.tx = s.pkg.tx ++ [⟨.lossReport, s.pkg.topId, [i.toNat]⟩]) ∧
    ∃ t d, exec (.fwStalled i) s = .next t ∧ t.mem = s.mem ∧ tfind t.pkg.lead.kids i.toNat = some d ∧ d.lost = true ∧
      t.pkg.tx = s.pkg.tx ++ [⟨.lossReport, s.pkg.topId, [i.toNat]⟩]) ∧
  (∀ (s : State) (i : BitVec 12) (r : Nat), s.pkg.fwOn = true → s.pkg.isTop = true →
    s.pkg.replicaOf i.toNat = some r → s.pkg.lead.dead.contains r = false →
    ∃ t, exec (.lossReportReceive i) s = .next t ∧ r ∈ t.pkg.lead.dead ∧
      ∃ o ∈ t.pkg.orders, o.kind = .expel ∧ o.replica = r ∧ o.imm = true) ∧
  (∀ (s : State), s.pkg.fwOn = true → s.pkg.flag F.CLAP_ROLE.STANDBY 0 = true → s.pkg.role = 0 →
    s.pkg.leadId ≠ s.pkg.pkgId → s.pkg.missMax ≤ s.pkg.lead.missed →
    ∃ t, exec (.leadTakeover false) s = .next t ∧ t.mem = s.mem ∧ t.pkg.role = 1 ∧ t.pkg.leadId = s.pkg.pkgId ∧
      t.pkg.getF F.CLAP_ROLE.EPOCH 0 = satAdd 16 (s.pkg.getF F.CLAP_ROLE.EPOCH 0) 1) ∧
  (∀ (s : State) (src : BitVec 12) (ep : BitVec 16) (top : Bool), s.pkg.fwOn = true →
    let old := s.pkg.getF F.CLAP_ROLE.EPOCH 0
    let known := if top = true then s.pkg.lead.topEpoch
      else if src.toNat / 16 = s.pkg.pkgId / 16 then s.pkg.lead.leadEpoch else old
    (ep.toNat ≤ known ∨ src.toNat = s.pkg.pkgId → exec (.takeoverReceive src ep top) s = .next s) ∧
    (known < ep.toNat → src.toNat ≠ s.pkg.pkgId → ∃ t, exec (.takeoverReceive src ep top) s = .next t ∧ t.mem = s.mem ∧
      t.pkg.getF F.CLAP_ROLE.EPOCH 0 = max ep.toNat old ∧
      (top = true → t.pkg.topId = src.toNat ∧ t.pkg.role ≠ 2 ∧ t.pkg.lead.topEpoch = ep.toNat) ∧
      (top = false → src.toNat / 16 = s.pkg.pkgId / 16 → t.pkg.leadId = src.toNat ∧ t.pkg.role = 0 ∧
        t.pkg.lead.leadEpoch = ep.toNat))) ∧
  (∀ (s : State), s.pkg.fwOn = true → s.pkg.role = 0 → s.pkg.getF F.CLAP_STAT.STATE 0 = 2 →
    s.pkg.lead.leaderless = false → (s.pkg.lead.newPar = false ∨ s.pkg.missMax ≤ s.pkg.lead.missed) →
    ∃ t, exec .leaderless s = .next t ∧ t.mem = s.mem ∧ t.pkg.lead.leaderless = true ∧
      t.pkg.time = max s.pkg.time (s.pkg.lead.holdAt + 2 * s.pkg.missMax * s.pkg.clapNs))

/-- R487–R490: firmware's heartbeat restarts the supervisor timer; its expiry or a bad memory word restarts the processor,
and a second restart in the window stops the package; a single-bit error of its memories is corrected and counted
(R466). What arrives for firmware during a restart is held; firmware runs again after it, from its copy in memory
where that still has the measurement of the boot, else from the flash, and does what was held. Commands that complete
here, with the effect stated: TAKEOVER_RECEIVE, FW_HEARTBEAT, SITOUT_REQUEST, WDOG_HALT_REPORT, POISON_REPORT_RECEIVE,
SUP_TIMER_EXPIRE, MP_MEMORY_UE, MP_RESTART_DONE, LOSS_REPORT_RECEIVE, VAT_RESET_REPORT. -/
def Obligations.FirmwareSupervised : Prop :=
  (∀ (s : State), s.pkg.fwOn = true →
    (∃ t, exec .fwHeartbeat s = .next t ∧ t.mem = s.mem ∧ t.pkg.lead.beatAt = t.pkg.time ∧
      t.pkg.time = max s.pkg.time (s.pkg.lead.beatAt + 1000000) ∧
      t.pkg.getF F.REL_SUP.HEARTBEAT 0 = (s.pkg.getF F.REL_SUP.HEARTBEAT 0 + 1) % 2 ^ 32) ∧
    ∀ q ∈ ([.supTimerExpire, .mpMemoryUe] : List Instr), ∃ t, exec q s = .next t ∧ t.mem = s.mem ∧
      t.pkg.getF F.REL_STAT.MP_RESTARTS 0 = satAdd (F.REL_STAT.MP_RESTARTS.hi + 1 - F.REL_STAT.MP_RESTARTS.lo)
        (s.pkg.getF F.REL_STAT.MP_RESTARTS 0) 1 ∧
      (s.pkg.getF F.REL_SUP.RESTARTS_WIN 0 = 0 → t.pkg.boot.restarting = true ∧ t.pkg.fwOn = false ∧ t.pkg.alive = true) ∧
      (s.pkg.getF F.REL_SUP.RESTARTS_WIN 0 ≠ 0 → t.pkg.time ≤ s.pkg.boot.winStart +
        max 1 (s.pkg.getF F.REL_CFG.SUP_WINDOW_S 0) * 1000000000 → t.pkg.pins.faultN = true ∧ t.pkg.alive = false)) ∧
  (∀ (s : State), s.pkg.alive = true → s.pkg.boot.restarting = true → s.pkg.lead.own = none → s.pkg.sec.queue = [] →
    s.pkg.getF F.CLAP_CONT_STATE.STATE 0 = 0 →
    let n := (s.pkg.flash.imgBody (s.pkg.boot.image.getD 0)).length
    let source := if measure (s.mem.view s.pkg 0x0F000000 n) = s.pkg.sec.fwMeas then 1 else 2
    let up := s.pkgTo fun p =>
      { p with boot := { p.boot with restarting := false, held := [], source := source }, lead := { p.lead with beatAt := p.time } }
    (s.pkg.boot.held = [] → exec .mpRestartDone s = .next up) ∧
    (∀ i : BitVec 12, s.pkg.boot.held = [.wdogHalt i.toNat 0] → up.pkg.fwOn = true →
      exec .mpRestartDone s = exec (.wdogHaltReport i 0) up)) ∧
  (∀ s : State, s.pkg.fwOn = true → exec (.mpMemoryUe true) s = .next (s.pkgTo fun p => p.addF F.REL_STAT.MP_CE 0 1)) ∧
  (∀ (s : State) (src i : BitVec 12) (ep : BitVec 16) (top : Bool) (c : BitVec 9) (cause : BitVec 4),
    s.pkg.alive = true → s.pkg.boot.restarting = true →
    let held (d : Duty) : Host.Outcome State Fault Refusal := .next (s.pkgTo fun p => { p with boot := { p.boot with held := p.boot.held ++ [d] } })
    exec (.takeoverReceive src ep top) s = held (.takeover src.toNat ep.toNat top) ∧
    exec (.sitoutRequest i 0 false) s = held (.sitout i.toNat 0 false) ∧
    exec (.lossReportReceive i) s = held (.loss i.toNat) ∧ exec (.vatResetReport i cause) s = held (.vatReset i.toNat cause.toNat) ∧
    exec (.wdogHaltReport i c) s = held (.wdogHalt i.toNat c.toNat) ∧ exec (.poisonReportReceive i) s = held (.poison i.toNat))

/-! ### Continuity (14, 16) -/

/-- R446, R447: a check takes the earliest check step not yet started once every core is past it; its report reaches the
top lead, and a check whose packages all agree becomes the last one. Which step a check takes (log entry 102) and what
a report of a step already decided does (log entry 95) is the model's choice. Commands that complete here, with the
effect stated: CONT_CHECK_START, CONT_REPORT_RECEIVE, CONT_DECIDE, CONT_DEADLINE. -/
def Obligations.ContinuityCheck : Prop :=
  (∀ (s : State), s.pkg.fwOn = true → s.pkg.anyRun = true → s.pkg.nextCheck < s.pkg.lowStep →
    s.pkg.flag F.PRESS_DIG_CTL.DONE 0 = true →
    let n := s.pkg.nextCheck
    n % s.pkg.checkK = 0 ∧ (∀ m, m % s.pkg.checkK = 0 → (match s.pkg.lead.last with
      | some l => l < m
      | none => s.pkg.lead.first ≤ m) → n ≤ m) ∧
    ∃ t, exec .contCheckStart s = .next t ∧ t.mem = s.mem ∧ t.pkg.lead.own = some n ∧ t.pkg.lead.last = some n ∧
      t.pkg.lastDig = some (n % 2 ^ 64)) ∧
  (∀ (s : State) (n : BitVec 64) (i : BitVec 12) (inc : Bool) (lo ce ci a b c d : BitVec 64), s.pkg.fwOn = true →
    let r : ContRep := ⟨i.toNat, inc, lo.toNat, ce.toNat, ci.toNat, [a.toNat, b.toNat, c.toNat, d.toNat]⟩
    let run := exec (.contReportReceive n i inc lo ce ci a b c d) s
    (s.pkg.role = 1 → ∃ t, run = .next t ∧ t.mem = s.mem ∧
      t.pkg.tx = s.pkg.tx ++ [⟨.contReport, s.pkg.topId, r.words n.toNat⟩]) ∧
    (s.pkg.role = 2 → s.pkg.lead.decided = none → ∃ t, run = .next t ∧ t.mem = s.mem ∧
      ∃ x ∈ t.pkg.lead.checks, x.step = n.toNat ∧ r ∈ x.reps)) ∧
  (∀ (s : State) (x : Check) (rest : List Check), s.pkg.fwOn = true → s.pkg.isTop = true →
    s.pkg.lead.checks = x :: rest → s.pkg.lead.rejoins = [] →
    let vs := s.pkg.votes x
    2 ≤ (dedup (vs.map (·.replica))).length →
    (∀ v ∈ vs, ∃ r, v.rep = some r ∧ ∀ w ∈ vs, ∀ z, w.rep = some z → w.set = v.set → r.same z = true) →
    (∃ t, exec .contDecide s = .next t ∧ t.mem = s.mem ∧ t.pkg.lead.decided = some x.step ∧
      t.pkg.reg .CLAP_CONT_LAST 0 = BitVec.ofNat 64 x.step ∧ t.pkg.orders = s.pkg.orders) ∧
    ∃ t, exec .contDeadline s = .next t ∧ t.mem = s.mem ∧ t.pkg.lead.decided = some x.step ∧
      t.pkg.reg .CLAP_CONT_LAST 0 = BitVec.ofNat 64 x.step ∧ t.pkg.orders = s.pkg.orders)

/-- R448–R452, R455, R473: an order of the top lead is taken; the top lead orders a replica out at a later step, at once
after a vat reset, and for good when a package cannot return; its packages READY again are kept for the rejoin. The
model's choices: from which step an immediate order is in force (log entry 55), what a report of READY does beside a
rejoin (log entry 98), whose orders are taken (log entry 99). Commands that complete here, with the effect stated:
ORDER_RECEIVE, SITOUT_REQUEST, POISON_REPORT_RECEIVE, VAT_RESET_REPORT, VATS_READY_REPORT, SWAP_WANTED_REPORT. -/
def Obligations.MembershipOrders : Prop :=
  (∀ (s : State) (src : BitVec 12) (ep : BitVec 16) (kind : OrderKind) (r : BitVec 8) (imm : Bool) (n : BitVec 64)
    (ps : List (BitVec 12 × BitVec 12)) (bs : List (BitVec 12 × BitVec 48)), s.pkg.fwOn = true →
    (src.toNat = s.pkg.topId ∨ s.pkg.lead.topEpoch < ep.toNat) →
    ∃ t, exec (.orderReceive src ep kind r imm n ps bs) s = .next t ∧ t.pkg.topId = src.toNat ∧
      t.pkg.getF F.CLAP_ROLE.EPOCH 0 = max ep.toNat (s.pkg.getF F.CLAP_ROLE.EPOCH 0) ∧
      ∃ o ∈ t.pkg.orders, o.kind = OrdKind.ofOperand kind ∧ o.replica = r.toNat ∧ o.imm = imm ∧
        o.step = (if imm then s.pkg.presentStep else n.toNat)) ∧
  (∀ (s : State) (i : BitVec 12) (r : Nat), s.pkg.fwOn = true → s.pkg.isTop = true →
    s.pkg.replicaOf i.toNat = some r →
    (∀ (vats : BitVec 4) (scan : Bool), (s.pkg.outAt lastStep).contains r = false →
      ∃ t, exec (.sitoutRequest i vats scan) s = .next t ∧
      ∃ o ∈ t.pkg.orders, o.kind = .sitout ∧ o.replica = r ∧ o.imm = false ∧ o.step = s.pkg.orderStep) ∧
    (∀ cause : BitVec 4, cause.toNat ∈ [1, 4, 5] → s.pkg.isOut r = false →
      ∃ t, exec (.vatResetReport i cause) s = .next t ∧
        ∃ o ∈ t.pkg.orders, o.kind = .sitout ∧ o.replica = r ∧ o.imm = true) ∧
    (∀ bs, s.pkg.lead.dead.contains r = false → ∃ t, exec (.vatsReadyReport i false bs) s = .next t ∧ t.mem = s.mem ∧
      r ∈ t.pkg.lead.dead) ∧
    (∀ bs, s.pkg.lead.dead.contains r = false → s.pkg.lead.rejoins = [] → (s.pkg.outAt lastStep).contains r = false →
      exec (.vatsReadyReport i true bs) s = .next (s.pkgTo fun p => { p with lead := { p.lead with
        ready := p.lead.ready.filter (·.1 != i.toNat) ++ [(i.toNat, bs.map (·.toNat))] } }))) ∧
  (∀ (s : State) (i : BitVec 12), s.pkg.fwOn = true → s.pkg.role ≠ 0 → exec (.swapWantedReport i true) s =
    .next (s.pkgTo fun p => p.send .sitout p.topId [i.toNat, 0, 0])) ∧
  (∀ (s : State) (i : BitVec 12), s.pkg.fwOn = true → s.pkg.isTop = true → s.pkg.lead.poisoned = false →
    s.pkg.orders.any (·.kind == .stop) = false →
    ∃ t, exec (.poisonReportReceive i) s = .next t ∧ t.pkg.lead.poisoned = true ∧
      ∃ o ∈ t.pkg.orders, o.kind = .stop ∧ o.step = s.pkg.orderStep)

/-- R453, R477: the donor's state sets the groups' sequence numbers; its blocks are written and the cores started; a
watchdog halt is collected, unless it comes after a decision from a replica already out, and after the hold the vats
of its core are reset. Commands that complete here, with the effect stated: REJOIN_STATE_RECEIVE, REJOIN_COPY_DONE,
WDOG_HALT_REPORT, WDOG_HOLD_EXPIRE. -/
def Obligations.RejoinsAndHolds : Prop :=
  (∀ (s : State) (src : BitVec 12) (st loss : BitVec 64) (n : BitVec 8) (seqs : List (BitVec 32)) (j : Joining),
    s.pkg.fwOn = true → s.pkg.lead.join = some j → j.donor = src.toNat → j.step = st.toNat → j.ready = false →
    ∃ t, exec (.rejoinStateReceive src st loss n seqs) s = .next t ∧ t.mem = s.mem ∧
      t.pkg.lead.join = some { j with ready := true } ∧
      ∀ g, g < 64 → ∀ x, seqs[g]? = some x → t.pkg.getF F.COLL_GRP_STATE.SEQ_NEXT g = x.toNat) ∧
  (∀ (s : State) (j : Joining), s.pkg.fwOn = true → s.pkg.lead.join = some j → j.ready = true → j.started = false →
    ∃ t, exec (.rejoinCopyDone true []) s = .next t ∧ t.mem = s.mem ∧
      t.pkg.lead.join = some { j with started := true } ∧
      ∀ x ∈ s.pkg.sec.loads, s.pkg.startable x.1 = true → ∀ k, s.pkg.physOf x.1 = some k → (t.core k).st = .run) ∧
  (∀ (s : State) (i : BitVec 12) (c : BitVec 9) (r : Nat), s.pkg.fwOn = true → s.pkg.isTop = true →
    s.pkg.replicaOf i.toNat = some r → (s.pkg.lead.wdogged = false ∨ s.pkg.isOut r = false) → s.pkg.lead.wdog = none →
    exec (.wdogHaltReport i c) s = .next (s.pkgTo fun p =>
      { p with lead := { p.lead with wdog := some (p.time, [(i.toNat, c.toNat)]) } })) ∧
  (∀ (s : State) (i c first r q : Nat), s.pkg.fwOn = true → s.pkg.isTop = true →
    s.pkg.lead.wdog = some (first, [(i, c)]) → s.pkg.replicaOf i = some r → q ∈ s.pkg.activeAt lastStep → q ≠ r →
    i ≠ s.pkg.pkgId →
    ∃ t, exec .wdogHoldExpire s = .next t ∧ t.mem = s.mem ∧ t.pkg.lead.wdog = none ∧
      t.pkg.time = max s.pkg.time (first + max 1 (s.pkg.getF F.REL_CFG.WDOG_HOLD_MS 0) * 1000000) ∧
      t.pkg.tx = s.pkg.tx ++ [⟨.vatReset, i, [2 ^ (c / 128), 5]⟩])

/-! ### Host interface, guest die and registers (17, 20) -/

/-- R493, R498, R499: a link comes up in the highest common mode and goes down, the port advertising its modes in the form
of MEDIA and no PAUSE ability; without a common mode it stays down. A command that passes its checks waits in the
queue, one that fails them is dropped and counted. Commands that complete here, with the effect stated: ETH_LINK_UP,
ETH_LINK_DOWN, VCT_COMMAND_ARRIVE. -/
def Obligations.HostLinks : Prop :=
  (∀ (s : State) (n : BitVec 1) (adv : BitVec 3), s.pkg.ethOn n.toNat = true → s.pkg.flag F.ETH_STATUS.LINK n.toNat = false →
    s.pkg.getF F.ETH_PORT_CFG.MODES n.toNat &&& adv.toNat ≠ 0 →
    ∃ t, exec (.ethLinkUp n adv) s = .next t ∧ t.mem = s.mem ∧ t.pkg.flag F.ETH_STATUS.LINK n.toNat = true ∧
      t.pkg.tx = s.pkg.tx ++ [⟨.advertise, n.toNat,
        [s.pkg.getF F.ETH_PORT_CFG.MODES n.toNat, s.pkg.getF F.ETH_PORT_CFG.MEDIA n.toNat, 0]⟩] ∧
      t.pkg.getF F.ETH_STATUS.MODE n.toNat =
        Nat.log2 (s.pkg.getF F.ETH_PORT_CFG.MODES n.toNat &&& adv.toNat) + 1) ∧
  (∀ (s : State) (n : BitVec 1) (adv : BitVec 3), s.pkg.ethOn n.toNat = true → s.pkg.flag F.ETH_STATUS.LINK n.toNat = false →
    s.pkg.getF F.ETH_PORT_CFG.MODES n.toNat &&& adv.toNat = 0 → exec (.ethLinkUp n adv) s = .next (s.pkgTo fun p =>
      p.send .advertise n.toNat [p.getF F.ETH_PORT_CFG.MODES n.toNat, p.getF F.ETH_PORT_CFG.MEDIA n.toNat, 0])) ∧
  (∀ (s : State) (n : BitVec 1), s.pkg.hostUp = true → s.pkg.flag F.ETH_STATUS.LINK n.toNat = true →
    ∃ t, exec (.ethLinkDown n) s = .next t ∧ t.mem = s.mem ∧ t.pkg.flag F.ETH_STATUS.LINK n.toNat = false ∧
      t.pkg.tx = s.pkg.tx ++ [⟨.advertise, n.toNat,
        [s.pkg.getF F.ETH_PORT_CFG.MODES n.toNat, s.pkg.getF F.ETH_PORT_CFG.MEDIA n.toNat, 0]⟩] ∧
      t.pkg.getF F.ETH_STATUS.LINK_CHANGES n.toNat = satAdd
        (F.ETH_STATUS.LINK_CHANGES.hi + 1 - F.ETH_STATUS.LINK_CHANGES.lo) (s.pkg.getF F.ETH_STATUS.LINK_CHANGES n.toNat) 1) ∧
  (∀ (s : State) (n : BitVec 1) (v6 : Bool) (ip : BitVec 128) (udp : BitVec 16) (b : Bytes) (mac : BitVec 48), s.pkg.hostUp = true →
    s.pkg.queued 4 = false → (∀ x ∈ s.pkg.sec.queue, vctCodes.contains x.code = true) →
    let c := VctCmd.ofBytes n.toNat v6 ip.toNat udp.toNat mac.toNat b
    (s.pkg.formOk c = true → s.pkg.noRoom c = false → s.pkg.authBad c = none →
      vctCodes.contains c.code = true →
      ∃ t, exec (.vctCommandArrive n v6 ip udp b mac) s = .next t ∧ t.mem = s.mem ∧
        t.pkg.sec.queue = s.pkg.sec.queue ++ [{ c with checked := true }] ∧
        (c.classN = false → c.classS = false → t.pkg.reg .SEC_CTR 0 = BitVec.ofNat 64 c.counter)) ∧
    (s.pkg.formOk c = false → ∃ t, exec (.vctCommandArrive n v6 ip udp b mac) s = .next t ∧ t.mem = s.mem ∧
      t.pkg.sec.queue = s.pkg.sec.queue ∧ t.pkg.getF F.SEC_DROP.FORMAT 0 =
        satAdd (F.SEC_DROP.FORMAT.hi + 1 - F.SEC_DROP.FORMAT.lo) (s.pkg.getF F.SEC_DROP.FORMAT 0) 1))

/-- R501–R514: each command that waits alone is executed and leaves the queue, and its reply goes to its sender with the
status and the data its rule gives, in the frame of R495 to the Ethernet address the command came from (log entry
157). Host accesses to memory run once the controllers serve their requests. That the identity private key is its
exponent wrapped by RFC 5649 is the model's choice (log entry 156). Commands that complete here, with the effect
stated: DISCOVER, GET_CERT, ATTEST, KEY_INSTALL, REG_ACCESS, MEM_READ, MEM_WRITE, LOAD, START, HALT, SUBSCRIBE,
FLASH_WRITE, SVN_COMMIT. -/
def Obligations.HostCommands : Prop :=
  ∀ (s : State) (c : VctCmd), s.pkg.sec.queue = [c] →
    let reply (p : Pkg) (status : Nat) (data : List Byte) : Msg := ⟨.vctReply, c.port,
      (p.udpFrame c.port c.mac c.v6 c.ip c.udp
        (vctMessage p.sec.cmdKey 2 c.code c.slate p.pkgId status c.counter data)).map (·.toNat)⟩
    let ends (i : Instr) (status : Nat) (data : List Byte) : Prop := ∃ t, exec i s = .next t ∧ t.pkg.sec.queue = [] ∧
      t.pkg.tx.getLast? = some (reply s.pkg status data)
    (s.pkg.front 1 = some c → ends .discover 0 (List.flatten [leBytes 8 s.pkg.fuse.serial,
      leBytes 8 (s.pkg.reg .TOP_ID 0).toNat, leBytes 4 (s.pkg.getF F.SEC_BOOT.BOOT_ID 0), leBytes 2 s.pkg.pkgId,
      leBytes 2 (s.pkg.reg .SEC_STATE 0).toNat, sha256 s.pkg.flash.idCert])) ∧
    (s.pkg.front 2 = some c → ends .getCert 0 (certBytes s.pkg.flash.idCert ++ certBytes s.pkg.flash.caCert)) ∧
    (∀ (salt : BitVec 256) (x : Nat), s.pkg.front 3 = some c → c.payload.length = 32 → s.pkg.idKey = some x →
      let b := s.pkg.attestBody c.payload
      ends (.attest salt) 0 (b ++ pssSign s.pkg.flash.idN x b (beBytes 32 salt.toNat))) ∧
    (∀ k x, s.pkg.front 4 = some c → c.payload.length = 768 → s.pkg.sec.ownerN ≠ 0 →
      pssVerify s.pkg.sec.ownerN (c.hdr ++ c.payload.take 384) (c.payload.drop 384) = true →
      s.pkg.idKey = some x → oaepDecrypt s.pkg.flash.idN x (c.payload.take 384) = some k → k.length = 32 →
      ∃ t, exec (.keyInstall false) s = .next t ∧ t.mem = s.mem ∧ t.pkg.sec.cmdKey = some (ofBe k) ∧
        t.pkg.flag F.SEC_STATE.KEY_OK 0 = true ∧ t.pkg.flag F.SEC_STATE.KEY_BUSY 0 = false ∧ t.pkg.sec.queue = [] ∧
        t.pkg.tx.getLast? = some (reply t.pkg 0 [])) ∧
    (s.pkg.front 0x10 = some c → (∀ o, c.payload = leBytes 8 o ++ leBytes 8 0 → o < 2 ^ 24 → o % 8 = 0 →
      ∀ r, Reg.ofOff o = some r → r.isSel = false → r.selected = false → r ≠ .PORT_RT_DATA → r ≠ .LOG_FIFO_DATA →
      r ≠ .PORT_LANE_ERR → r ≠ .D2D_LANE_ERR → r ≠ .COLL_GRP_MEMBER → r ≠ .COLL_LATE →
      s.pkg.lead.join = none → ends .regAccess 0 (leBytes 8 (s.pkg.view r 0 [] - (s.pkg.view r 0 [] &&& r.bits (·.acc == .wo)))))) ∧
    (∀ a n q, s.pkg.front 0x11 = some c → c.payload = leBytes 8 a ++ leBytes 8 n → a < 2 ^ 48 → 8 ≤ n → n % 8 = 0 →
      a / 4096 = (a + n - 1) / 4096 → (∃ v, s.pkg.place a = .user v ∧ s.pkg.place (a + n - 1) = .user v ∧ s.pkg.vatReady v = true) → s.pkg.safe = false →
      s.pkg.held (stackOf a) = false → s.pkg.badIn a n = [] →
      s.pkg.directs 5 false false (hostBlocks false a n) = some q → ends .memRead 0 (s.mem.view s.pkg a n)) ∧
    (∀ a d q, s.MemOk → s.pkg.front 0x12 = some c → c.payload = leBytes 8 a ++ leBytes 8 d.length ++ d → a < 2 ^ 48 →
      8 ≤ d.length → d.length % 8 = 0 → a / 4096 = (a + d.length - 1) / 4096 → s.pkg.place (a + d.length - 1) = s.pkg.place a →
      s.pkg.writable a → s.pkg.inCave (a + d.length - 1) = false → s.pkg.safe = false → s.sound →
      s.pkg.directs 5 true false (hostBlocks false a d.length) = some q →
      ∃ t, exec .memWrite s = .next t ∧ t.pkg.sec.queue = [] ∧ t.pkg.tx.getLast? = some (reply s.pkg 0 []) ∧
        (∀ i, i < d.length → t.mem.byte (a + i) = d.getD i 0) ∧
        ∀ b, ¬(a ≤ b ∧ b < a + d.length) → t.mem.byte b = s.mem.byte b) ∧
    (∀ a x k, s.pkg.front 0x20 = some c → c.payload = leBytes 8 a ++ leBytes 8 x → a < 2 ^ 64 → x < 2 ^ 32 →
      s.pkg.loads = true → s.pkg.reg .NUM_TCFG_ADDR 0 = 0 → (∃ v, s.pkg.place a = .user v ∧ s.pkg.vatReady v = true) →
      s.pkg.held (stackOf a) = false → s.sound →
      let b := s.mem.read a 128
      let h := PHdr.ofBytes b
      s.pkg.hdrCheck b [] [h.core] = none → s.pkg.physOf h.core = some k →
      ends .load 0 [] ∧ ∀ t, exec .load s = .next t → t.mem = s.mem ∧ (t.core k).hdr.loaded = true ∧
        (t.core k).st = .idle ∧ (t.core k).fe.ptr = h.entry ∧ (t.core k).hdr.bundles = h.bundles ∧
        (t.core k).hdr.text = h.text ∧ t.pkg.reg .CORE_STEP k = BitVec.ofNat 64 h.step) ∧
    (s.pkg.front 0x21 = some c → c.payload.length = 64 → s.pkg.safe = false →
      (maskIds 512 (ofLe c.payload)).all (s.pkg.startable ·) = true →
      ends .start 0 [] ∧ ∀ t, exec .start s = .next t → ∀ i ∈ maskIds 512 (ofLe c.payload), ∀ k,
        s.pkg.physOf i = some k → (t.core k).st = .run) ∧
    (s.pkg.front 0x22 = some c → c.payload.length = 64 → s.pkg.getF F.CLAP_CONT_STATE.STATE 0 = 0 →
      (maskIds 512 (ofLe c.payload)).all (s.pkg.haltable ·) = true →
      ends .halt 0 [] ∧ ∀ t, exec .halt s = .next t → ∀ i ∈ maskIds 512 (ofLe c.payload), ∀ k,
        s.pkg.physOf i = some k → (t.core k).st = .halt) ∧
    (∀ w, s.pkg.front 0x30 = some c → c.payload = leBytes 8 w → w < 2 ^ 64 → bitOf w 63 = true → ends .subscribe 0 [] ∧
      ∀ t, exec .subscribe s = .next t → t.pkg.sec.sub = some ⟨c.v6, c.ip, fld w 31 16, c.mac, c.port, bitOf w 8, w % 16⟩) ∧
    (∀ o d, s.pkg.front 0x40 = some c → c.payload = leBytes 8 o ++ leBytes 8 d.length ++ d → o < 2 ^ 64 →
      d.length ≤ 8192 → d.length % 8 = 0 →
      s.pkg.stagingRegions.any (fun r => decide (r.1 ≤ o) && decide (o + d.length ≤ r.1 + r.2)) = true →
      ends (.flashWrite false) 0 [] ∧ ∀ t, exec (.flashWrite false) s = .next t → t.pkg.flash = s.pkg.flash.write o d) ∧
    (s.pkg.front 0x41 = some c → c.payload = [] → ends .svnCommit 0 [] ∧ ∀ t, exec .svnCommit s = .next t →
      t.pkg.fuse.minSvn = max s.pkg.fuse.minSvn (s.pkg.getF F.SEC_BOOT.FW_SVN 0))

/-- R502, R516: a notice takes whole records of the subscribed FIFOs and goes to the subscriber on a port with a link, or
with VIA_LEAD the records go to the lead in messages of class 3; the lead sends records forwarded to it on to its own
subscriber; records and notices that reach neither are counted in LOST. The guest die reads and writes its mailbox
window alone, its frames for electrical ports are refused and those for an optical port it owns pass. Commands that
complete here, with the effect stated: NOTICE_SEND, FORWARDED_RECORD_RECEIVE, GUEST_ACCESS, GUEST_FRAME. -/
def Obligations.NoticesAndGuest : Prop :=
  (∀ (s : State) (u : Sub), s.pkg.hostUp = true → s.pkg.executes = true → s.pkg.sec.sub = some u → u.viaLead = false →
    s.pkg.takeGroups u.fifos ≠ [] → s.pkg.noticePort u = none →
    ∃ t, exec .noticeSend s = .next t ∧ t.mem = s.mem ∧ t.pkg.sec.notices = s.pkg.sec.notices + 1 ∧
      (∀ f, f < 4 → t.pkg.fifo f = (s.pkg.fifo f).drop
        (((s.pkg.takeGroups u.fifos).filter (·.1 == f)).map (·.2.2.length)).sum) ∧
      t.pkg.getF F.SEC_NOTICE.LOST 0 = satAdd (F.SEC_NOTICE.LOST.hi + 1 - F.SEC_NOTICE.LOST.lo)
        (s.pkg.getF F.SEC_NOTICE.LOST 0) 1) ∧
  (∀ (s : State) (u : Sub) (n : Nat), s.pkg.hostUp = true → s.pkg.executes = true → s.pkg.sec.sub = some u →
    u.viaLead = false → s.pkg.takeGroups u.fifos ≠ [] → s.pkg.noticePort u = some n →
    ∃ t, exec .noticeSend s = .next t ∧ t.mem = s.mem ∧
      t.pkg.tx = s.pkg.tx ++ [⟨.notice, n, (s.pkg.udpFrame n u.mac u.v6 u.ip u.udp (vctMessage s.pkg.sec.cmdKey 3 0 0 s.pkg.pkgId 0
        (s.pkg.getF F.SEC_BOOT.BOOT_ID 0 * 2 ^ 40 + 1 + s.pkg.sec.notices)
        ((s.pkg.takeGroups u.fifos).map fun g => groupBytes s.pkg.pkgId g.1 g.2.1 g.2.2).flatten)).map (·.toNat)⟩]) ∧
  (∀ (s : State) (u : Sub), s.pkg.hostUp = true → s.pkg.executes = true → s.pkg.sec.sub = some u → u.viaLead = true →
    s.pkg.takeGroups u.fifos ≠ [] →
    let lead := s.pkg.getF F.CLAP_ROLE.LEAD_ID 0
    let gs := s.pkg.takeGroups u.fifos
    ∃ t, exec .noticeSend s = .next t ∧ t.mem = s.mem ∧
      (∀ f, f < 4 → t.pkg.fifo f = (s.pkg.fifo f).drop ((gs.filter (·.1 == f)).map (·.2.2.length)).sum) ∧
      (s.pkg.reaches lead = true → t.pkg.tx = s.pkg.tx ++ gs.map fun g =>
        ⟨.forwardRecord, lead, [3, s.pkg.pkgId, g.1, g.2.1] ++ g.2.2.map (·.toNat)⟩) ∧
      (s.pkg.reaches lead = false → t.pkg.tx = s.pkg.tx ∧ t.pkg.getF F.SEC_NOTICE.LOST 0 =
        satAdd (F.SEC_NOTICE.LOST.hi + 1 - F.SEC_NOTICE.LOST.lo) (s.pkg.getF F.SEC_NOTICE.LOST 0)
          (gs.map fun g => g.2.2.length / recWords g.1).sum)) ∧
  (∀ (s : State) (src : BitVec 12) (f : BitVec 2) (lost : BitVec 32) (ws : List (BitVec 64)), s.pkg.hostUp = true →
    s.pkg.executes = true → (s.pkg.sec.sub = none ∨ ∃ u, s.pkg.sec.sub = some u ∧ u.viaLead = true) →
    exec (.forwardedRecordReceive src f lost ws) s =
      .next (s.pkgTo fun p => p.addF F.SEC_NOTICE.LOST 0 (ws.length / recWords f.toNat))) ∧
  (∀ (s : State) (src : BitVec 12) (f : BitVec 2) (lost : BitVec 32) (ws : List (BitVec 64)) (u : Sub), s.pkg.hostUp = true →
    s.pkg.executes = true → s.pkg.sec.sub = some u → u.viaLead = false →
    ∃ t, exec (.forwardedRecordReceive src f lost ws) s = .next t ∧ t.mem = s.mem ∧ t.pkg.fifos = s.pkg.fifos ∧
      t.pkg.sec.notices = s.pkg.sec.notices + 1 ∧
      (∀ n, s.pkg.noticePort u = some n → t.pkg.tx = s.pkg.tx ++ [⟨.notice, n, (s.pkg.udpFrame n u.mac u.v6 u.ip u.udp
        (vctMessage s.pkg.sec.cmdKey 3 0 0 s.pkg.pkgId 0 (s.pkg.getF F.SEC_BOOT.BOOT_ID 0 * 2 ^ 40 + 1 + s.pkg.sec.notices)
          (groupBytes src.toNat f.toNat lost.toNat ws))).map (·.toNat)⟩]) ∧
      (s.pkg.noticePort u = none → t.pkg.tx = s.pkg.tx ∧ t.pkg.getF F.SEC_NOTICE.LOST 0 =
        satAdd (F.SEC_NOTICE.LOST.hi + 1 - F.SEC_NOTICE.LOST.lo) (s.pkg.getF F.SEC_NOTICE.LOST 0) 1)) ∧
  (∀ (s : State) (a : BitVec 48) (n : BitVec 13) (d : Bytes), s.pkg.alive = true → s.pkg.fuse.guest = true →
    (0x020020000000 ≤ a.toNat → a.toNat + d.length ≤ 0x020020400000 → s.sound →
      exec (.guestAccess true a n d) s = .next { s with mem := s.mem.write a.toNat d }) ∧
    (0x020020000000 ≤ a.toNat → a.toNat + n.toNat ≤ 0x020020400000 → exec (.guestAccess false a n d) s =
      .next (s.pkgTo fun p => p.send .guestData 0 ((s.mem.view s.pkg a.toNat n.toNat).map (·.toNat)))) ∧
    (a.toNat < 0x020020000000 → ∃ t, exec (.guestAccess true a n d) s = .next t ∧ t.mem = s.mem ∧
      t.pkg.getF F.SEC_GUEST.ACCESS_REFUSED 0 =
        satAdd (F.SEC_GUEST.ACCESS_REFUSED.hi + 1 - F.SEC_GUEST.ACCESS_REFUSED.lo)
          (s.pkg.getF F.SEC_GUEST.ACCESS_REFUSED 0) 1)) ∧
  (∀ (s : State) (n : BitVec 5), s.pkg.alive = true → s.pkg.fuse.guest = true → 15 ≤ n.toNat → n.toNat ≤ 17 →
    bitOf (s.pkg.getF F.PORT_GUEST.OPTICAL 0) (n.toNat - 15) = true → exec (.guestFrame n) s = .next s) ∧
  (∀ (s : State) (n : BitVec 5), s.pkg.alive = true → s.pkg.fuse.guest = true →
    (n.toNat < 15 ∨ 17 < n.toNat ∨ bitOf (s.pkg.getF F.PORT_GUEST.OPTICAL 0) (n.toNat - 15) = false) →
    ∃ t, exec (.guestFrame n) s = .next t ∧ t.mem = s.mem ∧ t.pkg.getF F.SEC_GUEST.FRAMES_REFUSED 0 =
      satAdd (F.SEC_GUEST.FRAMES_REFUSED.hi + 1 - F.SEC_GUEST.FRAMES_REFUSED.lo)
        (s.pkg.getF F.SEC_GUEST.FRAMES_REFUSED 0) 1)

/-- R11, R12, R560, R563: firmware writes the RW fields of a register and clears W1C fields where it writes 1; every other
bit, and every other register, stays, but that a write of CLAP_CFG may move a wheel lead's parent (R434, log entry
137); a read of it clears its RC fields alone. Commands that complete here, with the effect stated: REGISTER_WRITE,
RC_FIELD_READ. -/
def Obligations.RegistersAccessed : Prop :=
  ∀ (s : State) (o : BitVec 24) (r : Reg), s.pkg.fwOn = true → s.pkg.lead.join = none → Reg.ofOff o.toNat = some r →
    r.isSel = false → r.selected = false →
    r ∉ ([.TOP_VAT_RESET, .CORE_SWAP, .CORE_SCT_DATA, .NUM_LOSS_STATE, .NUM_LOSS_SAMPLES, .PORT_RT_DATA, .GAFF_GPIO,
      .GAFF_CFG, .MC_MAINT, .MC_REPAIR, .PRESS_DIG_CTL, .LOG_FIFO_DATA, .PORT_LANE_ERR, .D2D_LANE_ERR, .COLL_GRP_MEMBER,
      .COLL_LATE] : List Reg) →
    let old := (s.pkg.reg r 0).toNat
    (∀ w : BitVec 64, s.pkg.writeOpen r 0 = true →
      let new := BitVec.ofNat 64 (old - (old &&& r.bits (·.acc == .rw)) - (w.toNat &&& r.bits (·.acc == .w1c) &&& old) +
        (w.toNat &&& r.bits (·.acc == .rw)))
      (r ≠ .CLAP_CFG → exec (.registerWrite o w) s = .next (s.pkgTo fun p => p.setReg r 0 new)) ∧
      (r = .CLAP_CFG → exec (.registerWrite o w) s = .next (s.pkgTo fun p => (p.setReg r 0 new).clapCfgSettle))) ∧
    (∀ w : BitVec 64, s.pkg.writeOpen r 0 = false → exec (.registerWrite o w) s = .next s) ∧
    ∃ t, exec (.rcFieldRead o) s = .next t ∧ t.mem = s.mem ∧
      t.pkg.reg r 0 = BitVec.ofNat 64 (old - (old &&& r.bits (·.acc == .rc))) ∧
      t.pkg.fwWord = BitVec.ofNat 64 (s.pkg.view r 0 s.pkg.fw - (s.pkg.view r 0 s.pkg.fw &&& r.bits (·.acc == .wo)))

/-- R494, R495: what an enabled port with a link makes of a frame. One with uncorrectable codewords is counted there
alone; one for another address, one that is too long, tagged other than ETH_NET says or of another type is dropped and
counted. An ARP request for the package's address, an IPv6 neighbour solicitation for it and an echo request to it are
each answered with one frame to its sender; a UDP datagram for UDP_PORT reaches the security engine; each counts in
RX_FRAMES. Commands that complete here, with the effect stated: ETH_FRAME_RECEIVE. -/
def Obligations.FramesReceived : Prop :=
  ∀ (s : State) (n : BitVec 1), s.pkg.ethOn n.toNat = true → s.pkg.flag F.ETH_STATUS.LINK n.toNat = true →
    let mac := s.pkg.getF F.ETH_PORT_CFG.MAC n.toNat
    let ip4 := s.pkg.getF F.ETH_NET.IP4 0
    let mine (dst : Nat) : Prop := dst = mac ∨ dst = 2 ^ 48 - 1 ∨ dst = 0x3333FF000000 + s.pkg.ip6 % 2 ^ 24
    let frame (dst src type : Nat) (b : List Byte) : List Byte := List.flatten [beBytes 6 dst, beBytes 6 src,
      if s.pkg.flag F.ETH_NET.VLAN_EN 0 then beBytes 2 0x8100 ++ beBytes 2 (s.pkg.getF F.ETH_NET.VLAN 0) else [],
      beBytes 2 type, b]
    let drops (f : Bytes) : Prop := exec (.ethFrameReceive n 0 f) s = .next (s.pkgTo fun p =>
      (p.addF F.ETH_STAT.FEC_UNCORR n.toNat 0).addF F.ETH_STAT.RX_DROPS n.toNat 1)
    (∀ (f : Bytes) (u : BitVec 8), u ≠ 0 → exec (.ethFrameReceive n u f) s =
      .next (s.pkgTo fun p => p.addF F.ETH_STAT.FEC_UNCORR n.toNat u.toNat)) ∧
    (∀ f : Bytes, ¬mine (beAt f 0 6) ∨ 9216 < f.length + 4 ∨
      (s.pkg.flag F.ETH_NET.VLAN_EN 0 = false ∧ beAt f 12 2 = 0x8100) ∨
      (s.pkg.flag F.ETH_NET.VLAN_EN 0 = true ∧ (beAt f 12 2 ≠ 0x8100 ∨ beAt f 14 2 % 4096 ≠ s.pkg.getF F.ETH_NET.VLAN 0)) →
      drops f) ∧
    ∀ (dst src type : Nat) (b : List Byte), src < 2 ^ 48 → mine dst → (frame dst src type b).length + 4 ≤ 9216 →
      let f := frame dst src type b
      let answers (reply : List Byte) : Prop := ∃ t, exec (.ethFrameReceive n 0 f) s = .next t ∧ t.mem = s.mem ∧
        t.pkg.tx = s.pkg.tx ++ [⟨.frame, n.toNat, (s.pkg.frameBytes n.toNat src type reply).map (·.toNat)⟩] ∧
        t.pkg.getF F.ETH_STAT.RX_FRAMES n.toNat = satAdd (F.ETH_STAT.RX_FRAMES.hi + 1 - F.ETH_STAT.RX_FRAMES.lo)
          (s.pkg.getF F.ETH_STAT.RX_FRAMES n.toNat) 1
      let arrives (v6 : Bool) (ip : Nat) (u : List Byte) : Prop := exec (.ethFrameReceive n 0 f) s = .next (s.pkgTo fun p =>
        ((p.addF F.ETH_STAT.FEC_UNCORR n.toNat 0).vctArrive n.toNat v6 ip (beAt u 0 2) src (u.drop 8)).addF
          F.ETH_STAT.RX_FRAMES n.toNat 1)
      let datagram (u : List Byte) : Prop := 8 ≤ u.length ∧ beAt u 4 2 = u.length ∧
        beAt u 2 2 = s.pkg.getF F.ETH_NET.UDP_PORT 0
      (type < 2 ^ 16 → type ≠ 0x8100 → type ≠ 0x0806 → type ≠ 0x0800 → type ≠ 0x86DD → drops f) ∧
      (type = 0x0806 → s.pkg.flag F.ETH_NET.IP4_EN 0 = true → beAt b 0 8 = 0x0001080006040001 → beAt b 24 4 = ip4 →
        answers (List.flatten [beBytes 8 0x0001080006040002, beBytes 6 mac, beBytes 4 ip4, bytesAt b 8 6, bytesAt b 14 4])) ∧
      (type = 0x0800 → s.pkg.flag F.ETH_NET.IP4_EN 0 = true → beAt b 0 1 = 0x45 → 20 ≤ beAt b 2 2 → beAt b 2 2 ≤ b.length →
        beAt b 6 2 % 0x4000 = 0 → onesSum (b.take 20) = 65535 → beAt b 16 4 = ip4 →
        let body := (b.take (beAt b 2 2)).drop 20
        (beAt b 9 1 = 1 → beAt body 0 1 = 8 → beAt b 2 2 ≤ 1500 →
          let icmp (c : Nat) : List Byte := beBytes 2 0 ++ beBytes 2 c ++ body.drop 4
          answers (packet4 ip4 (beAt b 12 4) 1 (icmp (netChecksum (icmp 0))))) ∧
        (beAt b 9 1 = 17 → datagram body → (beAt body 6 2 = 0 ∨
            onesSum (pseudo false (beAt b 12 4) ip4 17 body.length ++ body) = 65535) → arrives false (beAt b 12 4) body)) ∧
      (type = 0x86DD → s.pkg.flag F.ETH_NET.IP6_EN 0 = true → beAt b 0 1 / 16 = 6 → 40 + beAt b 4 2 ≤ b.length →
        let body := (b.drop 40).take (beAt b 4 2)
        let to' := beAt b 24 16
        (beAt b 6 1 = 58 → onesSum (pseudo true (beAt b 8 16) to' 58 body.length ++ body) = 65535 →
          (to' = s.pkg.ip6 ∨ to' = s.pkg.solicited → beAt body 0 1 = 135 → beAt body 8 16 = s.pkg.ip6 →
            answers (s.pkg.packet6 (beAt b 8 16) 255
              (List.flatten [beBytes 4 0x88000000, beBytes 4 0x60000000, beBytes 16 s.pkg.ip6, beBytes 2 0x0201, beBytes 6 mac]))) ∧
          (to' = s.pkg.ip6 → beAt body 0 1 = 128 → 40 + body.length ≤ 1500 →
            answers (s.pkg.packet6 (beAt b 8 16) 64 (beBytes 4 0x81000000 ++ body.drop 4)))) ∧
        (beAt b 6 1 = 17 → to' = s.pkg.ip6 → datagram body → beAt body 6 2 ≠ 0 →
          onesSum (pseudo true (beAt b 8 16) to' 17 body.length ++ body) = 65535 → arrives true (beAt b 8 16) body))
end

