-- ==== Sys2Proof/Laws/Bits.lean ====
section
/-! SUPPORT. Laws of bit fields, bytes and saturation. -/
namespace Sys2Proof.Machine

theorem testBit_fld (x hi lo i : Nat) : (fld x hi lo).testBit i = (decide (i < hi + 1 - lo) && x.testBit (lo + i)) := by
  simp [fld, Nat.testBit_mod_two_pow, Nat.testBit_shiftRight]

theorem fld_lt (x hi lo : Nat) : fld x hi lo < 2 ^ (hi + 1 - lo) := Nat.mod_lt _ (Nat.two_pow_pos _)

theorem putFld_eq (x hi lo v : Nat) (h : lo ≤ hi + 1) :
    putFld x hi lo v = 2 ^ lo * (2 ^ (hi + 1 - lo) * (x / 2 ^ (hi + 1)) + v % 2 ^ (hi + 1 - lo)) + x % 2 ^ lo := by
  have e : (2 : Nat) ^ (hi + 1) = 2 ^ lo * 2 ^ (hi + 1 - lo) := by rw [← Nat.pow_add]; congr 1; omega
  have d1 : x = 2 ^ lo * (x / 2 ^ lo) + x % 2 ^ lo := (Nat.div_add_mod _ _).symm
  have d2 : x / 2 ^ lo = 2 ^ (hi + 1 - lo) * (x / 2 ^ (hi + 1)) + fld x hi lo := by
    rw [fld, Nat.shiftRight_eq_div_pow, e, ← Nat.div_div_eq_div_mul]; exact (Nat.div_add_mod _ _).symm
  rw [putFld]
  generalize fld x hi lo = f at *
  generalize x / 2 ^ (hi + 1) = a at *
  generalize v % 2 ^ (hi + 1 - lo) = u
  generalize 2 ^ (hi + 1 - lo) = w at *
  generalize x % 2 ^ lo = b at *
  generalize 2 ^ lo = l at *
  rw [d2] at d1
  subst d1
  have : l * (w * a + f) = l * (w * a) + f * l := by ring
  have : l * (w * a + u) = l * (w * a) + u * l := by ring
  omega

theorem testBit_putFld (x hi lo v i : Nat) (h : lo ≤ hi + 1) :
    (putFld x hi lo v).testBit i = if lo ≤ i ∧ i ≤ hi then v.testBit (i - lo) else x.testBit i := by
  rw [putFld_eq x hi lo v h, Nat.testBit_two_pow_mul_add _ (Nat.mod_lt _ (Nat.two_pow_pos lo)),
    Nat.testBit_mod_two_pow]
  by_cases h1 : i < lo
  · simp [h1, show ¬ lo ≤ i by omega]
  · rw [if_neg h1, Nat.testBit_two_pow_mul_add _ (Nat.mod_lt _ (Nat.two_pow_pos _)), Nat.testBit_mod_two_pow]
    by_cases h2 : i ≤ hi
    · simp [show i - lo < hi + 1 - lo by omega, show lo ≤ i by omega, h2]
    · rw [if_neg (show ¬ (i - lo < hi + 1 - lo) by omega), if_neg (by omega), Nat.testBit_div_two_pow]
      congr 1; omega

@[simp] theorem fld_putFld_self (x hi lo v : Nat) : fld (putFld x hi lo v) hi lo = v % 2 ^ (hi + 1 - lo) := by
  by_cases h : lo ≤ hi + 1
  · apply Nat.eq_of_testBit_eq
    intro i
    rw [testBit_fld, testBit_putFld _ _ _ _ _ h, Nat.testBit_mod_two_pow]
    by_cases hi' : i < hi + 1 - lo
    · simp [hi', show lo + i ≤ hi by omega]
    · simp [hi']
  · have e : hi + 1 - lo = 0 := by omega
    simp [fld, e, Nat.mod_one]

theorem fld_putFld_ne (x hi lo v hi' lo' : Nat) (h : lo ≤ hi + 1) (d : hi < lo' ∨ hi' < lo) :
    fld (putFld x hi lo v) hi' lo' = fld x hi' lo' := by
  apply Nat.eq_of_testBit_eq
  intro i
  rw [testBit_fld, testBit_fld, testBit_putFld _ _ _ _ _ h]
  by_cases hi'' : i < hi' + 1 - lo'
  · rw [if_neg (by omega)]
  · simp [hi'']

theorem putFld_lt (x hi lo v n : Nat) (h : lo ≤ hi + 1) (hn : hi < n) (hx : x < 2 ^ n) : putFld x hi lo v < 2 ^ n := by
  apply Nat.lt_pow_two_of_testBit
  intro i hi'
  rw [testBit_putFld _ _ _ _ _ h, if_neg (by omega)]
  exact Nat.testBit_lt_two_pow (lt_of_lt_of_le hx (Nat.pow_le_pow_right (by omega) hi'))

theorem bitOf_eq_testBit (x i : Nat) : bitOf x i = x.testBit i := by
  simp [bitOf, Nat.testBit, Nat.and_comm, Nat.and_one_is_mod]

theorem satAdd_zero {w a : Nat} (h : a < 2 ^ w) : satAdd w a 0 = a := by
  unfold satAdd; omega

theorem satAdd_lt (w a b : Nat) : satAdd w a b < 2 ^ w := by
  have := Nat.two_pow_pos w; unfold satAdd; omega

theorem length_leBytes (n v : Nat) : (leBytes n v).length = n := by
  induction n generalizing v with
  | zero => rfl
  | succ n ih => simp [leBytes, ih]

theorem ofLe_leBytes (n v : Nat) : ofLe (leBytes n v) = v % 256 ^ n := by
  induction n generalizing v with
  | zero => simp [leBytes, ofLe, Nat.mod_one]
  | succ n ih =>
    simp only [leBytes, ofLe, ih, BitVec.toNat_ofNat]
    have : v % (256 * 256 ^ n) = v % 256 + 256 * (v / 256 % 256 ^ n) := Nat.mod_mul
    rw [show 256 ^ (n + 1) = 256 * 256 ^ n by ring, this]

theorem ofLe_lt (bs : List Byte) : ofLe bs < 256 ^ bs.length := by
  induction bs with
  | nil => simp [ofLe]
  | cons b bs ih => simp only [ofLe, List.length_cons, Nat.pow_succ]; have := b.isLt; omega

theorem leBytes_ofLe (bs : List Byte) : leBytes bs.length (ofLe bs) = bs := by
  induction bs with
  | nil => rfl
  | cons b bs ih =>
    simp only [List.length_cons, leBytes, ofLe]
    congr 1
    · apply BitVec.eq_of_toNat_eq; have := b.isLt; simp; omega
    · have := b.isLt; rw [show (b.toNat + 256 * ofLe bs) / 256 = ofLe bs by omega]; exact ih

theorem ofLe_append (a b : List Byte) : ofLe (a ++ b) = ofLe a + 256 ^ a.length * ofLe b := by
  induction a with
  | nil => simp [ofLe]
  | cons x a ih => simp only [List.cons_append, ofLe, ih, List.length_cons, Nat.pow_succ]; ring

end Sys2Proof.Machine
end

