-- ==== Sys2Proof/Laws/Tab.lean ====
section
/-! SUPPORT. Laws of sparse tables: what a key reads after a write, an insertion or a removal, for every table. -/
namespace Sys2Proof.Machine

variable {α : Type}

/-- What is left of a table above `k` answers nothing below it. -/
theorem tget_dropWhile_lt (d : α) (t : Tab α) {k j : Nat} (h : j ≤ k) :
    tget d (t.dropWhile fun c => c.1 ≤ k) j = d := by
  induction t with
  | nil => rfl
  | cons c t ih =>
    by_cases hc : c.1 ≤ k
    · simp [List.dropWhile, hc]; exact ih
    · simp [List.dropWhile, hc, tget, show c.1 ≠ j by omega, show j < c.1 by omega]

theorem tfind_dropWhile_lt (t : Tab α) {k j : Nat} (h : j ≤ k) : tfind (t.dropWhile fun c => c.1 ≤ k) j = none := by
  induction t with
  | nil => rfl
  | cons c t ih =>
    by_cases hc : c.1 ≤ k
    · simp [List.dropWhile, hc]; exact ih
    · simp [List.dropWhile, hc, tfind, show c.1 ≠ j by omega, show j < c.1 by omega]

theorem tget_eq_tfind (d : α) (t : Tab α) (k : Nat) : tget d t k = (tfind t k).getD d := by
  induction t with
  | nil => rfl
  | cons c t ih => simp only [tget, tfind]; split <;> (try split) <;> simp_all

theorem tfind_tdel_self (t : Tab α) (k : Nat) : tfind (tdel t k) k = none := by
  induction t with
  | nil => rfl
  | cons c t ih =>
    by_cases h : c.1 = k
    · simp [tdel, h, tfind_dropWhile_lt]
    · by_cases hl : k < c.1
      · simp [tdel, h, hl, tfind]
      · simp [tdel, h, hl, tfind, ih]

theorem tfind_dropWhile_gt (t : Tab α) {k j : Nat} (h : k < j) :
    tfind (t.dropWhile fun c => c.1 ≤ k) j = tfind t j := by
  induction t with
  | nil => rfl
  | cons c t ih =>
    by_cases hc : c.1 ≤ k
    · simp [List.dropWhile, hc, tfind, show c.1 ≠ j by omega, show ¬ j < c.1 by omega]; exact ih
    · simp [List.dropWhile, hc]

theorem tfind_tdel_ne (t : Tab α) {k j : Nat} (h : j ≠ k) : tfind (tdel t k) j = tfind t j := by
  induction t with
  | nil => rfl
  | cons c t ih =>
    by_cases hk : c.1 = k
    · by_cases hj : k < j
      · simp [tdel, hk, tfind, tfind_dropWhile_gt t hj, show k ≠ j by omega, show ¬ j < k by omega]
      · simp [tdel, hk, tfind, tfind_dropWhile_lt t (show j ≤ k by omega), show k ≠ j by omega, show j < k by omega]
    · by_cases hl : k < c.1
      · simp [tdel, hk, hl]
      · by_cases hj : c.1 = j
        · simp [tdel, tfind, hj, h, show ¬ k < j by omega]
        · simp [tdel, hk, hl, tfind, hj, ih]

theorem tfind_tins_self (t : Tab α) (k : Nat) (v : α) : tfind (tins t k v) k = some v := by
  induction t with
  | nil => simp [tins, tfind]
  | cons c t ih =>
    by_cases h : c.1 = k
    · simp [tins, h, tfind]
    · by_cases hl : k < c.1
      · simp [tins, h, hl, tfind]
      · simp [tins, h, hl, tfind, ih]

theorem tfind_tins_ne (t : Tab α) {k j : Nat} (v : α) (h : j ≠ k) : tfind (tins t k v) j = tfind t j := by
  induction t with
  | nil => simp [tins, tfind, Ne.symm h]
  | cons c t ih =>
    by_cases hk : c.1 = k
    · by_cases hj : j < k <;> simp [tins, hk, tfind, Ne.symm h, hj]
    · by_cases hl : k < c.1
      · by_cases hj : j < k
        · simp [tins, hk, hl, tfind, Ne.symm h, hj, show c.1 ≠ j by omega, show j < c.1 by omega]
        · simp [tins, hk, hl, tfind, Ne.symm h, hj]
      · by_cases hj : c.1 = j
        · simp [tins, tfind, hj, h, show ¬ k < j by omega]
        · simp [tins, hk, hl, tfind, hj, ih]

@[simp] theorem tget_tins_self (d : α) (t : Tab α) (k : Nat) (v : α) : tget d (tins t k v) k = v := by
  simp [tget_eq_tfind, tfind_tins_self]

theorem tget_tins_ne (d : α) (t : Tab α) {k j : Nat} (v : α) (h : j ≠ k) : tget d (tins t k v) j = tget d t j := by
  simp [tget_eq_tfind, tfind_tins_ne t v h]

@[simp] theorem tget_tdel_self (d : α) (t : Tab α) (k : Nat) : tget d (tdel t k) k = d := by
  simp [tget_eq_tfind, tfind_tdel_self]

theorem tget_tdel_ne (d : α) (t : Tab α) {k j : Nat} (h : j ≠ k) : tget d (tdel t k) j = tget d t j := by
  simp [tget_eq_tfind, tfind_tdel_ne t h]

@[simp] theorem tget_tset_self [DecidableEq α] (d : α) (t : Tab α) (k : Nat) (v : α) : tget d (tset d t k v) k = v := by
  unfold tset; split <;> simp_all

theorem tget_tset_ne [DecidableEq α] (d e : α) (t : Tab α) {k j : Nat} (v : α) (h : j ≠ k) :
    tget e (tset d t k v) j = tget e t j := by
  unfold tset; split
  · exact tget_tdel_ne e t h
  · exact tget_tins_ne e t v h

theorem tget_tset [DecidableEq α] (d : α) (t : Tab α) (k j : Nat) (v : α) :
    tget d (tset d t k v) j = if j = k then v else tget d t j := by
  split
  · subst_vars; simp
  · exact tget_tset_ne d d t v ‹_›

/-- A write over one of a value that is no default. -/
theorem tset_tset [DecidableEq α] (d : α) (t : Tab α) (k : Nat) {v : α} (w : α) (h : v ≠ d) :
    tset d (tset d t k v) k w = tset d t k w := by
  have del : tdel (tins t k v) k = tdel t k := by
    induction t with
    | nil => simp [tins, tdel]
    | cons c t ih =>
      by_cases e : c.1 = k
      · simp [tins, tdel, e]
      · by_cases l : k < c.1
        · simp [tins, tdel, e, l, List.dropWhile, show ¬ c.1 ≤ k by omega]
        · simp [tins, tdel, e, l, ih]
  have ins : tins (tins t k v) k w = tins t k w := by
    clear del
    induction t with
    | nil => simp [tins]
    | cons c t ih =>
      by_cases e : c.1 = k
      · simp [tins, e]
      · by_cases l : k < c.1
        · simp [tins, e, l]
        · simp [tins, e, l, ih]
  unfold tset; simp only [h, if_false]; split
  · exact del
  · exact ins

@[simp] theorem tget_nil (d : α) (k : Nat) : tget d [] k = d := rfl

@[simp] theorem tfind_nil (k : Nat) : tfind ([] : Tab α) k = none := rfl

/-! ### Runs of keys -/

/-- The values at `n` keys from `a` on, in one walk of a table that holds no lower key. -/
def trun (d : α) : Nat → Nat → Tab α → List α
  | 0, _, _ => []
  | n + 1, a, [] => d :: trun d n (a + 1) []
  | n + 1, a, (k, x) :: t => if k == a then x :: trun d n (a + 1) t else d :: trun d n (a + 1) ((k, x) :: t)

theorem trun_eq (d : α) (n a : Nat) (t : Tab α) (h : Tab.risesFrom a t = true) :
    trun d n a t = (List.range n).map fun i => tget d t (a + i) := by
  induction n generalizing a t with
  | zero => rfl
  | succ n ih =>
    rw [List.range_succ_eq_map, List.map_cons, List.map_map]
    cases t with
    | nil =>
      rw [trun, ih (a + 1) [] rfl]
      simp [Function.comp_def]
    | cons c t =>
      obtain ⟨k, x⟩ := c
      simp only [Tab.risesFrom, Bool.and_eq_true, decide_eq_true_eq] at h
      rw [trun]
      split
      · rename_i e
        have e : k = a := eq_of_beq e
        subst e
        rw [ih (k + 1) t h.2]
        congr 1
        · simp [tget]
        · refine List.map_congr_left fun i _ => ?_
          simp [tget, show k + 1 + i = k + (i + 1) by omega]
      · rename_i e
        have e : k ≠ a := by simpa using e
        rw [ih (a + 1) ((k, x) :: t) (by simp [Tab.risesFrom, h.2]; omega)]
        congr 1
        · simp [tget, e, show a < k by omega]
        · refine List.map_congr_left fun i _ => ?_
          simp only [Function.comp_apply, Nat.succ_eq_add_one, show a + 1 + i = a + (i + 1) by omega]

theorem tget_dropWhile (d : α) (t : Tab α) {a k : Nat} (h : a ≤ k) :
    tget d (t.dropWhile fun c => decide (c.1 < a)) k = tget d t k := by
  induction t with
  | nil => rfl
  | cons c t ih =>
    rw [List.dropWhile_cons]
    split
    · rename_i e
      have e : c.1 < a := by simpa using e
      rw [ih, tget]
      simp [show c.1 ≠ k by omega, show ¬ k < c.1 by omega]
    · rfl

theorem risesFrom_dropWhile (t : Tab α) (lo a : Nat) (h : Tab.risesFrom lo t = true) :
    Tab.risesFrom a (t.dropWhile fun c => decide (c.1 < a)) = true := by
  induction t generalizing lo with
  | nil => rfl
  | cons c t ih =>
    simp only [Tab.risesFrom, Bool.and_eq_true, decide_eq_true_eq] at h
    rw [List.dropWhile_cons]
    split
    · exact ih _ h.2
    · rename_i e
      have e : ¬ c.1 < a := by simpa using e
      simp [Tab.risesFrom, h.2]; omega

end Sys2Proof.Machine
end

