-- ==== Sys2Proof/Laws/State.lean ====
section
/-! SUPPORT. One law per field of the package per update of it, and of the accessors over fields that an update leaves
alone: no proof unfolds a record update. -/
namespace Sys2Proof.Machine

variable (p : Pkg)

@[simp] theorem Pkg.setReg_free (q : Reg) (i : Nat) (w : Word) : (p.setReg q i w).free = p.free := rfl
@[simp] theorem Pkg.setReg_time (q : Reg) (i : Nat) (w : Word) : (p.setReg q i w).time = p.time := rfl
@[simp] theorem Pkg.setReg_pins (q : Reg) (i : Nat) (w : Word) : (p.setReg q i w).pins = p.pins := rfl
@[simp] theorem Pkg.setReg_fuse (q : Reg) (i : Nat) (w : Word) : (p.setReg q i w).fuse = p.fuse := rfl
@[simp] theorem Pkg.setReg_vats (q : Reg) (i : Nat) (w : Word) : (p.setReg q i w).vats = p.vats := rfl
@[simp] theorem Pkg.setReg_coreMap (q : Reg) (i : Nat) (w : Word) : (p.setReg q i w).coreMap = p.coreMap := rfl
@[simp] theorem Pkg.setReg_cores (q : Reg) (i : Nat) (w : Word) : (p.setReg q i w).cores = p.cores := rfl
@[simp] theorem Pkg.setReg_faultBy (q : Reg) (i : Nat) (w : Word) : (p.setReg q i w).faultBy = p.faultBy := rfl
@[simp] theorem Pkg.setReg_ceBy (q : Reg) (i : Nat) (w : Word) : (p.setReg q i w).ceBy = p.ceBy := rfl
@[simp] theorem Pkg.setReg_flaws (q : Reg) (i : Nat) (w : Word) : (p.setReg q i w).flaws = p.flaws := rfl
@[simp] theorem Pkg.setReg_skew (q : Reg) (i : Nat) (w : Word) : (p.setReg q i w).skew = p.skew := rfl
@[simp] theorem Pkg.setReg_crinds (q : Reg) (i : Nat) (w : Word) : (p.setReg q i w).crinds = p.crinds := rfl
@[simp] theorem Pkg.setReg_pchs (q : Reg) (i : Nat) (w : Word) : (p.setReg q i w).pchs = p.pchs := rfl
@[simp] theorem Pkg.setReg_holdLog (q : Reg) (i : Nat) (w : Word) : (p.setReg q i w).holdLog = p.holdLog := rfl
@[simp] theorem Pkg.setReg_repairs (q : Reg) (i : Nat) (w : Word) : (p.setReg q i w).repairs = p.repairs := rfl
@[simp] theorem Pkg.setReg_fifos (q : Reg) (i : Nat) (w : Word) : (p.setReg q i w).fifos = p.fifos := rfl
@[simp] theorem Pkg.setReg_trace (q : Reg) (i : Nat) (w : Word) : (p.setReg q i w).trace = p.trace := rfl
@[simp] theorem Pkg.setReg_sigs (q : Reg) (i : Nat) (w : Word) : (p.setReg q i w).sigs = p.sigs := rfl
@[simp] theorem Pkg.setReg_sigNo (q : Reg) (i : Nat) (w : Word) : (p.setReg q i w).sigNo = p.sigNo := rfl
@[simp] theorem Pkg.setReg_marks (q : Reg) (i : Nat) (w : Word) : (p.setReg q i w).marks = p.marks := rfl
@[simp] theorem Pkg.setReg_groups (q : Reg) (i : Nat) (w : Word) : (p.setReg q i w).groups = p.groups := rfl
@[simp] theorem Pkg.setReg_outs (q : Reg) (i : Nat) (w : Word) : (p.setReg q i w).outs = p.outs := rfl
@[simp] theorem Pkg.setReg_reps (q : Reg) (i : Nat) (w : Word) : (p.setReg q i w).reps = p.reps := rfl
@[simp] theorem Pkg.setReg_lossQ (q : Reg) (i : Nat) (w : Word) : (p.setReg q i w).lossQ = p.lossQ := rfl
@[simp] theorem Pkg.setReg_dig (q : Reg) (i : Nat) (w : Word) : (p.setReg q i w).dig = p.dig := rfl
@[simp] theorem Pkg.setReg_lastDig (q : Reg) (i : Nat) (w : Word) : (p.setReg q i w).lastDig = p.lastDig := rfl
@[simp] theorem Pkg.setReg_swap (q : Reg) (i : Nat) (w : Word) : (p.setReg q i w).swap = p.swap := rfl
@[simp] theorem Pkg.setReg_pressNo (q : Reg) (i : Nat) (w : Word) : (p.setReg q i w).pressNo = p.pressNo := rfl
@[simp] theorem Pkg.setReg_tx (q : Reg) (i : Nat) (w : Word) : (p.setReg q i w).tx = p.tx := rfl
@[simp] theorem Pkg.setReg_coll (q : Reg) (i : Nat) (w : Word) : (p.setReg q i w).coll = p.coll := rfl
@[simp] theorem Pkg.setReg_net (q : Reg) (i : Nat) (w : Word) : (p.setReg q i w).net = p.net := rfl
@[simp] theorem Pkg.setReg_orders (q : Reg) (i : Nat) (w : Word) : (p.setReg q i w).orders = p.orders := rfl
@[simp] theorem Pkg.setReg_lead (q : Reg) (i : Nat) (w : Word) : (p.setReg q i w).lead = p.lead := rfl
@[simp] theorem Pkg.setReg_d2d (q : Reg) (i : Nat) (w : Word) : (p.setReg q i w).d2d = p.d2d := rfl
@[simp] theorem Pkg.setReg_edges (q : Reg) (i : Nat) (w : Word) : (p.setReg q i w).edges = p.edges := rfl
@[simp] theorem Pkg.setReg_flash (q : Reg) (i : Nat) (w : Word) : (p.setReg q i w).flash = p.flash := rfl
@[simp] theorem Pkg.setReg_boot (q : Reg) (i : Nat) (w : Word) : (p.setReg q i w).boot = p.boot := rfl
@[simp] theorem Pkg.setReg_sec (q : Reg) (i : Nat) (w : Word) : (p.setReg q i w).sec = p.sec := rfl
@[simp] theorem Pkg.setReg_pow (q : Reg) (i : Nat) (w : Word) : (p.setReg q i w).pow = p.pow := rfl
@[simp] theorem Pkg.setReg_fw (q : Reg) (i : Nat) (w : Word) : (p.setReg q i w).fw = p.fw := rfl
@[simp] theorem Pkg.setReg_fwWord (q : Reg) (i : Nat) (w : Word) : (p.setReg q i w).fwWord = p.fwWord := rfl
@[simp] theorem Pkg.setReg_core (q : Reg) (i : Nat) (w : Word) (j₁ : Nat) : (p.setReg q i w).core j₁ = p.core j₁ := rfl
@[simp] theorem Pkg.setReg_vat (q : Reg) (i : Nat) (w : Word) (j₁ : Nat) : (p.setReg q i w).vat j₁ = p.vat j₁ := rfl
@[simp] theorem Pkg.setReg_hasVat (q : Reg) (i : Nat) (w : Word) (j₁ : Nat) : (p.setReg q i w).hasVat j₁ = p.hasVat j₁ := rfl
@[simp] theorem Pkg.setReg_vatReady (q : Reg) (i : Nat) (w : Word) (j₁ : Nat) : (p.setReg q i w).vatReady j₁ = p.vatReady j₁ := rfl
@[simp] theorem Pkg.setReg_alive (q : Reg) (i : Nat) (w : Word)  : (p.setReg q i w).alive = p.alive := rfl
@[simp] theorem Pkg.setReg_isCore (q : Reg) (i : Nat) (w : Word) (j₁ : Nat) : (p.setReg q i w).isCore j₁ = p.isCore j₁ := rfl
@[simp] theorem Pkg.setReg_isPhys (q : Reg) (i : Nat) (w : Word) (j₁ : Nat) : (p.setReg q i w).isPhys j₁ = p.isPhys j₁ := rfl
@[simp] theorem Pkg.setReg_physOf (q : Reg) (i : Nat) (w : Word) (j₁ : Nat) : (p.setReg q i w).physOf j₁ = p.physOf j₁ := rfl
@[simp] theorem Pkg.setReg_logicalOf (q : Reg) (i : Nat) (w : Word) (j₁ : Nat) : (p.setReg q i w).logicalOf j₁ = p.logicalOf j₁ := rfl
@[simp] theorem Pkg.setReg_logCount (q : Reg) (i : Nat) (w : Word)  : (p.setReg q i w).logCount = p.logCount := rfl
@[simp] theorem Pkg.setReg_fifo (q : Reg) (i : Nat) (w : Word) (j₁ : Nat) : (p.setReg q i w).fifo j₁ = p.fifo j₁ := rfl
@[simp] theorem Pkg.setReg_place (q : Reg) (i : Nat) (w : Word) (a₁ : Nat) : (p.setReg q i w).place a₁ = p.place a₁ := rfl
@[simp] theorem Pkg.setReg_collGrp (q : Reg) (i : Nat) (w : Word) (j₁ : Nat) : (p.setReg q i w).collGrp j₁ = p.collGrp j₁ := rfl
@[simp] theorem Pkg.setReg_port (q : Reg) (i : Nat) (w : Word) (j₁ : Nat) : (p.setReg q i w).port j₁ = p.port j₁ := rfl
@[simp] theorem Pkg.setReg_d2dMod (q : Reg) (i : Nat) (w : Word) (e₁ m₁ : Nat) : (p.setReg q i w).d2dMod e₁ m₁ = p.d2dMod e₁ m₁ := rfl
@[simp] theorem Pkg.setReg_pch (q : Reg) (i : Nat) (w : Word) (j₁ : Nat) : (p.setReg q i w).pch j₁ = p.pch j₁ := rfl
@[simp] theorem Pkg.setReg_lgroup (q : Reg) (i : Nat) (w : Word) (j₁ : Nat) : (p.setReg q i w).lgroup j₁ = p.lgroup j₁ := rfl

@[simp] theorem Pkg.setF_free (f : Fd) (i v : Nat) : (p.setF f i v).free = p.free := rfl
@[simp] theorem Pkg.setF_time (f : Fd) (i v : Nat) : (p.setF f i v).time = p.time := rfl
@[simp] theorem Pkg.setF_pins (f : Fd) (i v : Nat) : (p.setF f i v).pins = p.pins := rfl
@[simp] theorem Pkg.setF_fuse (f : Fd) (i v : Nat) : (p.setF f i v).fuse = p.fuse := rfl
@[simp] theorem Pkg.setF_vats (f : Fd) (i v : Nat) : (p.setF f i v).vats = p.vats := rfl
@[simp] theorem Pkg.setF_coreMap (f : Fd) (i v : Nat) : (p.setF f i v).coreMap = p.coreMap := rfl
@[simp] theorem Pkg.setF_cores (f : Fd) (i v : Nat) : (p.setF f i v).cores = p.cores := rfl
@[simp] theorem Pkg.setF_faultBy (f : Fd) (i v : Nat) : (p.setF f i v).faultBy = p.faultBy := rfl
@[simp] theorem Pkg.setF_ceBy (f : Fd) (i v : Nat) : (p.setF f i v).ceBy = p.ceBy := rfl
@[simp] theorem Pkg.setF_flaws (f : Fd) (i v : Nat) : (p.setF f i v).flaws = p.flaws := rfl
@[simp] theorem Pkg.setF_skew (f : Fd) (i v : Nat) : (p.setF f i v).skew = p.skew := rfl
@[simp] theorem Pkg.setF_crinds (f : Fd) (i v : Nat) : (p.setF f i v).crinds = p.crinds := rfl
@[simp] theorem Pkg.setF_pchs (f : Fd) (i v : Nat) : (p.setF f i v).pchs = p.pchs := rfl
@[simp] theorem Pkg.setF_holdLog (f : Fd) (i v : Nat) : (p.setF f i v).holdLog = p.holdLog := rfl
@[simp] theorem Pkg.setF_repairs (f : Fd) (i v : Nat) : (p.setF f i v).repairs = p.repairs := rfl
@[simp] theorem Pkg.setF_fifos (f : Fd) (i v : Nat) : (p.setF f i v).fifos = p.fifos := rfl
@[simp] theorem Pkg.setF_trace (f : Fd) (i v : Nat) : (p.setF f i v).trace = p.trace := rfl
@[simp] theorem Pkg.setF_sigs (f : Fd) (i v : Nat) : (p.setF f i v).sigs = p.sigs := rfl
@[simp] theorem Pkg.setF_sigNo (f : Fd) (i v : Nat) : (p.setF f i v).sigNo = p.sigNo := rfl
@[simp] theorem Pkg.setF_marks (f : Fd) (i v : Nat) : (p.setF f i v).marks = p.marks := rfl
@[simp] theorem Pkg.setF_groups (f : Fd) (i v : Nat) : (p.setF f i v).groups = p.groups := rfl
@[simp] theorem Pkg.setF_outs (f : Fd) (i v : Nat) : (p.setF f i v).outs = p.outs := rfl
@[simp] theorem Pkg.setF_reps (f : Fd) (i v : Nat) : (p.setF f i v).reps = p.reps := rfl
@[simp] theorem Pkg.setF_lossQ (f : Fd) (i v : Nat) : (p.setF f i v).lossQ = p.lossQ := rfl
@[simp] theorem Pkg.setF_dig (f : Fd) (i v : Nat) : (p.setF f i v).dig = p.dig := rfl
@[simp] theorem Pkg.setF_lastDig (f : Fd) (i v : Nat) : (p.setF f i v).lastDig = p.lastDig := rfl
@[simp] theorem Pkg.setF_swap (f : Fd) (i v : Nat) : (p.setF f i v).swap = p.swap := rfl
@[simp] theorem Pkg.setF_pressNo (f : Fd) (i v : Nat) : (p.setF f i v).pressNo = p.pressNo := rfl
@[simp] theorem Pkg.setF_tx (f : Fd) (i v : Nat) : (p.setF f i v).tx = p.tx := rfl
@[simp] theorem Pkg.setF_coll (f : Fd) (i v : Nat) : (p.setF f i v).coll = p.coll := rfl
@[simp] theorem Pkg.setF_net (f : Fd) (i v : Nat) : (p.setF f i v).net = p.net := rfl
@[simp] theorem Pkg.setF_orders (f : Fd) (i v : Nat) : (p.setF f i v).orders = p.orders := rfl
@[simp] theorem Pkg.setF_lead (f : Fd) (i v : Nat) : (p.setF f i v).lead = p.lead := rfl
@[simp] theorem Pkg.setF_d2d (f : Fd) (i v : Nat) : (p.setF f i v).d2d = p.d2d := rfl
@[simp] theorem Pkg.setF_edges (f : Fd) (i v : Nat) : (p.setF f i v).edges = p.edges := rfl
@[simp] theorem Pkg.setF_flash (f : Fd) (i v : Nat) : (p.setF f i v).flash = p.flash := rfl
@[simp] theorem Pkg.setF_boot (f : Fd) (i v : Nat) : (p.setF f i v).boot = p.boot := rfl
@[simp] theorem Pkg.setF_sec (f : Fd) (i v : Nat) : (p.setF f i v).sec = p.sec := rfl
@[simp] theorem Pkg.setF_pow (f : Fd) (i v : Nat) : (p.setF f i v).pow = p.pow := rfl
@[simp] theorem Pkg.setF_fw (f : Fd) (i v : Nat) : (p.setF f i v).fw = p.fw := rfl
@[simp] theorem Pkg.setF_fwWord (f : Fd) (i v : Nat) : (p.setF f i v).fwWord = p.fwWord := rfl
@[simp] theorem Pkg.setF_core (f : Fd) (i v : Nat) (j₁ : Nat) : (p.setF f i v).core j₁ = p.core j₁ := rfl
@[simp] theorem Pkg.setF_vat (f : Fd) (i v : Nat) (j₁ : Nat) : (p.setF f i v).vat j₁ = p.vat j₁ := rfl
@[simp] theorem Pkg.setF_hasVat (f : Fd) (i v : Nat) (j₁ : Nat) : (p.setF f i v).hasVat j₁ = p.hasVat j₁ := rfl
@[simp] theorem Pkg.setF_vatReady (f : Fd) (i v : Nat) (j₁ : Nat) : (p.setF f i v).vatReady j₁ = p.vatReady j₁ := rfl
@[simp] theorem Pkg.setF_alive (f : Fd) (i v : Nat)  : (p.setF f i v).alive = p.alive := rfl
@[simp] theorem Pkg.setF_isCore (f : Fd) (i v : Nat) (j₁ : Nat) : (p.setF f i v).isCore j₁ = p.isCore j₁ := rfl
@[simp] theorem Pkg.setF_isPhys (f : Fd) (i v : Nat) (j₁ : Nat) : (p.setF f i v).isPhys j₁ = p.isPhys j₁ := rfl
@[simp] theorem Pkg.setF_physOf (f : Fd) (i v : Nat) (j₁ : Nat) : (p.setF f i v).physOf j₁ = p.physOf j₁ := rfl
@[simp] theorem Pkg.setF_logicalOf (f : Fd) (i v : Nat) (j₁ : Nat) : (p.setF f i v).logicalOf j₁ = p.logicalOf j₁ := rfl
@[simp] theorem Pkg.setF_logCount (f : Fd) (i v : Nat)  : (p.setF f i v).logCount = p.logCount := rfl
@[simp] theorem Pkg.setF_fifo (f : Fd) (i v : Nat) (j₁ : Nat) : (p.setF f i v).fifo j₁ = p.fifo j₁ := rfl
@[simp] theorem Pkg.setF_place (f : Fd) (i v : Nat) (a₁ : Nat) : (p.setF f i v).place a₁ = p.place a₁ := rfl
@[simp] theorem Pkg.setF_collGrp (f : Fd) (i v : Nat) (j₁ : Nat) : (p.setF f i v).collGrp j₁ = p.collGrp j₁ := rfl
@[simp] theorem Pkg.setF_port (f : Fd) (i v : Nat) (j₁ : Nat) : (p.setF f i v).port j₁ = p.port j₁ := rfl
@[simp] theorem Pkg.setF_d2dMod (f : Fd) (i v : Nat) (e₁ m₁ : Nat) : (p.setF f i v).d2dMod e₁ m₁ = p.d2dMod e₁ m₁ := rfl
@[simp] theorem Pkg.setF_pch (f : Fd) (i v : Nat) (j₁ : Nat) : (p.setF f i v).pch j₁ = p.pch j₁ := rfl
@[simp] theorem Pkg.setF_lgroup (f : Fd) (i v : Nat) (j₁ : Nat) : (p.setF f i v).lgroup j₁ = p.lgroup j₁ := rfl

@[simp] theorem Pkg.addF_free (f : Fd) (i n : Nat) : (p.addF f i n).free = p.free := rfl
@[simp] theorem Pkg.addF_time (f : Fd) (i n : Nat) : (p.addF f i n).time = p.time := rfl
@[simp] theorem Pkg.addF_pins (f : Fd) (i n : Nat) : (p.addF f i n).pins = p.pins := rfl
@[simp] theorem Pkg.addF_fuse (f : Fd) (i n : Nat) : (p.addF f i n).fuse = p.fuse := rfl
@[simp] theorem Pkg.addF_vats (f : Fd) (i n : Nat) : (p.addF f i n).vats = p.vats := rfl
@[simp] theorem Pkg.addF_coreMap (f : Fd) (i n : Nat) : (p.addF f i n).coreMap = p.coreMap := rfl
@[simp] theorem Pkg.addF_cores (f : Fd) (i n : Nat) : (p.addF f i n).cores = p.cores := rfl
@[simp] theorem Pkg.addF_faultBy (f : Fd) (i n : Nat) : (p.addF f i n).faultBy = p.faultBy := rfl
@[simp] theorem Pkg.addF_ceBy (f : Fd) (i n : Nat) : (p.addF f i n).ceBy = p.ceBy := rfl
@[simp] theorem Pkg.addF_flaws (f : Fd) (i n : Nat) : (p.addF f i n).flaws = p.flaws := rfl
@[simp] theorem Pkg.addF_skew (f : Fd) (i n : Nat) : (p.addF f i n).skew = p.skew := rfl
@[simp] theorem Pkg.addF_crinds (f : Fd) (i n : Nat) : (p.addF f i n).crinds = p.crinds := rfl
@[simp] theorem Pkg.addF_pchs (f : Fd) (i n : Nat) : (p.addF f i n).pchs = p.pchs := rfl
@[simp] theorem Pkg.addF_holdLog (f : Fd) (i n : Nat) : (p.addF f i n).holdLog = p.holdLog := rfl
@[simp] theorem Pkg.addF_repairs (f : Fd) (i n : Nat) : (p.addF f i n).repairs = p.repairs := rfl
@[simp] theorem Pkg.addF_fifos (f : Fd) (i n : Nat) : (p.addF f i n).fifos = p.fifos := rfl
@[simp] theorem Pkg.addF_trace (f : Fd) (i n : Nat) : (p.addF f i n).trace = p.trace := rfl
@[simp] theorem Pkg.addF_sigs (f : Fd) (i n : Nat) : (p.addF f i n).sigs = p.sigs := rfl
@[simp] theorem Pkg.addF_sigNo (f : Fd) (i n : Nat) : (p.addF f i n).sigNo = p.sigNo := rfl
@[simp] theorem Pkg.addF_marks (f : Fd) (i n : Nat) : (p.addF f i n).marks = p.marks := rfl
@[simp] theorem Pkg.addF_groups (f : Fd) (i n : Nat) : (p.addF f i n).groups = p.groups := rfl
@[simp] theorem Pkg.addF_outs (f : Fd) (i n : Nat) : (p.addF f i n).outs = p.outs := rfl
@[simp] theorem Pkg.addF_reps (f : Fd) (i n : Nat) : (p.addF f i n).reps = p.reps := rfl
@[simp] theorem Pkg.addF_lossQ (f : Fd) (i n : Nat) : (p.addF f i n).lossQ = p.lossQ := rfl
@[simp] theorem Pkg.addF_dig (f : Fd) (i n : Nat) : (p.addF f i n).dig = p.dig := rfl
@[simp] theorem Pkg.addF_lastDig (f : Fd) (i n : Nat) : (p.addF f i n).lastDig = p.lastDig := rfl
@[simp] theorem Pkg.addF_swap (f : Fd) (i n : Nat) : (p.addF f i n).swap = p.swap := rfl
@[simp] theorem Pkg.addF_pressNo (f : Fd) (i n : Nat) : (p.addF f i n).pressNo = p.pressNo := rfl
@[simp] theorem Pkg.addF_tx (f : Fd) (i n : Nat) : (p.addF f i n).tx = p.tx := rfl
@[simp] theorem Pkg.addF_coll (f : Fd) (i n : Nat) : (p.addF f i n).coll = p.coll := rfl
@[simp] theorem Pkg.addF_net (f : Fd) (i n : Nat) : (p.addF f i n).net = p.net := rfl
@[simp] theorem Pkg.addF_orders (f : Fd) (i n : Nat) : (p.addF f i n).orders = p.orders := rfl
@[simp] theorem Pkg.addF_lead (f : Fd) (i n : Nat) : (p.addF f i n).lead = p.lead := rfl
@[simp] theorem Pkg.addF_d2d (f : Fd) (i n : Nat) : (p.addF f i n).d2d = p.d2d := rfl
@[simp] theorem Pkg.addF_edges (f : Fd) (i n : Nat) : (p.addF f i n).edges = p.edges := rfl
@[simp] theorem Pkg.addF_flash (f : Fd) (i n : Nat) : (p.addF f i n).flash = p.flash := rfl
@[simp] theorem Pkg.addF_boot (f : Fd) (i n : Nat) : (p.addF f i n).boot = p.boot := rfl
@[simp] theorem Pkg.addF_sec (f : Fd) (i n : Nat) : (p.addF f i n).sec = p.sec := rfl
@[simp] theorem Pkg.addF_pow (f : Fd) (i n : Nat) : (p.addF f i n).pow = p.pow := rfl
@[simp] theorem Pkg.addF_fw (f : Fd) (i n : Nat) : (p.addF f i n).fw = p.fw := rfl
@[simp] theorem Pkg.addF_fwWord (f : Fd) (i n : Nat) : (p.addF f i n).fwWord = p.fwWord := rfl
@[simp] theorem Pkg.addF_core (f : Fd) (i n : Nat) (j₁ : Nat) : (p.addF f i n).core j₁ = p.core j₁ := rfl
@[simp] theorem Pkg.addF_vat (f : Fd) (i n : Nat) (j₁ : Nat) : (p.addF f i n).vat j₁ = p.vat j₁ := rfl
@[simp] theorem Pkg.addF_hasVat (f : Fd) (i n : Nat) (j₁ : Nat) : (p.addF f i n).hasVat j₁ = p.hasVat j₁ := rfl
@[simp] theorem Pkg.addF_vatReady (f : Fd) (i n : Nat) (j₁ : Nat) : (p.addF f i n).vatReady j₁ = p.vatReady j₁ := rfl
@[simp] theorem Pkg.addF_alive (f : Fd) (i n : Nat)  : (p.addF f i n).alive = p.alive := rfl
@[simp] theorem Pkg.addF_isCore (f : Fd) (i n : Nat) (j₁ : Nat) : (p.addF f i n).isCore j₁ = p.isCore j₁ := rfl
@[simp] theorem Pkg.addF_isPhys (f : Fd) (i n : Nat) (j₁ : Nat) : (p.addF f i n).isPhys j₁ = p.isPhys j₁ := rfl
@[simp] theorem Pkg.addF_physOf (f : Fd) (i n : Nat) (j₁ : Nat) : (p.addF f i n).physOf j₁ = p.physOf j₁ := rfl
@[simp] theorem Pkg.addF_logicalOf (f : Fd) (i n : Nat) (j₁ : Nat) : (p.addF f i n).logicalOf j₁ = p.logicalOf j₁ := rfl
@[simp] theorem Pkg.addF_logCount (f : Fd) (i n : Nat)  : (p.addF f i n).logCount = p.logCount := rfl
@[simp] theorem Pkg.addF_fifo (f : Fd) (i n : Nat) (j₁ : Nat) : (p.addF f i n).fifo j₁ = p.fifo j₁ := rfl
@[simp] theorem Pkg.addF_place (f : Fd) (i n : Nat) (a₁ : Nat) : (p.addF f i n).place a₁ = p.place a₁ := rfl
@[simp] theorem Pkg.addF_collGrp (f : Fd) (i n : Nat) (j₁ : Nat) : (p.addF f i n).collGrp j₁ = p.collGrp j₁ := rfl
@[simp] theorem Pkg.addF_port (f : Fd) (i n : Nat) (j₁ : Nat) : (p.addF f i n).port j₁ = p.port j₁ := rfl
@[simp] theorem Pkg.addF_d2dMod (f : Fd) (i n : Nat) (e₁ m₁ : Nat) : (p.addF f i n).d2dMod e₁ m₁ = p.d2dMod e₁ m₁ := rfl
@[simp] theorem Pkg.addF_pch (f : Fd) (i n : Nat) (j₁ : Nat) : (p.addF f i n).pch j₁ = p.pch j₁ := rfl
@[simp] theorem Pkg.addF_lgroup (f : Fd) (i n : Nat) (j₁ : Nat) : (p.addF f i n).lgroup j₁ = p.lgroup j₁ := rfl

@[simp] theorem Pkg.setCore_free (k : Nat) (c : Core) : (p.setCore k c).free = p.free := rfl
@[simp] theorem Pkg.setCore_time (k : Nat) (c : Core) : (p.setCore k c).time = p.time := rfl
@[simp] theorem Pkg.setCore_pins (k : Nat) (c : Core) : (p.setCore k c).pins = p.pins := rfl
@[simp] theorem Pkg.setCore_fuse (k : Nat) (c : Core) : (p.setCore k c).fuse = p.fuse := rfl
@[simp] theorem Pkg.setCore_regs (k : Nat) (c : Core) : (p.setCore k c).regs = p.regs := rfl
@[simp] theorem Pkg.setCore_vats (k : Nat) (c : Core) : (p.setCore k c).vats = p.vats := rfl
@[simp] theorem Pkg.setCore_coreMap (k : Nat) (c : Core) : (p.setCore k c).coreMap = p.coreMap := rfl
@[simp] theorem Pkg.setCore_faultBy (k : Nat) (c : Core) : (p.setCore k c).faultBy = p.faultBy := rfl
@[simp] theorem Pkg.setCore_ceBy (k : Nat) (c : Core) : (p.setCore k c).ceBy = p.ceBy := rfl
@[simp] theorem Pkg.setCore_flaws (k : Nat) (c : Core) : (p.setCore k c).flaws = p.flaws := rfl
@[simp] theorem Pkg.setCore_skew (k : Nat) (c : Core) : (p.setCore k c).skew = p.skew := rfl
@[simp] theorem Pkg.setCore_crinds (k : Nat) (c : Core) : (p.setCore k c).crinds = p.crinds := rfl
@[simp] theorem Pkg.setCore_pchs (k : Nat) (c : Core) : (p.setCore k c).pchs = p.pchs := rfl
@[simp] theorem Pkg.setCore_holdLog (k : Nat) (c : Core) : (p.setCore k c).holdLog = p.holdLog := rfl
@[simp] theorem Pkg.setCore_repairs (k : Nat) (c : Core) : (p.setCore k c).repairs = p.repairs := rfl
@[simp] theorem Pkg.setCore_fifos (k : Nat) (c : Core) : (p.setCore k c).fifos = p.fifos := rfl
@[simp] theorem Pkg.setCore_trace (k : Nat) (c : Core) : (p.setCore k c).trace = p.trace := rfl
@[simp] theorem Pkg.setCore_sigs (k : Nat) (c : Core) : (p.setCore k c).sigs = p.sigs := rfl
@[simp] theorem Pkg.setCore_sigNo (k : Nat) (c : Core) : (p.setCore k c).sigNo = p.sigNo := rfl
@[simp] theorem Pkg.setCore_marks (k : Nat) (c : Core) : (p.setCore k c).marks = p.marks := rfl
@[simp] theorem Pkg.setCore_groups (k : Nat) (c : Core) : (p.setCore k c).groups = p.groups := rfl
@[simp] theorem Pkg.setCore_outs (k : Nat) (c : Core) : (p.setCore k c).outs = p.outs := rfl
@[simp] theorem Pkg.setCore_reps (k : Nat) (c : Core) : (p.setCore k c).reps = p.reps := rfl
@[simp] theorem Pkg.setCore_lossQ (k : Nat) (c : Core) : (p.setCore k c).lossQ = p.lossQ := rfl
@[simp] theorem Pkg.setCore_dig (k : Nat) (c : Core) : (p.setCore k c).dig = p.dig := rfl
@[simp] theorem Pkg.setCore_lastDig (k : Nat) (c : Core) : (p.setCore k c).lastDig = p.lastDig := rfl
@[simp] theorem Pkg.setCore_swap (k : Nat) (c : Core) : (p.setCore k c).swap = p.swap := rfl
@[simp] theorem Pkg.setCore_pressNo (k : Nat) (c : Core) : (p.setCore k c).pressNo = p.pressNo := rfl
@[simp] theorem Pkg.setCore_tx (k : Nat) (c : Core) : (p.setCore k c).tx = p.tx := rfl
@[simp] theorem Pkg.setCore_coll (k : Nat) (c : Core) : (p.setCore k c).coll = p.coll := rfl
@[simp] theorem Pkg.setCore_net (k : Nat) (c : Core) : (p.setCore k c).net = p.net := rfl
@[simp] theorem Pkg.setCore_orders (k : Nat) (c : Core) : (p.setCore k c).orders = p.orders := rfl
@[simp] theorem Pkg.setCore_lead (k : Nat) (c : Core) : (p.setCore k c).lead = p.lead := rfl
@[simp] theorem Pkg.setCore_d2d (k : Nat) (c : Core) : (p.setCore k c).d2d = p.d2d := rfl
@[simp] theorem Pkg.setCore_edges (k : Nat) (c : Core) : (p.setCore k c).edges = p.edges := rfl
@[simp] theorem Pkg.setCore_flash (k : Nat) (c : Core) : (p.setCore k c).flash = p.flash := rfl
@[simp] theorem Pkg.setCore_boot (k : Nat) (c : Core) : (p.setCore k c).boot = p.boot := rfl
@[simp] theorem Pkg.setCore_sec (k : Nat) (c : Core) : (p.setCore k c).sec = p.sec := rfl
@[simp] theorem Pkg.setCore_pow (k : Nat) (c : Core) : (p.setCore k c).pow = p.pow := rfl
@[simp] theorem Pkg.setCore_fw (k : Nat) (c : Core) : (p.setCore k c).fw = p.fw := rfl
@[simp] theorem Pkg.setCore_fwWord (k : Nat) (c : Core) : (p.setCore k c).fwWord = p.fwWord := rfl
@[simp] theorem Pkg.setCore_reg (k : Nat) (c : Core) (r₁ : Reg) (j₁ : Nat) : (p.setCore k c).reg r₁ j₁ = p.reg r₁ j₁ := rfl
@[simp] theorem Pkg.setCore_getF (k : Nat) (c : Core) (g₁ : Fd) (j₁ : Nat) : (p.setCore k c).getF g₁ j₁ = p.getF g₁ j₁ := rfl
@[simp] theorem Pkg.setCore_flag (k : Nat) (c : Core) (g₁ : Fd) (j₁ : Nat) : (p.setCore k c).flag g₁ j₁ = p.flag g₁ j₁ := rfl
@[simp] theorem Pkg.setCore_vat (k : Nat) (c : Core) (j₁ : Nat) : (p.setCore k c).vat j₁ = p.vat j₁ := rfl
@[simp] theorem Pkg.setCore_hasVat (k : Nat) (c : Core) (j₁ : Nat) : (p.setCore k c).hasVat j₁ = p.hasVat j₁ := rfl
@[simp] theorem Pkg.setCore_vatReady (k : Nat) (c : Core) (j₁ : Nat) : (p.setCore k c).vatReady j₁ = p.vatReady j₁ := rfl
@[simp] theorem Pkg.setCore_alive (k : Nat) (c : Core)  : (p.setCore k c).alive = p.alive := rfl
@[simp] theorem Pkg.setCore_isCore (k : Nat) (c : Core) (j₁ : Nat) : (p.setCore k c).isCore j₁ = p.isCore j₁ := rfl
@[simp] theorem Pkg.setCore_isPhys (k : Nat) (c : Core) (j₁ : Nat) : (p.setCore k c).isPhys j₁ = p.isPhys j₁ := rfl
@[simp] theorem Pkg.setCore_physOf (k : Nat) (c : Core) (j₁ : Nat) : (p.setCore k c).physOf j₁ = p.physOf j₁ := rfl
@[simp] theorem Pkg.setCore_logicalOf (k : Nat) (c : Core) (j₁ : Nat) : (p.setCore k c).logicalOf j₁ = p.logicalOf j₁ := rfl
@[simp] theorem Pkg.setCore_logCount (k : Nat) (c : Core)  : (p.setCore k c).logCount = p.logCount := rfl
@[simp] theorem Pkg.setCore_fifo (k : Nat) (c : Core) (j₁ : Nat) : (p.setCore k c).fifo j₁ = p.fifo j₁ := rfl
@[simp] theorem Pkg.setCore_pkgId (k : Nat) (c : Core)  : (p.setCore k c).pkgId = p.pkgId := rfl
@[simp] theorem Pkg.setCore_place (k : Nat) (c : Core) (a₁ : Nat) : (p.setCore k c).place a₁ = p.place a₁ := rfl
@[simp] theorem Pkg.setCore_badRange (k : Nat) (c : Core) (a₁ n₁ : Nat) : (p.setCore k c).badRange a₁ n₁ = p.badRange a₁ n₁ := rfl
@[simp] theorem Pkg.setCore_held (k : Nat) (c : Core) (j₁ : Nat) : (p.setCore k c).held j₁ = p.held j₁ := rfl
@[simp] theorem Pkg.setCore_inCave (k : Nat) (c : Core) (a₁ : Nat) : (p.setCore k c).inCave a₁ = p.inCave a₁ := rfl
@[simp] theorem Pkg.setCore_collGrp (k : Nat) (c : Core) (j₁ : Nat) : (p.setCore k c).collGrp j₁ = p.collGrp j₁ := rfl
@[simp] theorem Pkg.setCore_port (k : Nat) (c : Core) (j₁ : Nat) : (p.setCore k c).port j₁ = p.port j₁ := rfl
@[simp] theorem Pkg.setCore_d2dMod (k : Nat) (c : Core) (e₁ m₁ : Nat) : (p.setCore k c).d2dMod e₁ m₁ = p.d2dMod e₁ m₁ := rfl
@[simp] theorem Pkg.setCore_pch (k : Nat) (c : Core) (j₁ : Nat) : (p.setCore k c).pch j₁ = p.pch j₁ := rfl
@[simp] theorem Pkg.setCore_lgroup (k : Nat) (c : Core) (j₁ : Nat) : (p.setCore k c).lgroup j₁ = p.lgroup j₁ := rfl

@[simp] theorem Pkg.onCore_free (k : Nat) (f : Core → Core) : (p.onCore k f).free = p.free := rfl
@[simp] theorem Pkg.onCore_time (k : Nat) (f : Core → Core) : (p.onCore k f).time = p.time := rfl
@[simp] theorem Pkg.onCore_pins (k : Nat) (f : Core → Core) : (p.onCore k f).pins = p.pins := rfl
@[simp] theorem Pkg.onCore_fuse (k : Nat) (f : Core → Core) : (p.onCore k f).fuse = p.fuse := rfl
@[simp] theorem Pkg.onCore_regs (k : Nat) (f : Core → Core) : (p.onCore k f).regs = p.regs := rfl
@[simp] theorem Pkg.onCore_vats (k : Nat) (f : Core → Core) : (p.onCore k f).vats = p.vats := rfl
@[simp] theorem Pkg.onCore_coreMap (k : Nat) (f : Core → Core) : (p.onCore k f).coreMap = p.coreMap := rfl
@[simp] theorem Pkg.onCore_faultBy (k : Nat) (f : Core → Core) : (p.onCore k f).faultBy = p.faultBy := rfl
@[simp] theorem Pkg.onCore_ceBy (k : Nat) (f : Core → Core) : (p.onCore k f).ceBy = p.ceBy := rfl
@[simp] theorem Pkg.onCore_flaws (k : Nat) (f : Core → Core) : (p.onCore k f).flaws = p.flaws := rfl
@[simp] theorem Pkg.onCore_skew (k : Nat) (f : Core → Core) : (p.onCore k f).skew = p.skew := rfl
@[simp] theorem Pkg.onCore_crinds (k : Nat) (f : Core → Core) : (p.onCore k f).crinds = p.crinds := rfl
@[simp] theorem Pkg.onCore_pchs (k : Nat) (f : Core → Core) : (p.onCore k f).pchs = p.pchs := rfl
@[simp] theorem Pkg.onCore_holdLog (k : Nat) (f : Core → Core) : (p.onCore k f).holdLog = p.holdLog := rfl
@[simp] theorem Pkg.onCore_repairs (k : Nat) (f : Core → Core) : (p.onCore k f).repairs = p.repairs := rfl
@[simp] theorem Pkg.onCore_fifos (k : Nat) (f : Core → Core) : (p.onCore k f).fifos = p.fifos := rfl
@[simp] theorem Pkg.onCore_trace (k : Nat) (f : Core → Core) : (p.onCore k f).trace = p.trace := rfl
@[simp] theorem Pkg.onCore_sigs (k : Nat) (f : Core → Core) : (p.onCore k f).sigs = p.sigs := rfl
@[simp] theorem Pkg.onCore_sigNo (k : Nat) (f : Core → Core) : (p.onCore k f).sigNo = p.sigNo := rfl
@[simp] theorem Pkg.onCore_marks (k : Nat) (f : Core → Core) : (p.onCore k f).marks = p.marks := rfl
@[simp] theorem Pkg.onCore_groups (k : Nat) (f : Core → Core) : (p.onCore k f).groups = p.groups := rfl
@[simp] theorem Pkg.onCore_outs (k : Nat) (f : Core → Core) : (p.onCore k f).outs = p.outs := rfl
@[simp] theorem Pkg.onCore_reps (k : Nat) (f : Core → Core) : (p.onCore k f).reps = p.reps := rfl
@[simp] theorem Pkg.onCore_lossQ (k : Nat) (f : Core → Core) : (p.onCore k f).lossQ = p.lossQ := rfl
@[simp] theorem Pkg.onCore_dig (k : Nat) (f : Core → Core) : (p.onCore k f).dig = p.dig := rfl
@[simp] theorem Pkg.onCore_lastDig (k : Nat) (f : Core → Core) : (p.onCore k f).lastDig = p.lastDig := rfl
@[simp] theorem Pkg.onCore_swap (k : Nat) (f : Core → Core) : (p.onCore k f).swap = p.swap := rfl
@[simp] theorem Pkg.onCore_pressNo (k : Nat) (f : Core → Core) : (p.onCore k f).pressNo = p.pressNo := rfl
@[simp] theorem Pkg.onCore_tx (k : Nat) (f : Core → Core) : (p.onCore k f).tx = p.tx := rfl
@[simp] theorem Pkg.onCore_coll (k : Nat) (f : Core → Core) : (p.onCore k f).coll = p.coll := rfl
@[simp] theorem Pkg.onCore_net (k : Nat) (f : Core → Core) : (p.onCore k f).net = p.net := rfl
@[simp] theorem Pkg.onCore_orders (k : Nat) (f : Core → Core) : (p.onCore k f).orders = p.orders := rfl
@[simp] theorem Pkg.onCore_lead (k : Nat) (f : Core → Core) : (p.onCore k f).lead = p.lead := rfl
@[simp] theorem Pkg.onCore_d2d (k : Nat) (f : Core → Core) : (p.onCore k f).d2d = p.d2d := rfl
@[simp] theorem Pkg.onCore_edges (k : Nat) (f : Core → Core) : (p.onCore k f).edges = p.edges := rfl
@[simp] theorem Pkg.onCore_flash (k : Nat) (f : Core → Core) : (p.onCore k f).flash = p.flash := rfl
@[simp] theorem Pkg.onCore_boot (k : Nat) (f : Core → Core) : (p.onCore k f).boot = p.boot := rfl
@[simp] theorem Pkg.onCore_sec (k : Nat) (f : Core → Core) : (p.onCore k f).sec = p.sec := rfl
@[simp] theorem Pkg.onCore_pow (k : Nat) (f : Core → Core) : (p.onCore k f).pow = p.pow := rfl
@[simp] theorem Pkg.onCore_fw (k : Nat) (f : Core → Core) : (p.onCore k f).fw = p.fw := rfl
@[simp] theorem Pkg.onCore_fwWord (k : Nat) (f : Core → Core) : (p.onCore k f).fwWord = p.fwWord := rfl
@[simp] theorem Pkg.onCore_reg (k : Nat) (f : Core → Core) (r₁ : Reg) (j₁ : Nat) : (p.onCore k f).reg r₁ j₁ = p.reg r₁ j₁ := rfl
@[simp] theorem Pkg.onCore_getF (k : Nat) (f : Core → Core) (g₁ : Fd) (j₁ : Nat) : (p.onCore k f).getF g₁ j₁ = p.getF g₁ j₁ := rfl
@[simp] theorem Pkg.onCore_flag (k : Nat) (f : Core → Core) (g₁ : Fd) (j₁ : Nat) : (p.onCore k f).flag g₁ j₁ = p.flag g₁ j₁ := rfl
@[simp] theorem Pkg.onCore_vat (k : Nat) (f : Core → Core) (j₁ : Nat) : (p.onCore k f).vat j₁ = p.vat j₁ := rfl
@[simp] theorem Pkg.onCore_hasVat (k : Nat) (f : Core → Core) (j₁ : Nat) : (p.onCore k f).hasVat j₁ = p.hasVat j₁ := rfl
@[simp] theorem Pkg.onCore_vatReady (k : Nat) (f : Core → Core) (j₁ : Nat) : (p.onCore k f).vatReady j₁ = p.vatReady j₁ := rfl
@[simp] theorem Pkg.onCore_alive (k : Nat) (f : Core → Core)  : (p.onCore k f).alive = p.alive := rfl
@[simp] theorem Pkg.onCore_isCore (k : Nat) (f : Core → Core) (j₁ : Nat) : (p.onCore k f).isCore j₁ = p.isCore j₁ := rfl
@[simp] theorem Pkg.onCore_isPhys (k : Nat) (f : Core → Core) (j₁ : Nat) : (p.onCore k f).isPhys j₁ = p.isPhys j₁ := rfl
@[simp] theorem Pkg.onCore_physOf (k : Nat) (f : Core → Core) (j₁ : Nat) : (p.onCore k f).physOf j₁ = p.physOf j₁ := rfl
@[simp] theorem Pkg.onCore_logicalOf (k : Nat) (f : Core → Core) (j₁ : Nat) : (p.onCore k f).logicalOf j₁ = p.logicalOf j₁ := rfl
@[simp] theorem Pkg.onCore_logCount (k : Nat) (f : Core → Core)  : (p.onCore k f).logCount = p.logCount := rfl
@[simp] theorem Pkg.onCore_fifo (k : Nat) (f : Core → Core) (j₁ : Nat) : (p.onCore k f).fifo j₁ = p.fifo j₁ := rfl
@[simp] theorem Pkg.onCore_pkgId (k : Nat) (f : Core → Core)  : (p.onCore k f).pkgId = p.pkgId := rfl
@[simp] theorem Pkg.onCore_place (k : Nat) (f : Core → Core) (a₁ : Nat) : (p.onCore k f).place a₁ = p.place a₁ := rfl
@[simp] theorem Pkg.onCore_badRange (k : Nat) (f : Core → Core) (a₁ n₁ : Nat) : (p.onCore k f).badRange a₁ n₁ = p.badRange a₁ n₁ := rfl
@[simp] theorem Pkg.onCore_held (k : Nat) (f : Core → Core) (j₁ : Nat) : (p.onCore k f).held j₁ = p.held j₁ := rfl
@[simp] theorem Pkg.onCore_inCave (k : Nat) (f : Core → Core) (a₁ : Nat) : (p.onCore k f).inCave a₁ = p.inCave a₁ := rfl
@[simp] theorem Pkg.onCore_collGrp (k : Nat) (f : Core → Core) (j₁ : Nat) : (p.onCore k f).collGrp j₁ = p.collGrp j₁ := rfl
@[simp] theorem Pkg.onCore_port (k : Nat) (f : Core → Core) (j₁ : Nat) : (p.onCore k f).port j₁ = p.port j₁ := rfl
@[simp] theorem Pkg.onCore_d2dMod (k : Nat) (f : Core → Core) (e₁ m₁ : Nat) : (p.onCore k f).d2dMod e₁ m₁ = p.d2dMod e₁ m₁ := rfl
@[simp] theorem Pkg.onCore_pch (k : Nat) (f : Core → Core) (j₁ : Nat) : (p.onCore k f).pch j₁ = p.pch j₁ := rfl
@[simp] theorem Pkg.onCore_lgroup (k : Nat) (f : Core → Core) (j₁ : Nat) : (p.onCore k f).lgroup j₁ = p.lgroup j₁ := rfl

@[simp] theorem Pkg.setVat_free (v : Nat) (x : Vat) : (p.setVat v x).free = p.free := rfl
@[simp] theorem Pkg.setVat_time (v : Nat) (x : Vat) : (p.setVat v x).time = p.time := rfl
@[simp] theorem Pkg.setVat_pins (v : Nat) (x : Vat) : (p.setVat v x).pins = p.pins := rfl
@[simp] theorem Pkg.setVat_fuse (v : Nat) (x : Vat) : (p.setVat v x).fuse = p.fuse := rfl
@[simp] theorem Pkg.setVat_regs (v : Nat) (x : Vat) : (p.setVat v x).regs = p.regs := rfl
@[simp] theorem Pkg.setVat_coreMap (v : Nat) (x : Vat) : (p.setVat v x).coreMap = p.coreMap := rfl
@[simp] theorem Pkg.setVat_cores (v : Nat) (x : Vat) : (p.setVat v x).cores = p.cores := rfl
@[simp] theorem Pkg.setVat_faultBy (v : Nat) (x : Vat) : (p.setVat v x).faultBy = p.faultBy := rfl
@[simp] theorem Pkg.setVat_ceBy (v : Nat) (x : Vat) : (p.setVat v x).ceBy = p.ceBy := rfl
@[simp] theorem Pkg.setVat_flaws (v : Nat) (x : Vat) : (p.setVat v x).flaws = p.flaws := rfl
@[simp] theorem Pkg.setVat_skew (v : Nat) (x : Vat) : (p.setVat v x).skew = p.skew := rfl
@[simp] theorem Pkg.setVat_crinds (v : Nat) (x : Vat) : (p.setVat v x).crinds = p.crinds := rfl
@[simp] theorem Pkg.setVat_pchs (v : Nat) (x : Vat) : (p.setVat v x).pchs = p.pchs := rfl
@[simp] theorem Pkg.setVat_holdLog (v : Nat) (x : Vat) : (p.setVat v x).holdLog = p.holdLog := rfl
@[simp] theorem Pkg.setVat_repairs (v : Nat) (x : Vat) : (p.setVat v x).repairs = p.repairs := rfl
@[simp] theorem Pkg.setVat_fifos (v : Nat) (x : Vat) : (p.setVat v x).fifos = p.fifos := rfl
@[simp] theorem Pkg.setVat_trace (v : Nat) (x : Vat) : (p.setVat v x).trace = p.trace := rfl
@[simp] theorem Pkg.setVat_sigs (v : Nat) (x : Vat) : (p.setVat v x).sigs = p.sigs := rfl
@[simp] theorem Pkg.setVat_sigNo (v : Nat) (x : Vat) : (p.setVat v x).sigNo = p.sigNo := rfl
@[simp] theorem Pkg.setVat_marks (v : Nat) (x : Vat) : (p.setVat v x).marks = p.marks := rfl
@[simp] theorem Pkg.setVat_groups (v : Nat) (x : Vat) : (p.setVat v x).groups = p.groups := rfl
@[simp] theorem Pkg.setVat_outs (v : Nat) (x : Vat) : (p.setVat v x).outs = p.outs := rfl
@[simp] theorem Pkg.setVat_reps (v : Nat) (x : Vat) : (p.setVat v x).reps = p.reps := rfl
@[simp] theorem Pkg.setVat_lossQ (v : Nat) (x : Vat) : (p.setVat v x).lossQ = p.lossQ := rfl
@[simp] theorem Pkg.setVat_dig (v : Nat) (x : Vat) : (p.setVat v x).dig = p.dig := rfl
@[simp] theorem Pkg.setVat_lastDig (v : Nat) (x : Vat) : (p.setVat v x).lastDig = p.lastDig := rfl
@[simp] theorem Pkg.setVat_swap (v : Nat) (x : Vat) : (p.setVat v x).swap = p.swap := rfl
@[simp] theorem Pkg.setVat_pressNo (v : Nat) (x : Vat) : (p.setVat v x).pressNo = p.pressNo := rfl
@[simp] theorem Pkg.setVat_tx (v : Nat) (x : Vat) : (p.setVat v x).tx = p.tx := rfl
@[simp] theorem Pkg.setVat_coll (v : Nat) (x : Vat) : (p.setVat v x).coll = p.coll := rfl
@[simp] theorem Pkg.setVat_net (v : Nat) (x : Vat) : (p.setVat v x).net = p.net := rfl
@[simp] theorem Pkg.setVat_orders (v : Nat) (x : Vat) : (p.setVat v x).orders = p.orders := rfl
@[simp] theorem Pkg.setVat_lead (v : Nat) (x : Vat) : (p.setVat v x).lead = p.lead := rfl
@[simp] theorem Pkg.setVat_d2d (v : Nat) (x : Vat) : (p.setVat v x).d2d = p.d2d := rfl
@[simp] theorem Pkg.setVat_edges (v : Nat) (x : Vat) : (p.setVat v x).edges = p.edges := rfl
@[simp] theorem Pkg.setVat_flash (v : Nat) (x : Vat) : (p.setVat v x).flash = p.flash := rfl
@[simp] theorem Pkg.setVat_boot (v : Nat) (x : Vat) : (p.setVat v x).boot = p.boot := rfl
@[simp] theorem Pkg.setVat_sec (v : Nat) (x : Vat) : (p.setVat v x).sec = p.sec := rfl
@[simp] theorem Pkg.setVat_pow (v : Nat) (x : Vat) : (p.setVat v x).pow = p.pow := rfl
@[simp] theorem Pkg.setVat_fw (v : Nat) (x : Vat) : (p.setVat v x).fw = p.fw := rfl
@[simp] theorem Pkg.setVat_fwWord (v : Nat) (x : Vat) : (p.setVat v x).fwWord = p.fwWord := rfl
@[simp] theorem Pkg.setVat_reg (v : Nat) (x : Vat) (r₁ : Reg) (j₁ : Nat) : (p.setVat v x).reg r₁ j₁ = p.reg r₁ j₁ := rfl
@[simp] theorem Pkg.setVat_getF (v : Nat) (x : Vat) (g₁ : Fd) (j₁ : Nat) : (p.setVat v x).getF g₁ j₁ = p.getF g₁ j₁ := rfl
@[simp] theorem Pkg.setVat_flag (v : Nat) (x : Vat) (g₁ : Fd) (j₁ : Nat) : (p.setVat v x).flag g₁ j₁ = p.flag g₁ j₁ := rfl
@[simp] theorem Pkg.setVat_core (v : Nat) (x : Vat) (j₁ : Nat) : (p.setVat v x).core j₁ = p.core j₁ := rfl
@[simp] theorem Pkg.setVat_hasVat (v : Nat) (x : Vat) (j₁ : Nat) : (p.setVat v x).hasVat j₁ = p.hasVat j₁ := rfl
@[simp] theorem Pkg.setVat_alive (v : Nat) (x : Vat)  : (p.setVat v x).alive = p.alive := rfl
@[simp] theorem Pkg.setVat_isCore (v : Nat) (x : Vat) (j₁ : Nat) : (p.setVat v x).isCore j₁ = p.isCore j₁ := rfl
@[simp] theorem Pkg.setVat_isPhys (v : Nat) (x : Vat) (j₁ : Nat) : (p.setVat v x).isPhys j₁ = p.isPhys j₁ := rfl
@[simp] theorem Pkg.setVat_physOf (v : Nat) (x : Vat) (j₁ : Nat) : (p.setVat v x).physOf j₁ = p.physOf j₁ := rfl
@[simp] theorem Pkg.setVat_logicalOf (v : Nat) (x : Vat) (j₁ : Nat) : (p.setVat v x).logicalOf j₁ = p.logicalOf j₁ := rfl
@[simp] theorem Pkg.setVat_logCount (v : Nat) (x : Vat)  : (p.setVat v x).logCount = p.logCount := rfl
@[simp] theorem Pkg.setVat_fifo (v : Nat) (x : Vat) (j₁ : Nat) : (p.setVat v x).fifo j₁ = p.fifo j₁ := rfl
@[simp] theorem Pkg.setVat_pkgId (v : Nat) (x : Vat)  : (p.setVat v x).pkgId = p.pkgId := rfl
@[simp] theorem Pkg.setVat_place (v : Nat) (x : Vat) (a₁ : Nat) : (p.setVat v x).place a₁ = p.place a₁ := rfl
@[simp] theorem Pkg.setVat_badRange (v : Nat) (x : Vat) (a₁ n₁ : Nat) : (p.setVat v x).badRange a₁ n₁ = p.badRange a₁ n₁ := rfl
@[simp] theorem Pkg.setVat_held (v : Nat) (x : Vat) (j₁ : Nat) : (p.setVat v x).held j₁ = p.held j₁ := rfl
@[simp] theorem Pkg.setVat_inCave (v : Nat) (x : Vat) (a₁ : Nat) : (p.setVat v x).inCave a₁ = p.inCave a₁ := rfl
@[simp] theorem Pkg.setVat_collGrp (v : Nat) (x : Vat) (j₁ : Nat) : (p.setVat v x).collGrp j₁ = p.collGrp j₁ := rfl
@[simp] theorem Pkg.setVat_port (v : Nat) (x : Vat) (j₁ : Nat) : (p.setVat v x).port j₁ = p.port j₁ := rfl
@[simp] theorem Pkg.setVat_d2dMod (v : Nat) (x : Vat) (e₁ m₁ : Nat) : (p.setVat v x).d2dMod e₁ m₁ = p.d2dMod e₁ m₁ := rfl
@[simp] theorem Pkg.setVat_pch (v : Nat) (x : Vat) (j₁ : Nat) : (p.setVat v x).pch j₁ = p.pch j₁ := rfl
@[simp] theorem Pkg.setVat_lgroup (v : Nat) (x : Vat) (j₁ : Nat) : (p.setVat v x).lgroup j₁ = p.lgroup j₁ := rfl

@[simp] theorem Pkg.setColl_free (g : Nat) (x : CollGrp) : (p.setColl g x).free = p.free := rfl
@[simp] theorem Pkg.setColl_time (g : Nat) (x : CollGrp) : (p.setColl g x).time = p.time := rfl
@[simp] theorem Pkg.setColl_pins (g : Nat) (x : CollGrp) : (p.setColl g x).pins = p.pins := rfl
@[simp] theorem Pkg.setColl_fuse (g : Nat) (x : CollGrp) : (p.setColl g x).fuse = p.fuse := rfl
@[simp] theorem Pkg.setColl_regs (g : Nat) (x : CollGrp) : (p.setColl g x).regs = p.regs := rfl
@[simp] theorem Pkg.setColl_vats (g : Nat) (x : CollGrp) : (p.setColl g x).vats = p.vats := rfl
@[simp] theorem Pkg.setColl_coreMap (g : Nat) (x : CollGrp) : (p.setColl g x).coreMap = p.coreMap := rfl
@[simp] theorem Pkg.setColl_cores (g : Nat) (x : CollGrp) : (p.setColl g x).cores = p.cores := rfl
@[simp] theorem Pkg.setColl_faultBy (g : Nat) (x : CollGrp) : (p.setColl g x).faultBy = p.faultBy := rfl
@[simp] theorem Pkg.setColl_ceBy (g : Nat) (x : CollGrp) : (p.setColl g x).ceBy = p.ceBy := rfl
@[simp] theorem Pkg.setColl_flaws (g : Nat) (x : CollGrp) : (p.setColl g x).flaws = p.flaws := rfl
@[simp] theorem Pkg.setColl_skew (g : Nat) (x : CollGrp) : (p.setColl g x).skew = p.skew := rfl
@[simp] theorem Pkg.setColl_crinds (g : Nat) (x : CollGrp) : (p.setColl g x).crinds = p.crinds := rfl
@[simp] theorem Pkg.setColl_pchs (g : Nat) (x : CollGrp) : (p.setColl g x).pchs = p.pchs := rfl
@[simp] theorem Pkg.setColl_holdLog (g : Nat) (x : CollGrp) : (p.setColl g x).holdLog = p.holdLog := rfl
@[simp] theorem Pkg.setColl_repairs (g : Nat) (x : CollGrp) : (p.setColl g x).repairs = p.repairs := rfl
@[simp] theorem Pkg.setColl_fifos (g : Nat) (x : CollGrp) : (p.setColl g x).fifos = p.fifos := rfl
@[simp] theorem Pkg.setColl_trace (g : Nat) (x : CollGrp) : (p.setColl g x).trace = p.trace := rfl
@[simp] theorem Pkg.setColl_sigs (g : Nat) (x : CollGrp) : (p.setColl g x).sigs = p.sigs := rfl
@[simp] theorem Pkg.setColl_sigNo (g : Nat) (x : CollGrp) : (p.setColl g x).sigNo = p.sigNo := rfl
@[simp] theorem Pkg.setColl_marks (g : Nat) (x : CollGrp) : (p.setColl g x).marks = p.marks := rfl
@[simp] theorem Pkg.setColl_groups (g : Nat) (x : CollGrp) : (p.setColl g x).groups = p.groups := rfl
@[simp] theorem Pkg.setColl_outs (g : Nat) (x : CollGrp) : (p.setColl g x).outs = p.outs := rfl
@[simp] theorem Pkg.setColl_reps (g : Nat) (x : CollGrp) : (p.setColl g x).reps = p.reps := rfl
@[simp] theorem Pkg.setColl_lossQ (g : Nat) (x : CollGrp) : (p.setColl g x).lossQ = p.lossQ := rfl
@[simp] theorem Pkg.setColl_dig (g : Nat) (x : CollGrp) : (p.setColl g x).dig = p.dig := rfl
@[simp] theorem Pkg.setColl_lastDig (g : Nat) (x : CollGrp) : (p.setColl g x).lastDig = p.lastDig := rfl
@[simp] theorem Pkg.setColl_swap (g : Nat) (x : CollGrp) : (p.setColl g x).swap = p.swap := rfl
@[simp] theorem Pkg.setColl_pressNo (g : Nat) (x : CollGrp) : (p.setColl g x).pressNo = p.pressNo := rfl
@[simp] theorem Pkg.setColl_tx (g : Nat) (x : CollGrp) : (p.setColl g x).tx = p.tx := rfl
@[simp] theorem Pkg.setColl_net (g : Nat) (x : CollGrp) : (p.setColl g x).net = p.net := rfl
@[simp] theorem Pkg.setColl_orders (g : Nat) (x : CollGrp) : (p.setColl g x).orders = p.orders := rfl
@[simp] theorem Pkg.setColl_lead (g : Nat) (x : CollGrp) : (p.setColl g x).lead = p.lead := rfl
@[simp] theorem Pkg.setColl_d2d (g : Nat) (x : CollGrp) : (p.setColl g x).d2d = p.d2d := rfl
@[simp] theorem Pkg.setColl_edges (g : Nat) (x : CollGrp) : (p.setColl g x).edges = p.edges := rfl
@[simp] theorem Pkg.setColl_flash (g : Nat) (x : CollGrp) : (p.setColl g x).flash = p.flash := rfl
@[simp] theorem Pkg.setColl_boot (g : Nat) (x : CollGrp) : (p.setColl g x).boot = p.boot := rfl
@[simp] theorem Pkg.setColl_sec (g : Nat) (x : CollGrp) : (p.setColl g x).sec = p.sec := rfl
@[simp] theorem Pkg.setColl_pow (g : Nat) (x : CollGrp) : (p.setColl g x).pow = p.pow := rfl
@[simp] theorem Pkg.setColl_fw (g : Nat) (x : CollGrp) : (p.setColl g x).fw = p.fw := rfl
@[simp] theorem Pkg.setColl_fwWord (g : Nat) (x : CollGrp) : (p.setColl g x).fwWord = p.fwWord := rfl
@[simp] theorem Pkg.setColl_reg (g : Nat) (x : CollGrp) (r₁ : Reg) (j₁ : Nat) : (p.setColl g x).reg r₁ j₁ = p.reg r₁ j₁ := rfl
@[simp] theorem Pkg.setColl_getF (g : Nat) (x : CollGrp) (g₁ : Fd) (j₁ : Nat) : (p.setColl g x).getF g₁ j₁ = p.getF g₁ j₁ := rfl
@[simp] theorem Pkg.setColl_flag (g : Nat) (x : CollGrp) (g₁ : Fd) (j₁ : Nat) : (p.setColl g x).flag g₁ j₁ = p.flag g₁ j₁ := rfl
@[simp] theorem Pkg.setColl_core (g : Nat) (x : CollGrp) (j₁ : Nat) : (p.setColl g x).core j₁ = p.core j₁ := rfl
@[simp] theorem Pkg.setColl_vat (g : Nat) (x : CollGrp) (j₁ : Nat) : (p.setColl g x).vat j₁ = p.vat j₁ := rfl
@[simp] theorem Pkg.setColl_hasVat (g : Nat) (x : CollGrp) (j₁ : Nat) : (p.setColl g x).hasVat j₁ = p.hasVat j₁ := rfl
@[simp] theorem Pkg.setColl_vatReady (g : Nat) (x : CollGrp) (j₁ : Nat) : (p.setColl g x).vatReady j₁ = p.vatReady j₁ := rfl
@[simp] theorem Pkg.setColl_alive (g : Nat) (x : CollGrp)  : (p.setColl g x).alive = p.alive := rfl
@[simp] theorem Pkg.setColl_isCore (g : Nat) (x : CollGrp) (j₁ : Nat) : (p.setColl g x).isCore j₁ = p.isCore j₁ := rfl
@[simp] theorem Pkg.setColl_isPhys (g : Nat) (x : CollGrp) (j₁ : Nat) : (p.setColl g x).isPhys j₁ = p.isPhys j₁ := rfl
@[simp] theorem Pkg.setColl_physOf (g : Nat) (x : CollGrp) (j₁ : Nat) : (p.setColl g x).physOf j₁ = p.physOf j₁ := rfl
@[simp] theorem Pkg.setColl_logicalOf (g : Nat) (x : CollGrp) (j₁ : Nat) : (p.setColl g x).logicalOf j₁ = p.logicalOf j₁ := rfl
@[simp] theorem Pkg.setColl_logCount (g : Nat) (x : CollGrp)  : (p.setColl g x).logCount = p.logCount := rfl
@[simp] theorem Pkg.setColl_fifo (g : Nat) (x : CollGrp) (j₁ : Nat) : (p.setColl g x).fifo j₁ = p.fifo j₁ := rfl
@[simp] theorem Pkg.setColl_pkgId (g : Nat) (x : CollGrp)  : (p.setColl g x).pkgId = p.pkgId := rfl
@[simp] theorem Pkg.setColl_place (g : Nat) (x : CollGrp) (a₁ : Nat) : (p.setColl g x).place a₁ = p.place a₁ := rfl
@[simp] theorem Pkg.setColl_badRange (g : Nat) (x : CollGrp) (a₁ n₁ : Nat) : (p.setColl g x).badRange a₁ n₁ = p.badRange a₁ n₁ := rfl
@[simp] theorem Pkg.setColl_held (g : Nat) (x : CollGrp) (j₁ : Nat) : (p.setColl g x).held j₁ = p.held j₁ := rfl
@[simp] theorem Pkg.setColl_inCave (g : Nat) (x : CollGrp) (a₁ : Nat) : (p.setColl g x).inCave a₁ = p.inCave a₁ := rfl
@[simp] theorem Pkg.setColl_port (g : Nat) (x : CollGrp) (j₁ : Nat) : (p.setColl g x).port j₁ = p.port j₁ := rfl
@[simp] theorem Pkg.setColl_d2dMod (g : Nat) (x : CollGrp) (e₁ m₁ : Nat) : (p.setColl g x).d2dMod e₁ m₁ = p.d2dMod e₁ m₁ := rfl
@[simp] theorem Pkg.setColl_pch (g : Nat) (x : CollGrp) (j₁ : Nat) : (p.setColl g x).pch j₁ = p.pch j₁ := rfl
@[simp] theorem Pkg.setColl_lgroup (g : Nat) (x : CollGrp) (j₁ : Nat) : (p.setColl g x).lgroup j₁ = p.lgroup j₁ := rfl

@[simp] theorem Pkg.setPort_free (n : Nat) (x : Port) : (p.setPort n x).free = p.free := rfl
@[simp] theorem Pkg.setPort_time (n : Nat) (x : Port) : (p.setPort n x).time = p.time := rfl
@[simp] theorem Pkg.setPort_pins (n : Nat) (x : Port) : (p.setPort n x).pins = p.pins := rfl
@[simp] theorem Pkg.setPort_fuse (n : Nat) (x : Port) : (p.setPort n x).fuse = p.fuse := rfl
@[simp] theorem Pkg.setPort_regs (n : Nat) (x : Port) : (p.setPort n x).regs = p.regs := rfl
@[simp] theorem Pkg.setPort_vats (n : Nat) (x : Port) : (p.setPort n x).vats = p.vats := rfl
@[simp] theorem Pkg.setPort_coreMap (n : Nat) (x : Port) : (p.setPort n x).coreMap = p.coreMap := rfl
@[simp] theorem Pkg.setPort_cores (n : Nat) (x : Port) : (p.setPort n x).cores = p.cores := rfl
@[simp] theorem Pkg.setPort_faultBy (n : Nat) (x : Port) : (p.setPort n x).faultBy = p.faultBy := rfl
@[simp] theorem Pkg.setPort_ceBy (n : Nat) (x : Port) : (p.setPort n x).ceBy = p.ceBy := rfl
@[simp] theorem Pkg.setPort_flaws (n : Nat) (x : Port) : (p.setPort n x).flaws = p.flaws := rfl
@[simp] theorem Pkg.setPort_skew (n : Nat) (x : Port) : (p.setPort n x).skew = p.skew := rfl
@[simp] theorem Pkg.setPort_crinds (n : Nat) (x : Port) : (p.setPort n x).crinds = p.crinds := rfl
@[simp] theorem Pkg.setPort_pchs (n : Nat) (x : Port) : (p.setPort n x).pchs = p.pchs := rfl
@[simp] theorem Pkg.setPort_holdLog (n : Nat) (x : Port) : (p.setPort n x).holdLog = p.holdLog := rfl
@[simp] theorem Pkg.setPort_repairs (n : Nat) (x : Port) : (p.setPort n x).repairs = p.repairs := rfl
@[simp] theorem Pkg.setPort_fifos (n : Nat) (x : Port) : (p.setPort n x).fifos = p.fifos := rfl
@[simp] theorem Pkg.setPort_trace (n : Nat) (x : Port) : (p.setPort n x).trace = p.trace := rfl
@[simp] theorem Pkg.setPort_sigs (n : Nat) (x : Port) : (p.setPort n x).sigs = p.sigs := rfl
@[simp] theorem Pkg.setPort_sigNo (n : Nat) (x : Port) : (p.setPort n x).sigNo = p.sigNo := rfl
@[simp] theorem Pkg.setPort_marks (n : Nat) (x : Port) : (p.setPort n x).marks = p.marks := rfl
@[simp] theorem Pkg.setPort_groups (n : Nat) (x : Port) : (p.setPort n x).groups = p.groups := rfl
@[simp] theorem Pkg.setPort_outs (n : Nat) (x : Port) : (p.setPort n x).outs = p.outs := rfl
@[simp] theorem Pkg.setPort_reps (n : Nat) (x : Port) : (p.setPort n x).reps = p.reps := rfl
@[simp] theorem Pkg.setPort_lossQ (n : Nat) (x : Port) : (p.setPort n x).lossQ = p.lossQ := rfl
@[simp] theorem Pkg.setPort_dig (n : Nat) (x : Port) : (p.setPort n x).dig = p.dig := rfl
@[simp] theorem Pkg.setPort_lastDig (n : Nat) (x : Port) : (p.setPort n x).lastDig = p.lastDig := rfl
@[simp] theorem Pkg.setPort_swap (n : Nat) (x : Port) : (p.setPort n x).swap = p.swap := rfl
@[simp] theorem Pkg.setPort_pressNo (n : Nat) (x : Port) : (p.setPort n x).pressNo = p.pressNo := rfl
@[simp] theorem Pkg.setPort_tx (n : Nat) (x : Port) : (p.setPort n x).tx = p.tx := rfl
@[simp] theorem Pkg.setPort_coll (n : Nat) (x : Port) : (p.setPort n x).coll = p.coll := rfl
@[simp] theorem Pkg.setPort_orders (n : Nat) (x : Port) : (p.setPort n x).orders = p.orders := rfl
@[simp] theorem Pkg.setPort_lead (n : Nat) (x : Port) : (p.setPort n x).lead = p.lead := rfl
@[simp] theorem Pkg.setPort_d2d (n : Nat) (x : Port) : (p.setPort n x).d2d = p.d2d := rfl
@[simp] theorem Pkg.setPort_edges (n : Nat) (x : Port) : (p.setPort n x).edges = p.edges := rfl
@[simp] theorem Pkg.setPort_flash (n : Nat) (x : Port) : (p.setPort n x).flash = p.flash := rfl
@[simp] theorem Pkg.setPort_boot (n : Nat) (x : Port) : (p.setPort n x).boot = p.boot := rfl
@[simp] theorem Pkg.setPort_sec (n : Nat) (x : Port) : (p.setPort n x).sec = p.sec := rfl
@[simp] theorem Pkg.setPort_pow (n : Nat) (x : Port) : (p.setPort n x).pow = p.pow := rfl
@[simp] theorem Pkg.setPort_fw (n : Nat) (x : Port) : (p.setPort n x).fw = p.fw := rfl
@[simp] theorem Pkg.setPort_fwWord (n : Nat) (x : Port) : (p.setPort n x).fwWord = p.fwWord := rfl
@[simp] theorem Pkg.setPort_reg (n : Nat) (x : Port) (r₁ : Reg) (j₁ : Nat) : (p.setPort n x).reg r₁ j₁ = p.reg r₁ j₁ := rfl
@[simp] theorem Pkg.setPort_getF (n : Nat) (x : Port) (g₁ : Fd) (j₁ : Nat) : (p.setPort n x).getF g₁ j₁ = p.getF g₁ j₁ := rfl
@[simp] theorem Pkg.setPort_flag (n : Nat) (x : Port) (g₁ : Fd) (j₁ : Nat) : (p.setPort n x).flag g₁ j₁ = p.flag g₁ j₁ := rfl
@[simp] theorem Pkg.setPort_core (n : Nat) (x : Port) (j₁ : Nat) : (p.setPort n x).core j₁ = p.core j₁ := rfl
@[simp] theorem Pkg.setPort_vat (n : Nat) (x : Port) (j₁ : Nat) : (p.setPort n x).vat j₁ = p.vat j₁ := rfl
@[simp] theorem Pkg.setPort_hasVat (n : Nat) (x : Port) (j₁ : Nat) : (p.setPort n x).hasVat j₁ = p.hasVat j₁ := rfl
@[simp] theorem Pkg.setPort_vatReady (n : Nat) (x : Port) (j₁ : Nat) : (p.setPort n x).vatReady j₁ = p.vatReady j₁ := rfl
@[simp] theorem Pkg.setPort_alive (n : Nat) (x : Port)  : (p.setPort n x).alive = p.alive := rfl
@[simp] theorem Pkg.setPort_isCore (n : Nat) (x : Port) (j₁ : Nat) : (p.setPort n x).isCore j₁ = p.isCore j₁ := rfl
@[simp] theorem Pkg.setPort_isPhys (n : Nat) (x : Port) (j₁ : Nat) : (p.setPort n x).isPhys j₁ = p.isPhys j₁ := rfl
@[simp] theorem Pkg.setPort_physOf (n : Nat) (x : Port) (j₁ : Nat) : (p.setPort n x).physOf j₁ = p.physOf j₁ := rfl
@[simp] theorem Pkg.setPort_logicalOf (n : Nat) (x : Port) (j₁ : Nat) : (p.setPort n x).logicalOf j₁ = p.logicalOf j₁ := rfl
@[simp] theorem Pkg.setPort_logCount (n : Nat) (x : Port)  : (p.setPort n x).logCount = p.logCount := rfl
@[simp] theorem Pkg.setPort_fifo (n : Nat) (x : Port) (j₁ : Nat) : (p.setPort n x).fifo j₁ = p.fifo j₁ := rfl
@[simp] theorem Pkg.setPort_pkgId (n : Nat) (x : Port)  : (p.setPort n x).pkgId = p.pkgId := rfl
@[simp] theorem Pkg.setPort_place (n : Nat) (x : Port) (a₁ : Nat) : (p.setPort n x).place a₁ = p.place a₁ := rfl
@[simp] theorem Pkg.setPort_badRange (n : Nat) (x : Port) (a₁ n₁ : Nat) : (p.setPort n x).badRange a₁ n₁ = p.badRange a₁ n₁ := rfl
@[simp] theorem Pkg.setPort_held (n : Nat) (x : Port) (j₁ : Nat) : (p.setPort n x).held j₁ = p.held j₁ := rfl
@[simp] theorem Pkg.setPort_inCave (n : Nat) (x : Port) (a₁ : Nat) : (p.setPort n x).inCave a₁ = p.inCave a₁ := rfl
@[simp] theorem Pkg.setPort_collGrp (n : Nat) (x : Port) (j₁ : Nat) : (p.setPort n x).collGrp j₁ = p.collGrp j₁ := rfl
@[simp] theorem Pkg.setPort_d2dMod (n : Nat) (x : Port) (e₁ m₁ : Nat) : (p.setPort n x).d2dMod e₁ m₁ = p.d2dMod e₁ m₁ := rfl
@[simp] theorem Pkg.setPort_pch (n : Nat) (x : Port) (j₁ : Nat) : (p.setPort n x).pch j₁ = p.pch j₁ := rfl
@[simp] theorem Pkg.setPort_lgroup (n : Nat) (x : Port) (j₁ : Nat) : (p.setPort n x).lgroup j₁ = p.lgroup j₁ := rfl

@[simp] theorem Pkg.setMod_free (e m : Nat) (x : D2dMod) : (p.setMod e m x).free = p.free := rfl
@[simp] theorem Pkg.setMod_time (e m : Nat) (x : D2dMod) : (p.setMod e m x).time = p.time := rfl
@[simp] theorem Pkg.setMod_pins (e m : Nat) (x : D2dMod) : (p.setMod e m x).pins = p.pins := rfl
@[simp] theorem Pkg.setMod_fuse (e m : Nat) (x : D2dMod) : (p.setMod e m x).fuse = p.fuse := rfl
@[simp] theorem Pkg.setMod_regs (e m : Nat) (x : D2dMod) : (p.setMod e m x).regs = p.regs := rfl
@[simp] theorem Pkg.setMod_vats (e m : Nat) (x : D2dMod) : (p.setMod e m x).vats = p.vats := rfl
@[simp] theorem Pkg.setMod_coreMap (e m : Nat) (x : D2dMod) : (p.setMod e m x).coreMap = p.coreMap := rfl
@[simp] theorem Pkg.setMod_cores (e m : Nat) (x : D2dMod) : (p.setMod e m x).cores = p.cores := rfl
@[simp] theorem Pkg.setMod_faultBy (e m : Nat) (x : D2dMod) : (p.setMod e m x).faultBy = p.faultBy := rfl
@[simp] theorem Pkg.setMod_ceBy (e m : Nat) (x : D2dMod) : (p.setMod e m x).ceBy = p.ceBy := rfl
@[simp] theorem Pkg.setMod_flaws (e m : Nat) (x : D2dMod) : (p.setMod e m x).flaws = p.flaws := rfl
@[simp] theorem Pkg.setMod_skew (e m : Nat) (x : D2dMod) : (p.setMod e m x).skew = p.skew := rfl
@[simp] theorem Pkg.setMod_crinds (e m : Nat) (x : D2dMod) : (p.setMod e m x).crinds = p.crinds := rfl
@[simp] theorem Pkg.setMod_pchs (e m : Nat) (x : D2dMod) : (p.setMod e m x).pchs = p.pchs := rfl
@[simp] theorem Pkg.setMod_holdLog (e m : Nat) (x : D2dMod) : (p.setMod e m x).holdLog = p.holdLog := rfl
@[simp] theorem Pkg.setMod_repairs (e m : Nat) (x : D2dMod) : (p.setMod e m x).repairs = p.repairs := rfl
@[simp] theorem Pkg.setMod_fifos (e m : Nat) (x : D2dMod) : (p.setMod e m x).fifos = p.fifos := rfl
@[simp] theorem Pkg.setMod_trace (e m : Nat) (x : D2dMod) : (p.setMod e m x).trace = p.trace := rfl
@[simp] theorem Pkg.setMod_sigs (e m : Nat) (x : D2dMod) : (p.setMod e m x).sigs = p.sigs := rfl
@[simp] theorem Pkg.setMod_sigNo (e m : Nat) (x : D2dMod) : (p.setMod e m x).sigNo = p.sigNo := rfl
@[simp] theorem Pkg.setMod_marks (e m : Nat) (x : D2dMod) : (p.setMod e m x).marks = p.marks := rfl
@[simp] theorem Pkg.setMod_groups (e m : Nat) (x : D2dMod) : (p.setMod e m x).groups = p.groups := rfl
@[simp] theorem Pkg.setMod_outs (e m : Nat) (x : D2dMod) : (p.setMod e m x).outs = p.outs := rfl
@[simp] theorem Pkg.setMod_reps (e m : Nat) (x : D2dMod) : (p.setMod e m x).reps = p.reps := rfl
@[simp] theorem Pkg.setMod_lossQ (e m : Nat) (x : D2dMod) : (p.setMod e m x).lossQ = p.lossQ := rfl
@[simp] theorem Pkg.setMod_dig (e m : Nat) (x : D2dMod) : (p.setMod e m x).dig = p.dig := rfl
@[simp] theorem Pkg.setMod_lastDig (e m : Nat) (x : D2dMod) : (p.setMod e m x).lastDig = p.lastDig := rfl
@[simp] theorem Pkg.setMod_swap (e m : Nat) (x : D2dMod) : (p.setMod e m x).swap = p.swap := rfl
@[simp] theorem Pkg.setMod_pressNo (e m : Nat) (x : D2dMod) : (p.setMod e m x).pressNo = p.pressNo := rfl
@[simp] theorem Pkg.setMod_tx (e m : Nat) (x : D2dMod) : (p.setMod e m x).tx = p.tx := rfl
@[simp] theorem Pkg.setMod_coll (e m : Nat) (x : D2dMod) : (p.setMod e m x).coll = p.coll := rfl
@[simp] theorem Pkg.setMod_net (e m : Nat) (x : D2dMod) : (p.setMod e m x).net = p.net := rfl
@[simp] theorem Pkg.setMod_orders (e m : Nat) (x : D2dMod) : (p.setMod e m x).orders = p.orders := rfl
@[simp] theorem Pkg.setMod_lead (e m : Nat) (x : D2dMod) : (p.setMod e m x).lead = p.lead := rfl
@[simp] theorem Pkg.setMod_edges (e m : Nat) (x : D2dMod) : (p.setMod e m x).edges = p.edges := rfl
@[simp] theorem Pkg.setMod_flash (e m : Nat) (x : D2dMod) : (p.setMod e m x).flash = p.flash := rfl
@[simp] theorem Pkg.setMod_boot (e m : Nat) (x : D2dMod) : (p.setMod e m x).boot = p.boot := rfl
@[simp] theorem Pkg.setMod_sec (e m : Nat) (x : D2dMod) : (p.setMod e m x).sec = p.sec := rfl
@[simp] theorem Pkg.setMod_pow (e m : Nat) (x : D2dMod) : (p.setMod e m x).pow = p.pow := rfl
@[simp] theorem Pkg.setMod_fw (e m : Nat) (x : D2dMod) : (p.setMod e m x).fw = p.fw := rfl
@[simp] theorem Pkg.setMod_fwWord (e m : Nat) (x : D2dMod) : (p.setMod e m x).fwWord = p.fwWord := rfl
@[simp] theorem Pkg.setMod_reg (e m : Nat) (x : D2dMod) (r₁ : Reg) (j₁ : Nat) : (p.setMod e m x).reg r₁ j₁ = p.reg r₁ j₁ := rfl
@[simp] theorem Pkg.setMod_getF (e m : Nat) (x : D2dMod) (g₁ : Fd) (j₁ : Nat) : (p.setMod e m x).getF g₁ j₁ = p.getF g₁ j₁ := rfl
@[simp] theorem Pkg.setMod_flag (e m : Nat) (x : D2dMod) (g₁ : Fd) (j₁ : Nat) : (p.setMod e m x).flag g₁ j₁ = p.flag g₁ j₁ := rfl
@[simp] theorem Pkg.setMod_core (e m : Nat) (x : D2dMod) (j₁ : Nat) : (p.setMod e m x).core j₁ = p.core j₁ := rfl
@[simp] theorem Pkg.setMod_vat (e m : Nat) (x : D2dMod) (j₁ : Nat) : (p.setMod e m x).vat j₁ = p.vat j₁ := rfl
@[simp] theorem Pkg.setMod_hasVat (e m : Nat) (x : D2dMod) (j₁ : Nat) : (p.setMod e m x).hasVat j₁ = p.hasVat j₁ := rfl
@[simp] theorem Pkg.setMod_vatReady (e m : Nat) (x : D2dMod) (j₁ : Nat) : (p.setMod e m x).vatReady j₁ = p.vatReady j₁ := rfl
@[simp] theorem Pkg.setMod_alive (e m : Nat) (x : D2dMod)  : (p.setMod e m x).alive = p.alive := rfl
@[simp] theorem Pkg.setMod_isCore (e m : Nat) (x : D2dMod) (j₁ : Nat) : (p.setMod e m x).isCore j₁ = p.isCore j₁ := rfl
@[simp] theorem Pkg.setMod_isPhys (e m : Nat) (x : D2dMod) (j₁ : Nat) : (p.setMod e m x).isPhys j₁ = p.isPhys j₁ := rfl
@[simp] theorem Pkg.setMod_physOf (e m : Nat) (x : D2dMod) (j₁ : Nat) : (p.setMod e m x).physOf j₁ = p.physOf j₁ := rfl
@[simp] theorem Pkg.setMod_logicalOf (e m : Nat) (x : D2dMod) (j₁ : Nat) : (p.setMod e m x).logicalOf j₁ = p.logicalOf j₁ := rfl
@[simp] theorem Pkg.setMod_logCount (e m : Nat) (x : D2dMod)  : (p.setMod e m x).logCount = p.logCount := rfl
@[simp] theorem Pkg.setMod_fifo (e m : Nat) (x : D2dMod) (j₁ : Nat) : (p.setMod e m x).fifo j₁ = p.fifo j₁ := rfl
@[simp] theorem Pkg.setMod_pkgId (e m : Nat) (x : D2dMod)  : (p.setMod e m x).pkgId = p.pkgId := rfl
@[simp] theorem Pkg.setMod_place (e m : Nat) (x : D2dMod) (a₁ : Nat) : (p.setMod e m x).place a₁ = p.place a₁ := rfl
@[simp] theorem Pkg.setMod_badRange (e m : Nat) (x : D2dMod) (a₁ n₁ : Nat) : (p.setMod e m x).badRange a₁ n₁ = p.badRange a₁ n₁ := rfl
@[simp] theorem Pkg.setMod_held (e m : Nat) (x : D2dMod) (j₁ : Nat) : (p.setMod e m x).held j₁ = p.held j₁ := rfl
@[simp] theorem Pkg.setMod_inCave (e m : Nat) (x : D2dMod) (a₁ : Nat) : (p.setMod e m x).inCave a₁ = p.inCave a₁ := rfl
@[simp] theorem Pkg.setMod_collGrp (e m : Nat) (x : D2dMod) (j₁ : Nat) : (p.setMod e m x).collGrp j₁ = p.collGrp j₁ := rfl
@[simp] theorem Pkg.setMod_port (e m : Nat) (x : D2dMod) (j₁ : Nat) : (p.setMod e m x).port j₁ = p.port j₁ := rfl
@[simp] theorem Pkg.setMod_pch (e m : Nat) (x : D2dMod) (j₁ : Nat) : (p.setMod e m x).pch j₁ = p.pch j₁ := rfl
@[simp] theorem Pkg.setMod_lgroup (e m : Nat) (x : D2dMod) (j₁ : Nat) : (p.setMod e m x).lgroup j₁ = p.lgroup j₁ := rfl

@[simp] theorem Pkg.setPch_free (c : Nat) (x : Pch) : (p.setPch c x).free = p.free := rfl
@[simp] theorem Pkg.setPch_time (c : Nat) (x : Pch) : (p.setPch c x).time = p.time := rfl
@[simp] theorem Pkg.setPch_pins (c : Nat) (x : Pch) : (p.setPch c x).pins = p.pins := rfl
@[simp] theorem Pkg.setPch_fuse (c : Nat) (x : Pch) : (p.setPch c x).fuse = p.fuse := rfl
@[simp] theorem Pkg.setPch_regs (c : Nat) (x : Pch) : (p.setPch c x).regs = p.regs := rfl
@[simp] theorem Pkg.setPch_vats (c : Nat) (x : Pch) : (p.setPch c x).vats = p.vats := rfl
@[simp] theorem Pkg.setPch_coreMap (c : Nat) (x : Pch) : (p.setPch c x).coreMap = p.coreMap := rfl
@[simp] theorem Pkg.setPch_cores (c : Nat) (x : Pch) : (p.setPch c x).cores = p.cores := rfl
@[simp] theorem Pkg.setPch_faultBy (c : Nat) (x : Pch) : (p.setPch c x).faultBy = p.faultBy := rfl
@[simp] theorem Pkg.setPch_ceBy (c : Nat) (x : Pch) : (p.setPch c x).ceBy = p.ceBy := rfl
@[simp] theorem Pkg.setPch_flaws (c : Nat) (x : Pch) : (p.setPch c x).flaws = p.flaws := rfl
@[simp] theorem Pkg.setPch_skew (c : Nat) (x : Pch) : (p.setPch c x).skew = p.skew := rfl
@[simp] theorem Pkg.setPch_crinds (c : Nat) (x : Pch) : (p.setPch c x).crinds = p.crinds := rfl
@[simp] theorem Pkg.setPch_holdLog (c : Nat) (x : Pch) : (p.setPch c x).holdLog = p.holdLog := rfl
@[simp] theorem Pkg.setPch_repairs (c : Nat) (x : Pch) : (p.setPch c x).repairs = p.repairs := rfl
@[simp] theorem Pkg.setPch_fifos (c : Nat) (x : Pch) : (p.setPch c x).fifos = p.fifos := rfl
@[simp] theorem Pkg.setPch_trace (c : Nat) (x : Pch) : (p.setPch c x).trace = p.trace := rfl
@[simp] theorem Pkg.setPch_sigs (c : Nat) (x : Pch) : (p.setPch c x).sigs = p.sigs := rfl
@[simp] theorem Pkg.setPch_sigNo (c : Nat) (x : Pch) : (p.setPch c x).sigNo = p.sigNo := rfl
@[simp] theorem Pkg.setPch_marks (c : Nat) (x : Pch) : (p.setPch c x).marks = p.marks := rfl
@[simp] theorem Pkg.setPch_groups (c : Nat) (x : Pch) : (p.setPch c x).groups = p.groups := rfl
@[simp] theorem Pkg.setPch_outs (c : Nat) (x : Pch) : (p.setPch c x).outs = p.outs := rfl
@[simp] theorem Pkg.setPch_reps (c : Nat) (x : Pch) : (p.setPch c x).reps = p.reps := rfl
@[simp] theorem Pkg.setPch_lossQ (c : Nat) (x : Pch) : (p.setPch c x).lossQ = p.lossQ := rfl
@[simp] theorem Pkg.setPch_dig (c : Nat) (x : Pch) : (p.setPch c x).dig = p.dig := rfl
@[simp] theorem Pkg.setPch_lastDig (c : Nat) (x : Pch) : (p.setPch c x).lastDig = p.lastDig := rfl
@[simp] theorem Pkg.setPch_swap (c : Nat) (x : Pch) : (p.setPch c x).swap = p.swap := rfl
@[simp] theorem Pkg.setPch_pressNo (c : Nat) (x : Pch) : (p.setPch c x).pressNo = p.pressNo := rfl
@[simp] theorem Pkg.setPch_tx (c : Nat) (x : Pch) : (p.setPch c x).tx = p.tx := rfl
@[simp] theorem Pkg.setPch_coll (c : Nat) (x : Pch) : (p.setPch c x).coll = p.coll := rfl
@[simp] theorem Pkg.setPch_net (c : Nat) (x : Pch) : (p.setPch c x).net = p.net := rfl
@[simp] theorem Pkg.setPch_orders (c : Nat) (x : Pch) : (p.setPch c x).orders = p.orders := rfl
@[simp] theorem Pkg.setPch_lead (c : Nat) (x : Pch) : (p.setPch c x).lead = p.lead := rfl
@[simp] theorem Pkg.setPch_d2d (c : Nat) (x : Pch) : (p.setPch c x).d2d = p.d2d := rfl
@[simp] theorem Pkg.setPch_edges (c : Nat) (x : Pch) : (p.setPch c x).edges = p.edges := rfl
@[simp] theorem Pkg.setPch_flash (c : Nat) (x : Pch) : (p.setPch c x).flash = p.flash := rfl
@[simp] theorem Pkg.setPch_boot (c : Nat) (x : Pch) : (p.setPch c x).boot = p.boot := rfl
@[simp] theorem Pkg.setPch_sec (c : Nat) (x : Pch) : (p.setPch c x).sec = p.sec := rfl
@[simp] theorem Pkg.setPch_pow (c : Nat) (x : Pch) : (p.setPch c x).pow = p.pow := rfl
@[simp] theorem Pkg.setPch_fw (c : Nat) (x : Pch) : (p.setPch c x).fw = p.fw := rfl
@[simp] theorem Pkg.setPch_fwWord (c : Nat) (x : Pch) : (p.setPch c x).fwWord = p.fwWord := rfl
@[simp] theorem Pkg.setPch_reg (c : Nat) (x : Pch) (r₁ : Reg) (j₁ : Nat) : (p.setPch c x).reg r₁ j₁ = p.reg r₁ j₁ := rfl
@[simp] theorem Pkg.setPch_getF (c : Nat) (x : Pch) (g₁ : Fd) (j₁ : Nat) : (p.setPch c x).getF g₁ j₁ = p.getF g₁ j₁ := rfl
@[simp] theorem Pkg.setPch_flag (c : Nat) (x : Pch) (g₁ : Fd) (j₁ : Nat) : (p.setPch c x).flag g₁ j₁ = p.flag g₁ j₁ := rfl
@[simp] theorem Pkg.setPch_core (c : Nat) (x : Pch) (j₁ : Nat) : (p.setPch c x).core j₁ = p.core j₁ := rfl
@[simp] theorem Pkg.setPch_vat (c : Nat) (x : Pch) (j₁ : Nat) : (p.setPch c x).vat j₁ = p.vat j₁ := rfl
@[simp] theorem Pkg.setPch_hasVat (c : Nat) (x : Pch) (j₁ : Nat) : (p.setPch c x).hasVat j₁ = p.hasVat j₁ := rfl
@[simp] theorem Pkg.setPch_vatReady (c : Nat) (x : Pch) (j₁ : Nat) : (p.setPch c x).vatReady j₁ = p.vatReady j₁ := rfl
@[simp] theorem Pkg.setPch_alive (c : Nat) (x : Pch)  : (p.setPch c x).alive = p.alive := rfl
@[simp] theorem Pkg.setPch_isCore (c : Nat) (x : Pch) (j₁ : Nat) : (p.setPch c x).isCore j₁ = p.isCore j₁ := rfl
@[simp] theorem Pkg.setPch_isPhys (c : Nat) (x : Pch) (j₁ : Nat) : (p.setPch c x).isPhys j₁ = p.isPhys j₁ := rfl
@[simp] theorem Pkg.setPch_physOf (c : Nat) (x : Pch) (j₁ : Nat) : (p.setPch c x).physOf j₁ = p.physOf j₁ := rfl
@[simp] theorem Pkg.setPch_logicalOf (c : Nat) (x : Pch) (j₁ : Nat) : (p.setPch c x).logicalOf j₁ = p.logicalOf j₁ := rfl
@[simp] theorem Pkg.setPch_logCount (c : Nat) (x : Pch)  : (p.setPch c x).logCount = p.logCount := rfl
@[simp] theorem Pkg.setPch_fifo (c : Nat) (x : Pch) (j₁ : Nat) : (p.setPch c x).fifo j₁ = p.fifo j₁ := rfl
@[simp] theorem Pkg.setPch_pkgId (c : Nat) (x : Pch)  : (p.setPch c x).pkgId = p.pkgId := rfl
@[simp] theorem Pkg.setPch_place (c : Nat) (x : Pch) (a₁ : Nat) : (p.setPch c x).place a₁ = p.place a₁ := rfl
@[simp] theorem Pkg.setPch_badRange (c : Nat) (x : Pch) (a₁ n₁ : Nat) : (p.setPch c x).badRange a₁ n₁ = p.badRange a₁ n₁ := rfl
@[simp] theorem Pkg.setPch_held (c : Nat) (x : Pch) (j₁ : Nat) : (p.setPch c x).held j₁ = p.held j₁ := rfl
@[simp] theorem Pkg.setPch_inCave (c : Nat) (x : Pch) (a₁ : Nat) : (p.setPch c x).inCave a₁ = p.inCave a₁ := rfl
@[simp] theorem Pkg.setPch_collGrp (c : Nat) (x : Pch) (j₁ : Nat) : (p.setPch c x).collGrp j₁ = p.collGrp j₁ := rfl
@[simp] theorem Pkg.setPch_port (c : Nat) (x : Pch) (j₁ : Nat) : (p.setPch c x).port j₁ = p.port j₁ := rfl
@[simp] theorem Pkg.setPch_d2dMod (c : Nat) (x : Pch) (e₁ m₁ : Nat) : (p.setPch c x).d2dMod e₁ m₁ = p.d2dMod e₁ m₁ := rfl
@[simp] theorem Pkg.setPch_lgroup (c : Nat) (x : Pch) (j₁ : Nat) : (p.setPch c x).lgroup j₁ = p.lgroup j₁ := rfl

@[simp] theorem Pkg.setLgroup_free (g : Nat) (x : LGroup) : (p.setLgroup g x).free = p.free := rfl
@[simp] theorem Pkg.setLgroup_time (g : Nat) (x : LGroup) : (p.setLgroup g x).time = p.time := rfl
@[simp] theorem Pkg.setLgroup_pins (g : Nat) (x : LGroup) : (p.setLgroup g x).pins = p.pins := rfl
@[simp] theorem Pkg.setLgroup_fuse (g : Nat) (x : LGroup) : (p.setLgroup g x).fuse = p.fuse := rfl
@[simp] theorem Pkg.setLgroup_regs (g : Nat) (x : LGroup) : (p.setLgroup g x).regs = p.regs := rfl
@[simp] theorem Pkg.setLgroup_vats (g : Nat) (x : LGroup) : (p.setLgroup g x).vats = p.vats := rfl
@[simp] theorem Pkg.setLgroup_coreMap (g : Nat) (x : LGroup) : (p.setLgroup g x).coreMap = p.coreMap := rfl
@[simp] theorem Pkg.setLgroup_cores (g : Nat) (x : LGroup) : (p.setLgroup g x).cores = p.cores := rfl
@[simp] theorem Pkg.setLgroup_faultBy (g : Nat) (x : LGroup) : (p.setLgroup g x).faultBy = p.faultBy := rfl
@[simp] theorem Pkg.setLgroup_ceBy (g : Nat) (x : LGroup) : (p.setLgroup g x).ceBy = p.ceBy := rfl
@[simp] theorem Pkg.setLgroup_flaws (g : Nat) (x : LGroup) : (p.setLgroup g x).flaws = p.flaws := rfl
@[simp] theorem Pkg.setLgroup_skew (g : Nat) (x : LGroup) : (p.setLgroup g x).skew = p.skew := rfl
@[simp] theorem Pkg.setLgroup_crinds (g : Nat) (x : LGroup) : (p.setLgroup g x).crinds = p.crinds := rfl
@[simp] theorem Pkg.setLgroup_pchs (g : Nat) (x : LGroup) : (p.setLgroup g x).pchs = p.pchs := rfl
@[simp] theorem Pkg.setLgroup_holdLog (g : Nat) (x : LGroup) : (p.setLgroup g x).holdLog = p.holdLog := rfl
@[simp] theorem Pkg.setLgroup_repairs (g : Nat) (x : LGroup) : (p.setLgroup g x).repairs = p.repairs := rfl
@[simp] theorem Pkg.setLgroup_fifos (g : Nat) (x : LGroup) : (p.setLgroup g x).fifos = p.fifos := rfl
@[simp] theorem Pkg.setLgroup_trace (g : Nat) (x : LGroup) : (p.setLgroup g x).trace = p.trace := rfl
@[simp] theorem Pkg.setLgroup_sigs (g : Nat) (x : LGroup) : (p.setLgroup g x).sigs = p.sigs := rfl
@[simp] theorem Pkg.setLgroup_sigNo (g : Nat) (x : LGroup) : (p.setLgroup g x).sigNo = p.sigNo := rfl
@[simp] theorem Pkg.setLgroup_marks (g : Nat) (x : LGroup) : (p.setLgroup g x).marks = p.marks := rfl
@[simp] theorem Pkg.setLgroup_outs (g : Nat) (x : LGroup) : (p.setLgroup g x).outs = p.outs := rfl
@[simp] theorem Pkg.setLgroup_reps (g : Nat) (x : LGroup) : (p.setLgroup g x).reps = p.reps := rfl
@[simp] theorem Pkg.setLgroup_lossQ (g : Nat) (x : LGroup) : (p.setLgroup g x).lossQ = p.lossQ := rfl
@[simp] theorem Pkg.setLgroup_dig (g : Nat) (x : LGroup) : (p.setLgroup g x).dig = p.dig := rfl
@[simp] theorem Pkg.setLgroup_lastDig (g : Nat) (x : LGroup) : (p.setLgroup g x).lastDig = p.lastDig := rfl
@[simp] theorem Pkg.setLgroup_swap (g : Nat) (x : LGroup) : (p.setLgroup g x).swap = p.swap := rfl
@[simp] theorem Pkg.setLgroup_pressNo (g : Nat) (x : LGroup) : (p.setLgroup g x).pressNo = p.pressNo := rfl
@[simp] theorem Pkg.setLgroup_tx (g : Nat) (x : LGroup) : (p.setLgroup g x).tx = p.tx := rfl
@[simp] theorem Pkg.setLgroup_coll (g : Nat) (x : LGroup) : (p.setLgroup g x).coll = p.coll := rfl
@[simp] theorem Pkg.setLgroup_net (g : Nat) (x : LGroup) : (p.setLgroup g x).net = p.net := rfl
@[simp] theorem Pkg.setLgroup_orders (g : Nat) (x : LGroup) : (p.setLgroup g x).orders = p.orders := rfl
@[simp] theorem Pkg.setLgroup_lead (g : Nat) (x : LGroup) : (p.setLgroup g x).lead = p.lead := rfl
@[simp] theorem Pkg.setLgroup_d2d (g : Nat) (x : LGroup) : (p.setLgroup g x).d2d = p.d2d := rfl
@[simp] theorem Pkg.setLgroup_edges (g : Nat) (x : LGroup) : (p.setLgroup g x).edges = p.edges := rfl
@[simp] theorem Pkg.setLgroup_flash (g : Nat) (x : LGroup) : (p.setLgroup g x).flash = p.flash := rfl
@[simp] theorem Pkg.setLgroup_boot (g : Nat) (x : LGroup) : (p.setLgroup g x).boot = p.boot := rfl
@[simp] theorem Pkg.setLgroup_sec (g : Nat) (x : LGroup) : (p.setLgroup g x).sec = p.sec := rfl
@[simp] theorem Pkg.setLgroup_pow (g : Nat) (x : LGroup) : (p.setLgroup g x).pow = p.pow := rfl
@[simp] theorem Pkg.setLgroup_fw (g : Nat) (x : LGroup) : (p.setLgroup g x).fw = p.fw := rfl
@[simp] theorem Pkg.setLgroup_fwWord (g : Nat) (x : LGroup) : (p.setLgroup g x).fwWord = p.fwWord := rfl
@[simp] theorem Pkg.setLgroup_reg (g : Nat) (x : LGroup) (r₁ : Reg) (j₁ : Nat) : (p.setLgroup g x).reg r₁ j₁ = p.reg r₁ j₁ := rfl
@[simp] theorem Pkg.setLgroup_getF (g : Nat) (x : LGroup) (g₁ : Fd) (j₁ : Nat) : (p.setLgroup g x).getF g₁ j₁ = p.getF g₁ j₁ := rfl
@[simp] theorem Pkg.setLgroup_flag (g : Nat) (x : LGroup) (g₁ : Fd) (j₁ : Nat) : (p.setLgroup g x).flag g₁ j₁ = p.flag g₁ j₁ := rfl
@[simp] theorem Pkg.setLgroup_core (g : Nat) (x : LGroup) (j₁ : Nat) : (p.setLgroup g x).core j₁ = p.core j₁ := rfl
@[simp] theorem Pkg.setLgroup_vat (g : Nat) (x : LGroup) (j₁ : Nat) : (p.setLgroup g x).vat j₁ = p.vat j₁ := rfl
@[simp] theorem Pkg.setLgroup_hasVat (g : Nat) (x : LGroup) (j₁ : Nat) : (p.setLgroup g x).hasVat j₁ = p.hasVat j₁ := rfl
@[simp] theorem Pkg.setLgroup_vatReady (g : Nat) (x : LGroup) (j₁ : Nat) : (p.setLgroup g x).vatReady j₁ = p.vatReady j₁ := rfl
@[simp] theorem Pkg.setLgroup_alive (g : Nat) (x : LGroup)  : (p.setLgroup g x).alive = p.alive := rfl
@[simp] theorem Pkg.setLgroup_isCore (g : Nat) (x : LGroup) (j₁ : Nat) : (p.setLgroup g x).isCore j₁ = p.isCore j₁ := rfl
@[simp] theorem Pkg.setLgroup_isPhys (g : Nat) (x : LGroup) (j₁ : Nat) : (p.setLgroup g x).isPhys j₁ = p.isPhys j₁ := rfl
@[simp] theorem Pkg.setLgroup_physOf (g : Nat) (x : LGroup) (j₁ : Nat) : (p.setLgroup g x).physOf j₁ = p.physOf j₁ := rfl
@[simp] theorem Pkg.setLgroup_logicalOf (g : Nat) (x : LGroup) (j₁ : Nat) : (p.setLgroup g x).logicalOf j₁ = p.logicalOf j₁ := rfl
@[simp] theorem Pkg.setLgroup_logCount (g : Nat) (x : LGroup)  : (p.setLgroup g x).logCount = p.logCount := rfl
@[simp] theorem Pkg.setLgroup_fifo (g : Nat) (x : LGroup) (j₁ : Nat) : (p.setLgroup g x).fifo j₁ = p.fifo j₁ := rfl
@[simp] theorem Pkg.setLgroup_pkgId (g : Nat) (x : LGroup)  : (p.setLgroup g x).pkgId = p.pkgId := rfl
@[simp] theorem Pkg.setLgroup_place (g : Nat) (x : LGroup) (a₁ : Nat) : (p.setLgroup g x).place a₁ = p.place a₁ := rfl
@[simp] theorem Pkg.setLgroup_badRange (g : Nat) (x : LGroup) (a₁ n₁ : Nat) : (p.setLgroup g x).badRange a₁ n₁ = p.badRange a₁ n₁ := rfl
@[simp] theorem Pkg.setLgroup_held (g : Nat) (x : LGroup) (j₁ : Nat) : (p.setLgroup g x).held j₁ = p.held j₁ := rfl
@[simp] theorem Pkg.setLgroup_inCave (g : Nat) (x : LGroup) (a₁ : Nat) : (p.setLgroup g x).inCave a₁ = p.inCave a₁ := rfl
@[simp] theorem Pkg.setLgroup_collGrp (g : Nat) (x : LGroup) (j₁ : Nat) : (p.setLgroup g x).collGrp j₁ = p.collGrp j₁ := rfl
@[simp] theorem Pkg.setLgroup_port (g : Nat) (x : LGroup) (j₁ : Nat) : (p.setLgroup g x).port j₁ = p.port j₁ := rfl
@[simp] theorem Pkg.setLgroup_d2dMod (g : Nat) (x : LGroup) (e₁ m₁ : Nat) : (p.setLgroup g x).d2dMod e₁ m₁ = p.d2dMod e₁ m₁ := rfl
@[simp] theorem Pkg.setLgroup_pch (g : Nat) (x : LGroup) (j₁ : Nat) : (p.setLgroup g x).pch j₁ = p.pch j₁ := rfl

@[simp] theorem Pkg.send_free (kd : MsgKind) (dst : Nat) (ws : List Nat) : (p.send kd dst ws).free = p.free := rfl
@[simp] theorem Pkg.send_time (kd : MsgKind) (dst : Nat) (ws : List Nat) : (p.send kd dst ws).time = p.time := rfl
@[simp] theorem Pkg.send_pins (kd : MsgKind) (dst : Nat) (ws : List Nat) : (p.send kd dst ws).pins = p.pins := rfl
@[simp] theorem Pkg.send_fuse (kd : MsgKind) (dst : Nat) (ws : List Nat) : (p.send kd dst ws).fuse = p.fuse := rfl
@[simp] theorem Pkg.send_regs (kd : MsgKind) (dst : Nat) (ws : List Nat) : (p.send kd dst ws).regs = p.regs := rfl
@[simp] theorem Pkg.send_vats (kd : MsgKind) (dst : Nat) (ws : List Nat) : (p.send kd dst ws).vats = p.vats := rfl
@[simp] theorem Pkg.send_coreMap (kd : MsgKind) (dst : Nat) (ws : List Nat) : (p.send kd dst ws).coreMap = p.coreMap := rfl
@[simp] theorem Pkg.send_cores (kd : MsgKind) (dst : Nat) (ws : List Nat) : (p.send kd dst ws).cores = p.cores := rfl
@[simp] theorem Pkg.send_faultBy (kd : MsgKind) (dst : Nat) (ws : List Nat) : (p.send kd dst ws).faultBy = p.faultBy := rfl
@[simp] theorem Pkg.send_ceBy (kd : MsgKind) (dst : Nat) (ws : List Nat) : (p.send kd dst ws).ceBy = p.ceBy := rfl
@[simp] theorem Pkg.send_flaws (kd : MsgKind) (dst : Nat) (ws : List Nat) : (p.send kd dst ws).flaws = p.flaws := rfl
@[simp] theorem Pkg.send_skew (kd : MsgKind) (dst : Nat) (ws : List Nat) : (p.send kd dst ws).skew = p.skew := rfl
@[simp] theorem Pkg.send_crinds (kd : MsgKind) (dst : Nat) (ws : List Nat) : (p.send kd dst ws).crinds = p.crinds := rfl
@[simp] theorem Pkg.send_pchs (kd : MsgKind) (dst : Nat) (ws : List Nat) : (p.send kd dst ws).pchs = p.pchs := rfl
@[simp] theorem Pkg.send_holdLog (kd : MsgKind) (dst : Nat) (ws : List Nat) : (p.send kd dst ws).holdLog = p.holdLog := rfl
@[simp] theorem Pkg.send_repairs (kd : MsgKind) (dst : Nat) (ws : List Nat) : (p.send kd dst ws).repairs = p.repairs := rfl
@[simp] theorem Pkg.send_fifos (kd : MsgKind) (dst : Nat) (ws : List Nat) : (p.send kd dst ws).fifos = p.fifos := rfl
@[simp] theorem Pkg.send_trace (kd : MsgKind) (dst : Nat) (ws : List Nat) : (p.send kd dst ws).trace = p.trace := rfl
@[simp] theorem Pkg.send_sigs (kd : MsgKind) (dst : Nat) (ws : List Nat) : (p.send kd dst ws).sigs = p.sigs := rfl
@[simp] theorem Pkg.send_sigNo (kd : MsgKind) (dst : Nat) (ws : List Nat) : (p.send kd dst ws).sigNo = p.sigNo := rfl
@[simp] theorem Pkg.send_marks (kd : MsgKind) (dst : Nat) (ws : List Nat) : (p.send kd dst ws).marks = p.marks := rfl
@[simp] theorem Pkg.send_groups (kd : MsgKind) (dst : Nat) (ws : List Nat) : (p.send kd dst ws).groups = p.groups := rfl
@[simp] theorem Pkg.send_outs (kd : MsgKind) (dst : Nat) (ws : List Nat) : (p.send kd dst ws).outs = p.outs := rfl
@[simp] theorem Pkg.send_reps (kd : MsgKind) (dst : Nat) (ws : List Nat) : (p.send kd dst ws).reps = p.reps := rfl
@[simp] theorem Pkg.send_lossQ (kd : MsgKind) (dst : Nat) (ws : List Nat) : (p.send kd dst ws).lossQ = p.lossQ := rfl
@[simp] theorem Pkg.send_dig (kd : MsgKind) (dst : Nat) (ws : List Nat) : (p.send kd dst ws).dig = p.dig := rfl
@[simp] theorem Pkg.send_lastDig (kd : MsgKind) (dst : Nat) (ws : List Nat) : (p.send kd dst ws).lastDig = p.lastDig := rfl
@[simp] theorem Pkg.send_swap (kd : MsgKind) (dst : Nat) (ws : List Nat) : (p.send kd dst ws).swap = p.swap := rfl
@[simp] theorem Pkg.send_pressNo (kd : MsgKind) (dst : Nat) (ws : List Nat) : (p.send kd dst ws).pressNo = p.pressNo := rfl
@[simp] theorem Pkg.send_coll (kd : MsgKind) (dst : Nat) (ws : List Nat) : (p.send kd dst ws).coll = p.coll := rfl
@[simp] theorem Pkg.send_net (kd : MsgKind) (dst : Nat) (ws : List Nat) : (p.send kd dst ws).net = p.net := rfl
@[simp] theorem Pkg.send_orders (kd : MsgKind) (dst : Nat) (ws : List Nat) : (p.send kd dst ws).orders = p.orders := rfl
@[simp] theorem Pkg.send_lead (kd : MsgKind) (dst : Nat) (ws : List Nat) : (p.send kd dst ws).lead = p.lead := rfl
@[simp] theorem Pkg.send_d2d (kd : MsgKind) (dst : Nat) (ws : List Nat) : (p.send kd dst ws).d2d = p.d2d := rfl
@[simp] theorem Pkg.send_edges (kd : MsgKind) (dst : Nat) (ws : List Nat) : (p.send kd dst ws).edges = p.edges := rfl
@[simp] theorem Pkg.send_flash (kd : MsgKind) (dst : Nat) (ws : List Nat) : (p.send kd dst ws).flash = p.flash := rfl
@[simp] theorem Pkg.send_boot (kd : MsgKind) (dst : Nat) (ws : List Nat) : (p.send kd dst ws).boot = p.boot := rfl
@[simp] theorem Pkg.send_sec (kd : MsgKind) (dst : Nat) (ws : List Nat) : (p.send kd dst ws).sec = p.sec := rfl
@[simp] theorem Pkg.send_pow (kd : MsgKind) (dst : Nat) (ws : List Nat) : (p.send kd dst ws).pow = p.pow := rfl
@[simp] theorem Pkg.send_fw (kd : MsgKind) (dst : Nat) (ws : List Nat) : (p.send kd dst ws).fw = p.fw := rfl
@[simp] theorem Pkg.send_fwWord (kd : MsgKind) (dst : Nat) (ws : List Nat) : (p.send kd dst ws).fwWord = p.fwWord := rfl
@[simp] theorem Pkg.send_reg (kd : MsgKind) (dst : Nat) (ws : List Nat) (r₁ : Reg) (j₁ : Nat) : (p.send kd dst ws).reg r₁ j₁ = p.reg r₁ j₁ := rfl
@[simp] theorem Pkg.send_getF (kd : MsgKind) (dst : Nat) (ws : List Nat) (g₁ : Fd) (j₁ : Nat) : (p.send kd dst ws).getF g₁ j₁ = p.getF g₁ j₁ := rfl
@[simp] theorem Pkg.send_flag (kd : MsgKind) (dst : Nat) (ws : List Nat) (g₁ : Fd) (j₁ : Nat) : (p.send kd dst ws).flag g₁ j₁ = p.flag g₁ j₁ := rfl
@[simp] theorem Pkg.send_core (kd : MsgKind) (dst : Nat) (ws : List Nat) (j₁ : Nat) : (p.send kd dst ws).core j₁ = p.core j₁ := rfl
@[simp] theorem Pkg.send_vat (kd : MsgKind) (dst : Nat) (ws : List Nat) (j₁ : Nat) : (p.send kd dst ws).vat j₁ = p.vat j₁ := rfl
@[simp] theorem Pkg.send_hasVat (kd : MsgKind) (dst : Nat) (ws : List Nat) (j₁ : Nat) : (p.send kd dst ws).hasVat j₁ = p.hasVat j₁ := rfl
@[simp] theorem Pkg.send_vatReady (kd : MsgKind) (dst : Nat) (ws : List Nat) (j₁ : Nat) : (p.send kd dst ws).vatReady j₁ = p.vatReady j₁ := rfl
@[simp] theorem Pkg.send_alive (kd : MsgKind) (dst : Nat) (ws : List Nat)  : (p.send kd dst ws).alive = p.alive := rfl
@[simp] theorem Pkg.send_isCore (kd : MsgKind) (dst : Nat) (ws : List Nat) (j₁ : Nat) : (p.send kd dst ws).isCore j₁ = p.isCore j₁ := rfl
@[simp] theorem Pkg.send_isPhys (kd : MsgKind) (dst : Nat) (ws : List Nat) (j₁ : Nat) : (p.send kd dst ws).isPhys j₁ = p.isPhys j₁ := rfl
@[simp] theorem Pkg.send_physOf (kd : MsgKind) (dst : Nat) (ws : List Nat) (j₁ : Nat) : (p.send kd dst ws).physOf j₁ = p.physOf j₁ := rfl
@[simp] theorem Pkg.send_logicalOf (kd : MsgKind) (dst : Nat) (ws : List Nat) (j₁ : Nat) : (p.send kd dst ws).logicalOf j₁ = p.logicalOf j₁ := rfl
@[simp] theorem Pkg.send_logCount (kd : MsgKind) (dst : Nat) (ws : List Nat)  : (p.send kd dst ws).logCount = p.logCount := rfl
@[simp] theorem Pkg.send_fifo (kd : MsgKind) (dst : Nat) (ws : List Nat) (j₁ : Nat) : (p.send kd dst ws).fifo j₁ = p.fifo j₁ := rfl
@[simp] theorem Pkg.send_pkgId (kd : MsgKind) (dst : Nat) (ws : List Nat)  : (p.send kd dst ws).pkgId = p.pkgId := rfl
@[simp] theorem Pkg.send_place (kd : MsgKind) (dst : Nat) (ws : List Nat) (a₁ : Nat) : (p.send kd dst ws).place a₁ = p.place a₁ := rfl
@[simp] theorem Pkg.send_badRange (kd : MsgKind) (dst : Nat) (ws : List Nat) (a₁ n₁ : Nat) : (p.send kd dst ws).badRange a₁ n₁ = p.badRange a₁ n₁ := rfl
@[simp] theorem Pkg.send_held (kd : MsgKind) (dst : Nat) (ws : List Nat) (j₁ : Nat) : (p.send kd dst ws).held j₁ = p.held j₁ := rfl
@[simp] theorem Pkg.send_inCave (kd : MsgKind) (dst : Nat) (ws : List Nat) (a₁ : Nat) : (p.send kd dst ws).inCave a₁ = p.inCave a₁ := rfl
@[simp] theorem Pkg.send_collGrp (kd : MsgKind) (dst : Nat) (ws : List Nat) (j₁ : Nat) : (p.send kd dst ws).collGrp j₁ = p.collGrp j₁ := rfl
@[simp] theorem Pkg.send_port (kd : MsgKind) (dst : Nat) (ws : List Nat) (j₁ : Nat) : (p.send kd dst ws).port j₁ = p.port j₁ := rfl
@[simp] theorem Pkg.send_d2dMod (kd : MsgKind) (dst : Nat) (ws : List Nat) (e₁ m₁ : Nat) : (p.send kd dst ws).d2dMod e₁ m₁ = p.d2dMod e₁ m₁ := rfl
@[simp] theorem Pkg.send_pch (kd : MsgKind) (dst : Nat) (ws : List Nat) (j₁ : Nat) : (p.send kd dst ws).pch j₁ = p.pch j₁ := rfl
@[simp] theorem Pkg.send_lgroup (kd : MsgKind) (dst : Nat) (ws : List Nat) (j₁ : Nat) : (p.send kd dst ws).lgroup j₁ = p.lgroup j₁ := rfl

@[simp] theorem Pkg.onLead_free (f : Lead → Lead) : (p.onLead f).free = p.free := rfl
@[simp] theorem Pkg.onLead_time (f : Lead → Lead) : (p.onLead f).time = p.time := rfl
@[simp] theorem Pkg.onLead_pins (f : Lead → Lead) : (p.onLead f).pins = p.pins := rfl
@[simp] theorem Pkg.onLead_fuse (f : Lead → Lead) : (p.onLead f).fuse = p.fuse := rfl
@[simp] theorem Pkg.onLead_regs (f : Lead → Lead) : (p.onLead f).regs = p.regs := rfl
@[simp] theorem Pkg.onLead_vats (f : Lead → Lead) : (p.onLead f).vats = p.vats := rfl
@[simp] theorem Pkg.onLead_coreMap (f : Lead → Lead) : (p.onLead f).coreMap = p.coreMap := rfl
@[simp] theorem Pkg.onLead_cores (f : Lead → Lead) : (p.onLead f).cores = p.cores := rfl
@[simp] theorem Pkg.onLead_faultBy (f : Lead → Lead) : (p.onLead f).faultBy = p.faultBy := rfl
@[simp] theorem Pkg.onLead_ceBy (f : Lead → Lead) : (p.onLead f).ceBy = p.ceBy := rfl
@[simp] theorem Pkg.onLead_flaws (f : Lead → Lead) : (p.onLead f).flaws = p.flaws := rfl
@[simp] theorem Pkg.onLead_skew (f : Lead → Lead) : (p.onLead f).skew = p.skew := rfl
@[simp] theorem Pkg.onLead_crinds (f : Lead → Lead) : (p.onLead f).crinds = p.crinds := rfl
@[simp] theorem Pkg.onLead_pchs (f : Lead → Lead) : (p.onLead f).pchs = p.pchs := rfl
@[simp] theorem Pkg.onLead_holdLog (f : Lead → Lead) : (p.onLead f).holdLog = p.holdLog := rfl
@[simp] theorem Pkg.onLead_repairs (f : Lead → Lead) : (p.onLead f).repairs = p.repairs := rfl
@[simp] theorem Pkg.onLead_fifos (f : Lead → Lead) : (p.onLead f).fifos = p.fifos := rfl
@[simp] theorem Pkg.onLead_trace (f : Lead → Lead) : (p.onLead f).trace = p.trace := rfl
@[simp] theorem Pkg.onLead_sigs (f : Lead → Lead) : (p.onLead f).sigs = p.sigs := rfl
@[simp] theorem Pkg.onLead_sigNo (f : Lead → Lead) : (p.onLead f).sigNo = p.sigNo := rfl
@[simp] theorem Pkg.onLead_marks (f : Lead → Lead) : (p.onLead f).marks = p.marks := rfl
@[simp] theorem Pkg.onLead_groups (f : Lead → Lead) : (p.onLead f).groups = p.groups := rfl
@[simp] theorem Pkg.onLead_outs (f : Lead → Lead) : (p.onLead f).outs = p.outs := rfl
@[simp] theorem Pkg.onLead_reps (f : Lead → Lead) : (p.onLead f).reps = p.reps := rfl
@[simp] theorem Pkg.onLead_lossQ (f : Lead → Lead) : (p.onLead f).lossQ = p.lossQ := rfl
@[simp] theorem Pkg.onLead_dig (f : Lead → Lead) : (p.onLead f).dig = p.dig := rfl
@[simp] theorem Pkg.onLead_lastDig (f : Lead → Lead) : (p.onLead f).lastDig = p.lastDig := rfl
@[simp] theorem Pkg.onLead_swap (f : Lead → Lead) : (p.onLead f).swap = p.swap := rfl
@[simp] theorem Pkg.onLead_pressNo (f : Lead → Lead) : (p.onLead f).pressNo = p.pressNo := rfl
@[simp] theorem Pkg.onLead_tx (f : Lead → Lead) : (p.onLead f).tx = p.tx := rfl
@[simp] theorem Pkg.onLead_coll (f : Lead → Lead) : (p.onLead f).coll = p.coll := rfl
@[simp] theorem Pkg.onLead_net (f : Lead → Lead) : (p.onLead f).net = p.net := rfl
@[simp] theorem Pkg.onLead_orders (f : Lead → Lead) : (p.onLead f).orders = p.orders := rfl
@[simp] theorem Pkg.onLead_d2d (f : Lead → Lead) : (p.onLead f).d2d = p.d2d := rfl
@[simp] theorem Pkg.onLead_edges (f : Lead → Lead) : (p.onLead f).edges = p.edges := rfl
@[simp] theorem Pkg.onLead_flash (f : Lead → Lead) : (p.onLead f).flash = p.flash := rfl
@[simp] theorem Pkg.onLead_boot (f : Lead → Lead) : (p.onLead f).boot = p.boot := rfl
@[simp] theorem Pkg.onLead_sec (f : Lead → Lead) : (p.onLead f).sec = p.sec := rfl
@[simp] theorem Pkg.onLead_pow (f : Lead → Lead) : (p.onLead f).pow = p.pow := rfl
@[simp] theorem Pkg.onLead_fw (f : Lead → Lead) : (p.onLead f).fw = p.fw := rfl
@[simp] theorem Pkg.onLead_fwWord (f : Lead → Lead) : (p.onLead f).fwWord = p.fwWord := rfl
@[simp] theorem Pkg.onLead_reg (f : Lead → Lead) (r₁ : Reg) (j₁ : Nat) : (p.onLead f).reg r₁ j₁ = p.reg r₁ j₁ := rfl
@[simp] theorem Pkg.onLead_getF (f : Lead → Lead) (g₁ : Fd) (j₁ : Nat) : (p.onLead f).getF g₁ j₁ = p.getF g₁ j₁ := rfl
@[simp] theorem Pkg.onLead_flag (f : Lead → Lead) (g₁ : Fd) (j₁ : Nat) : (p.onLead f).flag g₁ j₁ = p.flag g₁ j₁ := rfl
@[simp] theorem Pkg.onLead_core (f : Lead → Lead) (j₁ : Nat) : (p.onLead f).core j₁ = p.core j₁ := rfl
@[simp] theorem Pkg.onLead_vat (f : Lead → Lead) (j₁ : Nat) : (p.onLead f).vat j₁ = p.vat j₁ := rfl
@[simp] theorem Pkg.onLead_hasVat (f : Lead → Lead) (j₁ : Nat) : (p.onLead f).hasVat j₁ = p.hasVat j₁ := rfl
@[simp] theorem Pkg.onLead_vatReady (f : Lead → Lead) (j₁ : Nat) : (p.onLead f).vatReady j₁ = p.vatReady j₁ := rfl
@[simp] theorem Pkg.onLead_alive (f : Lead → Lead)  : (p.onLead f).alive = p.alive := rfl
@[simp] theorem Pkg.onLead_isCore (f : Lead → Lead) (j₁ : Nat) : (p.onLead f).isCore j₁ = p.isCore j₁ := rfl
@[simp] theorem Pkg.onLead_isPhys (f : Lead → Lead) (j₁ : Nat) : (p.onLead f).isPhys j₁ = p.isPhys j₁ := rfl
@[simp] theorem Pkg.onLead_physOf (f : Lead → Lead) (j₁ : Nat) : (p.onLead f).physOf j₁ = p.physOf j₁ := rfl
@[simp] theorem Pkg.onLead_logicalOf (f : Lead → Lead) (j₁ : Nat) : (p.onLead f).logicalOf j₁ = p.logicalOf j₁ := rfl
@[simp] theorem Pkg.onLead_logCount (f : Lead → Lead)  : (p.onLead f).logCount = p.logCount := rfl
@[simp] theorem Pkg.onLead_fifo (f : Lead → Lead) (j₁ : Nat) : (p.onLead f).fifo j₁ = p.fifo j₁ := rfl
@[simp] theorem Pkg.onLead_pkgId (f : Lead → Lead)  : (p.onLead f).pkgId = p.pkgId := rfl
@[simp] theorem Pkg.onLead_place (f : Lead → Lead) (a₁ : Nat) : (p.onLead f).place a₁ = p.place a₁ := rfl
@[simp] theorem Pkg.onLead_badRange (f : Lead → Lead) (a₁ n₁ : Nat) : (p.onLead f).badRange a₁ n₁ = p.badRange a₁ n₁ := rfl
@[simp] theorem Pkg.onLead_held (f : Lead → Lead) (j₁ : Nat) : (p.onLead f).held j₁ = p.held j₁ := rfl
@[simp] theorem Pkg.onLead_inCave (f : Lead → Lead) (a₁ : Nat) : (p.onLead f).inCave a₁ = p.inCave a₁ := rfl
@[simp] theorem Pkg.onLead_collGrp (f : Lead → Lead) (j₁ : Nat) : (p.onLead f).collGrp j₁ = p.collGrp j₁ := rfl
@[simp] theorem Pkg.onLead_port (f : Lead → Lead) (j₁ : Nat) : (p.onLead f).port j₁ = p.port j₁ := rfl
@[simp] theorem Pkg.onLead_d2dMod (f : Lead → Lead) (e₁ m₁ : Nat) : (p.onLead f).d2dMod e₁ m₁ = p.d2dMod e₁ m₁ := rfl
@[simp] theorem Pkg.onLead_pch (f : Lead → Lead) (j₁ : Nat) : (p.onLead f).pch j₁ = p.pch j₁ := rfl
@[simp] theorem Pkg.onLead_lgroup (f : Lead → Lead) (j₁ : Nat) : (p.onLead f).lgroup j₁ = p.lgroup j₁ := rfl

/-- A record entered or dropped changes the FIFOs, LOG_FIFO_STAT and the drops counted, nothing else. -/
theorem Pkg.pushFifo_frame (f : Nat) (ws : List Nat) :
    ∃ q r s, p.pushFifo f ws = { p with fifos := q, regs := r, sec := s } := by
  unfold Pkg.pushFifo
  simp only []
  split
  · exact ⟨p.fifos, _, _, rfl⟩
  · split
    · exact ⟨_, _, _, rfl⟩
    · exact ⟨_, p.regs, p.sec, rfl⟩

@[simp] theorem Pkg.pushFifo_free (f : Nat) (ws : List Nat) : (p.pushFifo f ws).free = p.free := by
  obtain ⟨_, _, _, h⟩ := p.pushFifo_frame f ws; rw [h]
@[simp] theorem Pkg.pushFifo_time (f : Nat) (ws : List Nat) : (p.pushFifo f ws).time = p.time := by
  obtain ⟨_, _, _, h⟩ := p.pushFifo_frame f ws; rw [h]
@[simp] theorem Pkg.pushFifo_pins (f : Nat) (ws : List Nat) : (p.pushFifo f ws).pins = p.pins := by
  obtain ⟨_, _, _, h⟩ := p.pushFifo_frame f ws; rw [h]
@[simp] theorem Pkg.pushFifo_fuse (f : Nat) (ws : List Nat) : (p.pushFifo f ws).fuse = p.fuse := by
  obtain ⟨_, _, _, h⟩ := p.pushFifo_frame f ws; rw [h]
@[simp] theorem Pkg.pushFifo_vats (f : Nat) (ws : List Nat) : (p.pushFifo f ws).vats = p.vats := by
  obtain ⟨_, _, _, h⟩ := p.pushFifo_frame f ws; rw [h]
@[simp] theorem Pkg.pushFifo_coreMap (f : Nat) (ws : List Nat) : (p.pushFifo f ws).coreMap = p.coreMap := by
  obtain ⟨_, _, _, h⟩ := p.pushFifo_frame f ws; rw [h]
@[simp] theorem Pkg.pushFifo_cores (f : Nat) (ws : List Nat) : (p.pushFifo f ws).cores = p.cores := by
  obtain ⟨_, _, _, h⟩ := p.pushFifo_frame f ws; rw [h]
@[simp] theorem Pkg.pushFifo_faultBy (f : Nat) (ws : List Nat) : (p.pushFifo f ws).faultBy = p.faultBy := by
  obtain ⟨_, _, _, h⟩ := p.pushFifo_frame f ws; rw [h]
@[simp] theorem Pkg.pushFifo_ceBy (f : Nat) (ws : List Nat) : (p.pushFifo f ws).ceBy = p.ceBy := by
  obtain ⟨_, _, _, h⟩ := p.pushFifo_frame f ws; rw [h]
@[simp] theorem Pkg.pushFifo_flaws (f : Nat) (ws : List Nat) : (p.pushFifo f ws).flaws = p.flaws := by
  obtain ⟨_, _, _, h⟩ := p.pushFifo_frame f ws; rw [h]
@[simp] theorem Pkg.pushFifo_skew (f : Nat) (ws : List Nat) : (p.pushFifo f ws).skew = p.skew := by
  obtain ⟨_, _, _, h⟩ := p.pushFifo_frame f ws; rw [h]
@[simp] theorem Pkg.pushFifo_crinds (f : Nat) (ws : List Nat) : (p.pushFifo f ws).crinds = p.crinds := by
  obtain ⟨_, _, _, h⟩ := p.pushFifo_frame f ws; rw [h]
@[simp] theorem Pkg.pushFifo_pchs (f : Nat) (ws : List Nat) : (p.pushFifo f ws).pchs = p.pchs := by
  obtain ⟨_, _, _, h⟩ := p.pushFifo_frame f ws; rw [h]
@[simp] theorem Pkg.pushFifo_holdLog (f : Nat) (ws : List Nat) : (p.pushFifo f ws).holdLog = p.holdLog := by
  obtain ⟨_, _, _, h⟩ := p.pushFifo_frame f ws; rw [h]
@[simp] theorem Pkg.pushFifo_repairs (f : Nat) (ws : List Nat) : (p.pushFifo f ws).repairs = p.repairs := by
  obtain ⟨_, _, _, h⟩ := p.pushFifo_frame f ws; rw [h]
@[simp] theorem Pkg.pushFifo_trace (f : Nat) (ws : List Nat) : (p.pushFifo f ws).trace = p.trace := by
  obtain ⟨_, _, _, h⟩ := p.pushFifo_frame f ws; rw [h]
@[simp] theorem Pkg.pushFifo_sigs (f : Nat) (ws : List Nat) : (p.pushFifo f ws).sigs = p.sigs := by
  obtain ⟨_, _, _, h⟩ := p.pushFifo_frame f ws; rw [h]
@[simp] theorem Pkg.pushFifo_sigNo (f : Nat) (ws : List Nat) : (p.pushFifo f ws).sigNo = p.sigNo := by
  obtain ⟨_, _, _, h⟩ := p.pushFifo_frame f ws; rw [h]
@[simp] theorem Pkg.pushFifo_marks (f : Nat) (ws : List Nat) : (p.pushFifo f ws).marks = p.marks := by
  obtain ⟨_, _, _, h⟩ := p.pushFifo_frame f ws; rw [h]
@[simp] theorem Pkg.pushFifo_groups (f : Nat) (ws : List Nat) : (p.pushFifo f ws).groups = p.groups := by
  obtain ⟨_, _, _, h⟩ := p.pushFifo_frame f ws; rw [h]
@[simp] theorem Pkg.pushFifo_outs (f : Nat) (ws : List Nat) : (p.pushFifo f ws).outs = p.outs := by
  obtain ⟨_, _, _, h⟩ := p.pushFifo_frame f ws; rw [h]
@[simp] theorem Pkg.pushFifo_reps (f : Nat) (ws : List Nat) : (p.pushFifo f ws).reps = p.reps := by
  obtain ⟨_, _, _, h⟩ := p.pushFifo_frame f ws; rw [h]
@[simp] theorem Pkg.pushFifo_lossQ (f : Nat) (ws : List Nat) : (p.pushFifo f ws).lossQ = p.lossQ := by
  obtain ⟨_, _, _, h⟩ := p.pushFifo_frame f ws; rw [h]
@[simp] theorem Pkg.pushFifo_dig (f : Nat) (ws : List Nat) : (p.pushFifo f ws).dig = p.dig := by
  obtain ⟨_, _, _, h⟩ := p.pushFifo_frame f ws; rw [h]
@[simp] theorem Pkg.pushFifo_lastDig (f : Nat) (ws : List Nat) : (p.pushFifo f ws).lastDig = p.lastDig := by
  obtain ⟨_, _, _, h⟩ := p.pushFifo_frame f ws; rw [h]
@[simp] theorem Pkg.pushFifo_swap (f : Nat) (ws : List Nat) : (p.pushFifo f ws).swap = p.swap := by
  obtain ⟨_, _, _, h⟩ := p.pushFifo_frame f ws; rw [h]
@[simp] theorem Pkg.pushFifo_pressNo (f : Nat) (ws : List Nat) : (p.pushFifo f ws).pressNo = p.pressNo := by
  obtain ⟨_, _, _, h⟩ := p.pushFifo_frame f ws; rw [h]
@[simp] theorem Pkg.pushFifo_tx (f : Nat) (ws : List Nat) : (p.pushFifo f ws).tx = p.tx := by
  obtain ⟨_, _, _, h⟩ := p.pushFifo_frame f ws; rw [h]
@[simp] theorem Pkg.pushFifo_coll (f : Nat) (ws : List Nat) : (p.pushFifo f ws).coll = p.coll := by
  obtain ⟨_, _, _, h⟩ := p.pushFifo_frame f ws; rw [h]
@[simp] theorem Pkg.pushFifo_net (f : Nat) (ws : List Nat) : (p.pushFifo f ws).net = p.net := by
  obtain ⟨_, _, _, h⟩ := p.pushFifo_frame f ws; rw [h]
@[simp] theorem Pkg.pushFifo_orders (f : Nat) (ws : List Nat) : (p.pushFifo f ws).orders = p.orders := by
  obtain ⟨_, _, _, h⟩ := p.pushFifo_frame f ws; rw [h]
@[simp] theorem Pkg.pushFifo_lead (f : Nat) (ws : List Nat) : (p.pushFifo f ws).lead = p.lead := by
  obtain ⟨_, _, _, h⟩ := p.pushFifo_frame f ws; rw [h]
@[simp] theorem Pkg.pushFifo_d2d (f : Nat) (ws : List Nat) : (p.pushFifo f ws).d2d = p.d2d := by
  obtain ⟨_, _, _, h⟩ := p.pushFifo_frame f ws; rw [h]
@[simp] theorem Pkg.pushFifo_edges (f : Nat) (ws : List Nat) : (p.pushFifo f ws).edges = p.edges := by
  obtain ⟨_, _, _, h⟩ := p.pushFifo_frame f ws; rw [h]
@[simp] theorem Pkg.pushFifo_flash (f : Nat) (ws : List Nat) : (p.pushFifo f ws).flash = p.flash := by
  obtain ⟨_, _, _, h⟩ := p.pushFifo_frame f ws; rw [h]
@[simp] theorem Pkg.pushFifo_boot (f : Nat) (ws : List Nat) : (p.pushFifo f ws).boot = p.boot := by
  obtain ⟨_, _, _, h⟩ := p.pushFifo_frame f ws; rw [h]
@[simp] theorem Pkg.pushFifo_pow (f : Nat) (ws : List Nat) : (p.pushFifo f ws).pow = p.pow := by
  obtain ⟨_, _, _, h⟩ := p.pushFifo_frame f ws; rw [h]
@[simp] theorem Pkg.pushFifo_fw (f : Nat) (ws : List Nat) : (p.pushFifo f ws).fw = p.fw := by
  obtain ⟨_, _, _, h⟩ := p.pushFifo_frame f ws; rw [h]
@[simp] theorem Pkg.pushFifo_fwWord (f : Nat) (ws : List Nat) : (p.pushFifo f ws).fwWord = p.fwWord := by
  obtain ⟨_, _, _, h⟩ := p.pushFifo_frame f ws; rw [h]

@[simp] theorem Pkg.event_free (code vat kind : Nat) (phys : Bool) (ix slate det : Nat) : (p.event code vat kind phys ix slate det).free = p.free := Pkg.pushFifo_free ..
@[simp] theorem Pkg.event_time (code vat kind : Nat) (phys : Bool) (ix slate det : Nat) : (p.event code vat kind phys ix slate det).time = p.time := Pkg.pushFifo_time ..
@[simp] theorem Pkg.event_pins (code vat kind : Nat) (phys : Bool) (ix slate det : Nat) : (p.event code vat kind phys ix slate det).pins = p.pins := Pkg.pushFifo_pins ..
@[simp] theorem Pkg.event_fuse (code vat kind : Nat) (phys : Bool) (ix slate det : Nat) : (p.event code vat kind phys ix slate det).fuse = p.fuse := Pkg.pushFifo_fuse ..
@[simp] theorem Pkg.event_vats (code vat kind : Nat) (phys : Bool) (ix slate det : Nat) : (p.event code vat kind phys ix slate det).vats = p.vats := Pkg.pushFifo_vats ..
@[simp] theorem Pkg.event_coreMap (code vat kind : Nat) (phys : Bool) (ix slate det : Nat) : (p.event code vat kind phys ix slate det).coreMap = p.coreMap := Pkg.pushFifo_coreMap ..
@[simp] theorem Pkg.event_cores (code vat kind : Nat) (phys : Bool) (ix slate det : Nat) : (p.event code vat kind phys ix slate det).cores = p.cores := Pkg.pushFifo_cores ..
@[simp] theorem Pkg.event_faultBy (code vat kind : Nat) (phys : Bool) (ix slate det : Nat) : (p.event code vat kind phys ix slate det).faultBy = p.faultBy := Pkg.pushFifo_faultBy ..
@[simp] theorem Pkg.event_ceBy (code vat kind : Nat) (phys : Bool) (ix slate det : Nat) : (p.event code vat kind phys ix slate det).ceBy = p.ceBy := Pkg.pushFifo_ceBy ..
@[simp] theorem Pkg.event_flaws (code vat kind : Nat) (phys : Bool) (ix slate det : Nat) : (p.event code vat kind phys ix slate det).flaws = p.flaws := Pkg.pushFifo_flaws ..
@[simp] theorem Pkg.event_skew (code vat kind : Nat) (phys : Bool) (ix slate det : Nat) : (p.event code vat kind phys ix slate det).skew = p.skew := Pkg.pushFifo_skew ..
@[simp] theorem Pkg.event_crinds (code vat kind : Nat) (phys : Bool) (ix slate det : Nat) : (p.event code vat kind phys ix slate det).crinds = p.crinds := Pkg.pushFifo_crinds ..
@[simp] theorem Pkg.event_pchs (code vat kind : Nat) (phys : Bool) (ix slate det : Nat) : (p.event code vat kind phys ix slate det).pchs = p.pchs := Pkg.pushFifo_pchs ..
@[simp] theorem Pkg.event_holdLog (code vat kind : Nat) (phys : Bool) (ix slate det : Nat) : (p.event code vat kind phys ix slate det).holdLog = p.holdLog := Pkg.pushFifo_holdLog ..
@[simp] theorem Pkg.event_repairs (code vat kind : Nat) (phys : Bool) (ix slate det : Nat) : (p.event code vat kind phys ix slate det).repairs = p.repairs := Pkg.pushFifo_repairs ..
@[simp] theorem Pkg.event_trace (code vat kind : Nat) (phys : Bool) (ix slate det : Nat) : (p.event code vat kind phys ix slate det).trace = p.trace := Pkg.pushFifo_trace ..
@[simp] theorem Pkg.event_sigs (code vat kind : Nat) (phys : Bool) (ix slate det : Nat) : (p.event code vat kind phys ix slate det).sigs = p.sigs := Pkg.pushFifo_sigs ..
@[simp] theorem Pkg.event_sigNo (code vat kind : Nat) (phys : Bool) (ix slate det : Nat) : (p.event code vat kind phys ix slate det).sigNo = p.sigNo := Pkg.pushFifo_sigNo ..
@[simp] theorem Pkg.event_marks (code vat kind : Nat) (phys : Bool) (ix slate det : Nat) : (p.event code vat kind phys ix slate det).marks = p.marks := Pkg.pushFifo_marks ..
@[simp] theorem Pkg.event_groups (code vat kind : Nat) (phys : Bool) (ix slate det : Nat) : (p.event code vat kind phys ix slate det).groups = p.groups := Pkg.pushFifo_groups ..
@[simp] theorem Pkg.event_outs (code vat kind : Nat) (phys : Bool) (ix slate det : Nat) : (p.event code vat kind phys ix slate det).outs = p.outs := Pkg.pushFifo_outs ..
@[simp] theorem Pkg.event_reps (code vat kind : Nat) (phys : Bool) (ix slate det : Nat) : (p.event code vat kind phys ix slate det).reps = p.reps := Pkg.pushFifo_reps ..
@[simp] theorem Pkg.event_lossQ (code vat kind : Nat) (phys : Bool) (ix slate det : Nat) : (p.event code vat kind phys ix slate det).lossQ = p.lossQ := Pkg.pushFifo_lossQ ..
@[simp] theorem Pkg.event_dig (code vat kind : Nat) (phys : Bool) (ix slate det : Nat) : (p.event code vat kind phys ix slate det).dig = p.dig := Pkg.pushFifo_dig ..
@[simp] theorem Pkg.event_lastDig (code vat kind : Nat) (phys : Bool) (ix slate det : Nat) : (p.event code vat kind phys ix slate det).lastDig = p.lastDig := Pkg.pushFifo_lastDig ..
@[simp] theorem Pkg.event_swap (code vat kind : Nat) (phys : Bool) (ix slate det : Nat) : (p.event code vat kind phys ix slate det).swap = p.swap := Pkg.pushFifo_swap ..
@[simp] theorem Pkg.event_pressNo (code vat kind : Nat) (phys : Bool) (ix slate det : Nat) : (p.event code vat kind phys ix slate det).pressNo = p.pressNo := Pkg.pushFifo_pressNo ..
@[simp] theorem Pkg.event_tx (code vat kind : Nat) (phys : Bool) (ix slate det : Nat) : (p.event code vat kind phys ix slate det).tx = p.tx := Pkg.pushFifo_tx ..
@[simp] theorem Pkg.event_coll (code vat kind : Nat) (phys : Bool) (ix slate det : Nat) : (p.event code vat kind phys ix slate det).coll = p.coll := Pkg.pushFifo_coll ..
@[simp] theorem Pkg.event_net (code vat kind : Nat) (phys : Bool) (ix slate det : Nat) : (p.event code vat kind phys ix slate det).net = p.net := Pkg.pushFifo_net ..
@[simp] theorem Pkg.event_orders (code vat kind : Nat) (phys : Bool) (ix slate det : Nat) : (p.event code vat kind phys ix slate det).orders = p.orders := Pkg.pushFifo_orders ..
@[simp] theorem Pkg.event_lead (code vat kind : Nat) (phys : Bool) (ix slate det : Nat) : (p.event code vat kind phys ix slate det).lead = p.lead := Pkg.pushFifo_lead ..
@[simp] theorem Pkg.event_d2d (code vat kind : Nat) (phys : Bool) (ix slate det : Nat) : (p.event code vat kind phys ix slate det).d2d = p.d2d := Pkg.pushFifo_d2d ..
@[simp] theorem Pkg.event_edges (code vat kind : Nat) (phys : Bool) (ix slate det : Nat) : (p.event code vat kind phys ix slate det).edges = p.edges := Pkg.pushFifo_edges ..
@[simp] theorem Pkg.event_flash (code vat kind : Nat) (phys : Bool) (ix slate det : Nat) : (p.event code vat kind phys ix slate det).flash = p.flash := Pkg.pushFifo_flash ..
@[simp] theorem Pkg.event_boot (code vat kind : Nat) (phys : Bool) (ix slate det : Nat) : (p.event code vat kind phys ix slate det).boot = p.boot := Pkg.pushFifo_boot ..
@[simp] theorem Pkg.event_pow (code vat kind : Nat) (phys : Bool) (ix slate det : Nat) : (p.event code vat kind phys ix slate det).pow = p.pow := Pkg.pushFifo_pow ..
@[simp] theorem Pkg.event_fw (code vat kind : Nat) (phys : Bool) (ix slate det : Nat) : (p.event code vat kind phys ix slate det).fw = p.fw := Pkg.pushFifo_fw ..
@[simp] theorem Pkg.event_fwWord (code vat kind : Nat) (phys : Bool) (ix slate det : Nat) : (p.event code vat kind phys ix slate det).fwWord = p.fwWord := Pkg.pushFifo_fwWord ..

end Sys2Proof.Machine
end

