-- ==== Sys2Proof/Laws/Regs.lean ====
section
/-! SUPPORT. Laws of the registers of the CSR space: what a register or field reads after one is written. -/
namespace Sys2Proof.Machine

theorem Reg.ofOff_off (r : Reg) : Reg.ofOff r.off = some r := by cases r <;> rfl

theorem Reg.off_inj {r q : Reg} (h : r.off = q.off) : r = q := by
  have := Reg.ofOff_off r
  rw [h, Reg.ofOff_off q] at this
  exact (Option.some.inj this).symm

theorem csrKey_reg {r q : Reg} (h : r ≠ q) (i j : Nat) : csrKey r i ≠ csrKey q j := by
  intro e
  apply h; apply Reg.off_inj
  have a := Nat.mod_lt i (show 2 ^ 20 > 0 by decide)
  have b := Nat.mod_lt j (show 2 ^ 20 > 0 by decide)
  unfold csrKey at e; omega

theorem csrKey_inst (r : Reg) {i j : Nat} (hi : i < 2 ^ 20) (hj : j < 2 ^ 20) (h : i ≠ j) : csrKey r i ≠ csrKey r j := by
  unfold csrKey; rw [Nat.mod_eq_of_lt hi, Nat.mod_eq_of_lt hj]; omega

@[simp] theorem Pkg.reg_setReg_self (p : Pkg) (r : Reg) (i : Nat) (w : Word) : (p.setReg r i w).reg r i = w := by
  simp [Pkg.reg, Pkg.setReg]

theorem Pkg.reg_setReg_ne (p : Pkg) {r q : Reg} (i j : Nat) (w : Word) (h : r ≠ q) :
    (p.setReg r i w).reg q j = p.reg q j := by
  unfold Pkg.reg Pkg.setReg; exact tget_tset_ne _ _ _ _ (csrKey_reg (Ne.symm h) _ _)

theorem Pkg.reg_setReg_inst (p : Pkg) (r : Reg) {i j : Nat} (w : Word) (hi : i < 2 ^ 20) (hj : j < 2 ^ 20) (h : i ≠ j) :
    (p.setReg r i w).reg r j = p.reg r j := by
  unfold Pkg.reg Pkg.setReg; exact tget_tset_ne _ _ _ _ (csrKey_inst r hj hi (Ne.symm h))

theorem Pkg.getF_setReg_ne (p : Pkg) {r : Reg} {f : Fd} (i j : Nat) (w : Word) (h : r ≠ f.reg) :
    (p.setReg r i w).getF f j = p.getF f j := by
  unfold Pkg.getF; rw [p.reg_setReg_ne i j w h]

theorem Pkg.getF_lt (p : Pkg) (f : Fd) (i : Nat) : p.getF f i < 2 ^ (f.hi + 1 - f.lo) := fld_lt ..

/-- A field that lies within its register. -/
def Fd.ok (f : Fd) : Bool := f.lo ≤ f.hi && f.hi < 64

theorem Pkg.reg_setF_self (p : Pkg) {f : Fd} (i v : Nat) (h : f.ok = true) :
    ((p.setF f i v).reg f.reg i).toNat = putFld (p.reg f.reg i).toNat f.hi f.lo v := by
  simp only [Fd.ok, Bool.and_eq_true, decide_eq_true_eq] at h
  simp only [Pkg.setF, Pkg.reg_setReg_self, BitVec.toNat_ofNat]
  exact Nat.mod_eq_of_lt (putFld_lt _ _ _ _ _ (by omega) (by omega) (p.reg f.reg i).isLt)

theorem Pkg.getF_setF_self (p : Pkg) {f : Fd} (i v : Nat) (h : f.ok = true) :
    (p.setF f i v).getF f i = v % 2 ^ (f.hi + 1 - f.lo) := by
  unfold Pkg.getF; rw [p.reg_setF_self i v h, fld_putFld_self]

theorem Pkg.getF_setF_ne (p : Pkg) {f g : Fd} (i j v : Nat) (h : f.reg ≠ g.reg) : (p.setF f i v).getF g j = p.getF g j :=
  p.getF_setReg_ne _ _ _ h

theorem Pkg.reg_setF_ne (p : Pkg) {f : Fd} {q : Reg} (i j v : Nat) (h : f.reg ≠ q) : (p.setF f i v).reg q j = p.reg q j :=
  p.reg_setReg_ne _ _ _ h

theorem Pkg.getF_setF_fld (p : Pkg) {f g : Fd} (i v : Nat) (h : f.ok = true) (r : f.reg = g.reg)
    (d : f.hi < g.lo ∨ g.hi < f.lo) : (p.setF f i v).getF g i = p.getF g i := by
  unfold Pkg.getF; rw [← r, p.reg_setF_self i v h]
  simp only [Fd.ok, Bool.and_eq_true, decide_eq_true_eq] at h
  exact fld_putFld_ne _ _ _ _ _ _ (by omega) d

theorem Pkg.getF_setF_inst (p : Pkg) {f g : Fd} {i j : Nat} (v : Nat) (r : f.reg = g.reg) (hi : i < 2 ^ 20)
    (hj : j < 2 ^ 20) (h : i ≠ j) : (p.setF f i v).getF g j = p.getF g j := by
  unfold Pkg.getF Pkg.setF; rw [← r, p.reg_setReg_inst _ _ hi hj h]

theorem Pkg.getF_addF_self (p : Pkg) {f : Fd} (i n : Nat) (h : f.ok = true) :
    (p.addF f i n).getF f i = satAdd (f.hi + 1 - f.lo) (p.getF f i) n := by
  unfold Pkg.addF; rw [p.getF_setF_self i _ h]; exact Nat.mod_eq_of_lt (satAdd_lt ..)

theorem Pkg.getF_addF_ne (p : Pkg) {f g : Fd} (i j n : Nat) (h : f.reg ≠ g.reg) : (p.addF f i n).getF g j = p.getF g j :=
  p.getF_setF_ne _ _ _ h

theorem Pkg.reg_addF_ne (p : Pkg) {f : Fd} {q : Reg} (i j n : Nat) (h : f.reg ≠ q) : (p.addF f i n).reg q j = p.reg q j :=
  p.reg_setF_ne _ _ _ h

theorem Pkg.getF_addF_fld (p : Pkg) {f g : Fd} (i n : Nat) (h : f.ok = true) (r : f.reg = g.reg)
    (d : f.hi < g.lo ∨ g.hi < f.lo) : (p.addF f i n).getF g i = p.getF g i := p.getF_setF_fld i _ h r d

theorem Pkg.flag_setF_self (p : Pkg) {f : Fd} (i v : Nat) (h : f.ok = true) :
    (p.setF f i v).flag f i = (v % 2 ^ (f.hi + 1 - f.lo) == 1) := by unfold Pkg.flag; rw [p.getF_setF_self i v h]

theorem Pkg.flag_setF_ne (p : Pkg) {f g : Fd} (i j v : Nat) (h : f.reg ≠ g.reg) : (p.setF f i v).flag g j = p.flag g j := by
  unfold Pkg.flag; rw [p.getF_setF_ne i j v h]

theorem Pkg.flag_setF_fld (p : Pkg) {f g : Fd} (i v : Nat) (h : f.ok = true) (r : f.reg = g.reg)
    (d : f.hi < g.lo ∨ g.hi < f.lo) : (p.setF f i v).flag g i = p.flag g i := by
  unfold Pkg.flag; rw [p.getF_setF_fld i v h r d]

theorem Pkg.flag_addF_ne (p : Pkg) {f g : Fd} (i j n : Nat) (h : f.reg ≠ g.reg) : (p.addF f i n).flag g j = p.flag g j :=
  p.flag_setF_ne _ _ _ h

theorem Pkg.flag_setReg_ne (p : Pkg) {r : Reg} {f : Fd} (i j : Nat) (w : Word) (h : r ≠ f.reg) :
    (p.setReg r i w).flag f j = p.flag f j := by unfold Pkg.flag; rw [p.getF_setReg_ne i j w h]

/-! ### Event records -/

theorem Pkg.reg_pushFifo (p : Pkg) {q : Reg} (f : Nat) (ws : List Nat) (j : Nat) (h : q ≠ .LOG_FIFO_STAT) :
    (p.pushFifo f ws).reg q j = p.reg q j := by
  unfold Pkg.pushFifo
  simp only []
  split
  · exact Pkg.reg_setReg_ne _ _ _ _ (Ne.symm h)
  · split
    · exact Pkg.reg_setReg_ne _ _ _ _ (Ne.symm h)
    · rfl

theorem Pkg.reg_event (p : Pkg) {q : Reg} (code vat kind : Nat) (phys : Bool) (ix slate det j : Nat)
    (h : q ≠ .LOG_FIFO_STAT) : (p.event code vat kind phys ix slate det).reg q j = p.reg q j := p.reg_pushFifo _ _ _ h

theorem Pkg.getF_event (p : Pkg) {f : Fd} (code vat kind : Nat) (phys : Bool) (ix slate det j : Nat)
    (h : f.reg ≠ .LOG_FIFO_STAT) : (p.event code vat kind phys ix slate det).getF f j = p.getF f j := by
  unfold Pkg.getF; rw [p.reg_event _ _ _ _ _ _ _ _ h]

theorem Pkg.flag_event (p : Pkg) {f : Fd} (code vat kind : Nat) (phys : Bool) (ix slate det j : Nat)
    (h : f.reg ≠ .LOG_FIFO_STAT) : (p.event code vat kind phys ix slate det).flag f j = p.flag f j := by
  unfold Pkg.flag; rw [p.getF_event _ _ _ _ _ _ _ _ h]

/-! ### Cores, vats and other tables -/

@[simp] theorem Pkg.core_setCore_self (p : Pkg) (k : Nat) (c : Core) : (p.setCore k c).core k = c := by
  simp [Pkg.core, Pkg.setCore, Pkg.coreInit, Pkg.logCount]

theorem Pkg.core_setCore_ne (p : Pkg) {k j : Nat} (c : Core) (h : j ≠ k) : (p.setCore k c).core j = p.core j := by
  unfold Pkg.core Pkg.setCore; exact tget_tset_ne _ _ _ _ h

@[simp] theorem Pkg.core_onCore_self (p : Pkg) (k : Nat) (f : Core → Core) : (p.onCore k f).core k = f (p.core k) :=
  p.core_setCore_self k _

theorem Pkg.core_onCore_ne (p : Pkg) {k j : Nat} (f : Core → Core) (h : j ≠ k) : (p.onCore k f).core j = p.core j :=
  p.core_setCore_ne _ h

@[simp] theorem Pkg.core_event (p : Pkg) (code vat kind : Nat) (phys : Bool) (ix slate det k : Nat) :
    (p.event code vat kind phys ix slate det).core k = p.core k := by
  unfold Pkg.core Pkg.coreInit Pkg.logCount; simp

@[simp] theorem Pkg.vat_setVat_self (p : Pkg) (v : Nat) (x : Vat) : (p.setVat v x).vat v = x := by
  simp [Pkg.vat, Pkg.setVat]

theorem Pkg.vat_setVat_ne (p : Pkg) {v u : Nat} (x : Vat) (h : u ≠ v) : (p.setVat v x).vat u = p.vat u := by
  unfold Pkg.vat Pkg.setVat; exact tget_tset_ne _ _ _ _ h

@[simp] theorem Pkg.vat_event (p : Pkg) (code vat kind : Nat) (phys : Bool) (ix slate det v : Nat) :
    (p.event code vat kind phys ix slate det).vat v = p.vat v := by unfold Pkg.vat; simp

@[simp] theorem Pkg.collGrp_setColl_self (p : Pkg) (g : Nat) (x : CollGrp) : (p.setColl g x).collGrp g = x := by
  simp [Pkg.collGrp, Pkg.setColl]

@[simp] theorem Pkg.port_setPort_self (p : Pkg) (n : Nat) (x : Port) : (p.setPort n x).port n = x := by
  simp [Pkg.port, Pkg.setPort]

theorem Pkg.port_setPort_ne (p : Pkg) {n m : Nat} (x : Port) (h : m ≠ n) : (p.setPort n x).port m = p.port m := by
  unfold Pkg.port Pkg.setPort; exact tget_tset_ne _ _ _ _ h

@[simp] theorem Pkg.d2dMod_setMod_self (p : Pkg) (e m : Nat) (x : D2dMod) : (p.setMod e m x).d2dMod e m = x := by
  simp [Pkg.d2dMod, Pkg.setMod]

@[simp] theorem Pkg.pch_setPch_self (p : Pkg) (c : Nat) (x : Pch) : (p.setPch c x).pch c = x := by
  simp [Pkg.pch, Pkg.setPch]

theorem Pkg.pch_setPch_ne (p : Pkg) {c d : Nat} (x : Pch) (h : d ≠ c) : (p.setPch c x).pch d = p.pch d := by
  unfold Pkg.pch Pkg.setPch; exact tget_tset_ne _ _ _ _ h

@[simp] theorem Pkg.lgroup_setLgroup_self (p : Pkg) (g : Nat) (x : LGroup) : (p.setLgroup g x).lgroup g = x := by
  simp [Pkg.lgroup, Pkg.setLgroup]

end Sys2Proof.Machine
end

