-- ==== Sys2Proof/Laws/Run.lean ====
section
/-! SUPPORT. What a command answers where it acts: at a core, vat, stack, port or module; and what an op that reaches
issue finds. -/
namespace Sys2Proof.Machine

variable {s : State}

/-! ### Where a command acts -/

theorem onLive_alive (h : s.pkg.alive = true) (f : Memory → Pkg → Pkg) : onLive s f = .next (s.pkgTo (f s.mem)) := by
  simp [onLive, onPkg, h, State.pkgTo]

theorem onLiveDev_alive (h : s.pkg.alive = true) (f : Dev → Dev) :
    onLiveDev s f = .next { s with mem := (f ⟨s.mem, s.pkg⟩).mem, pkg := (f ⟨s.mem, s.pkg⟩).pkg } := by
  simp [onLiveDev, onDev, h]

theorem onLive_dead (h : s.pkg.alive = false) (f : Memory → Pkg → Pkg) : onLive s f = .next s := by
  simp [onLive, h]

theorem onLiveDev_dead (h : s.pkg.alive = false) (f : Dev → Dev) : onLiveDev s f = .next s := by
  simp [onLiveDev, h]

theorem onFirmware_on (h : s.pkg.fwOn = true) (f : Memory → Pkg → Pkg) : onFirmware s f = .next (s.pkgTo (f s.mem)) := by
  simp [onFirmware, onPkg, h, State.pkgTo]

theorem atCore_carries {id : BitVec 9} {k : Nat} (h : s.carries id k) (f : Memory → Nat → Pkg → Pkg) :
    atCore id s f = .next (s.pkgTo (f s.mem k)) := by
  simp [atCore, h.2.1, h.2.2, onLive_alive h.1]

theorem atCoreDev_carries {id : BitVec 9} {k : Nat} (h : s.carries id k) (f : Nat → Dev → Dev) :
    atCoreDev id s f = .next { s with mem := (f k ⟨s.mem, s.pkg⟩).mem, pkg := (f k ⟨s.mem, s.pkg⟩).pkg } := by
  simp [atCoreDev, h.2.1, h.2.2, onLiveDev_alive h.1]

theorem atPhys_live {id : BitVec 9} (h : s.pkg.alive = true) (i : s.pkg.isPhys id.toNat = true)
    (f : Memory → Nat → Pkg → Pkg) : atPhys id s f = .next (s.pkgTo (f s.mem id.toNat)) := by
  simp [atPhys, i, onLive_alive h]

theorem atVat_live {v : BitVec 2} (h : s.pkg.alive = true) (i : s.pkg.hasVat v.toNat = true)
    (f : Memory → Nat → Pkg → Pkg) : atVat v s f = .next (s.pkgTo (f s.mem v.toNat)) := by
  simp [atVat, i, onLive_alive h]

theorem atVatDev_live {v : BitVec 2} (h : s.pkg.alive = true) (i : s.pkg.hasVat v.toNat = true) (f : Nat → Dev → Dev) :
    atVatDev v s f = .next { s with mem := (f v.toNat ⟨s.mem, s.pkg⟩).mem, pkg := (f v.toNat ⟨s.mem, s.pkg⟩).pkg } := by
  simp [atVatDev, i, onLiveDev_alive h]

theorem atStack_live {n : BitVec 4} (h : s.pkg.alive = true) (i : s.pkg.hasVat (n.toNat / 4) = true)
    (f : Memory → Nat → Pkg → Pkg) : atStack n s f = .next (s.pkgTo (f s.mem n.toNat)) := by
  simp [atStack, i, onLive_alive h]

theorem atPch_live {n : BitVec 4} (c : BitVec 6) (h : s.pkg.alive = true) (i : s.pkg.hasVat (n.toNat / 4) = true)
    (f : Memory → Nat → Pkg → Pkg) : atPch n c s f = .next (s.pkgTo (f s.mem (n.toNat * 64 + c.toNat))) := by
  simp [atPch, i, onLive_alive h]

theorem atPchDev_live {n : BitVec 4} (c : BitVec 6) (h : s.pkg.alive = true) (i : s.pkg.hasVat (n.toNat / 4) = true)
    (f : Nat → Dev → Dev) : atPchDev n c s f = .next { s with
      mem := (f (n.toNat * 64 + c.toNat) ⟨s.mem, s.pkg⟩).mem, pkg := (f (n.toNat * 64 + c.toNat) ⟨s.mem, s.pkg⟩).pkg } := by
  simp [atPchDev, i, onLiveDev_alive h]

theorem atPort_live {n : BitVec 5} (h : s.pkg.alive = true) (i : n.toNat ≤ 17) (f : Memory → Nat → Pkg → Pkg) :
    atPort n s f = .next (s.pkgTo (f s.mem n.toNat)) := by
  simp [atPort, show ¬ 17 < n.toNat by omega, onLive_alive h]

theorem atModule_live {e : BitVec 4} {n : BitVec 5} (h : s.pkg.alive = true) (i : n.toNat < s.pkg.edgeModules e.toNat)
    (f : Memory → Nat → Nat → Pkg → Pkg) : atModule e n s f = .next (s.pkgTo (f s.mem e.toNat n.toNat)) := by
  simp [atModule, show ¬ s.pkg.edgeModules e.toNat ≤ n.toNat by omega, onLive_alive h]

@[simp] theorem State.pkgTo_mem (s : State) (f : Pkg → Pkg) : (s.pkgTo f).mem = s.mem := rfl
@[simp] theorem State.pkgTo_pkg (s : State) (f : Pkg → Pkg) : (s.pkgTo f).pkg = f s.pkg := rfl
@[simp] theorem State.pkgTo_pending (s : State) (f : Pkg → Pkg) : (s.pkgTo f).pending = s.pending := rfl
@[simp] theorem State.coreTo_mem (s : State) (k : Nat) (f : Core → Core) : (s.coreTo k f).mem = s.mem := rfl
@[simp] theorem State.coreTo_pkg (s : State) (k : Nat) (f : Core → Core) : (s.coreTo k f).pkg = s.pkg.onCore k f := rfl
@[simp] theorem State.pkgTo_core (s : State) (k : Nat) (f : Pkg → Pkg) : (s.pkgTo f).core k = (f s.pkg).core k := rfl
@[simp] theorem State.coreTo_core (s : State) (k : Nat) (f : Core → Core) : (s.coreTo k f).core k = f (s.core k) := by
  simp [State.core]

theorem State.pkgTo_congr {f g : Pkg → Pkg} (h : f s.pkg = g s.pkg) : s.pkgTo f = s.pkgTo g := by
  simp [State.pkgTo, h]

/-! ### A running core changed twice -/

theorem Pkg.coreInit_st_ne_run (p : Pkg) (k : Nat) : (p.coreInit k).st ≠ .run := by
  unfold Pkg.coreInit Core.init; dsimp only; split <;> (try split) <;> (try split) <;> simp

@[simp] theorem Pkg.coreInit_setCore (p : Pkg) (k j : Nat) (c : Core) : (p.setCore k c).coreInit j = p.coreInit j := rfl

/-- A core that runs, changed twice. -/
theorem Pkg.setCore_setCore (p : Pkg) (k : Nat) {c : Core} (d : Core) (h : c.st = .run) :
    (p.setCore k c).setCore k d = p.setCore k d := by
  have ne : c ≠ p.coreInit k := fun e => p.coreInit_st_ne_run k (e ▸ h)
  simp only [Pkg.setCore, Pkg.coreInit, Pkg.logCount]
  congr 1
  exact tset_tset _ _ _ _ ne

theorem Pkg.onCore_onCore (p : Pkg) (k : Nat) (f g : Core → Core) (h : (f (p.core k)).st = .run) :
    (p.onCore k f).onCore k g = p.onCore k fun c => g (f c) := by
  unfold Pkg.onCore
  rw [Pkg.core_setCore_self]
  exact p.setCore_setCore k _ h

/-! ### Ops that reach issue -/

theorem withOpc_opcOf {b opc : Nat} (h : opcOf b = opc) : withOpc b opc = b := by
  subst h; unfold withOpc opcOf fld; simp; omega

/-- The SC op of the bundle last dispatched executes. -/
theorem Pkg.takeSc_scNext {id : BitVec 9} {k opc : Nat} {bits : BitVec 64} {e : Entry} (h : s.scNext id k opc bits e) :
    s.pkg.takeSc k (withOpc bits.toNat opc) = .go e (s.pkg.onCore k Core.scDone) := by
  obtain ⟨⟨-, hr⟩, ho, hs, hb⟩ := h
  unfold State.core at hr hs
  simp only [Pkg.takeSc, hr, hs, withOpc_opcOf ho, hb, beq_self_eq_true, if_true]
  rfl

theorem Pkg.scOp_scNext {id : BitVec 9} {k opc : Nat} {bits : BitVec 64} {e : Entry} (h : s.scNext id k opc bits e)
    (f : Entry → Pkg → Pkg) : s.pkg.scOp k opc bits.toNat f = f e (s.pkg.onCore k Core.scDone) := by
  simp only [Pkg.scOp, Pkg.takeSc_scNext h]

/-- The op at the head of an engine's queue issues. -/
theorem Pkg.take_opNext {id : BitVec 9} {k opc bits : Nat} {eng : Eng} {e : Entry} {rest : List Entry}
    (h : s.opNext id k eng opc bits e rest) : s.pkg.take k eng (withOpc bits opc) = .go e (s.pkg.onCore k fun c => c.popQ eng) := by
  obtain ⟨⟨-, hr⟩, hh, hq, hk, hb, ho⟩ := h
  unfold State.core at hr hh hq
  simp only [Pkg.take, hr, hh, hq, hk, withOpc_opcOf ho, hb, beq_self_eq_true, Bool.and_self, if_true]
  rfl

@[simp] theorem Core.popQ_st (c : Core) (e : Eng) : (c.popQ e).st = c.st := by
  unfold Core.popQ; split <;> cases e <;> rfl

@[simp] theorem Core.scDone_st (c : Core) : c.scDone.st = c.st := rfl

end Sys2Proof.Machine
end

