-- ==== Sys2Proof/Laws/Mem.lean ====
section
/-! SUPPORT. Laws of the memory: every operation keeps its canonical form; what a byte reads after a write. -/
namespace Sys2Proof.Machine

/-! ### The canonical form -/

theorem memRises_iff (m : Memory) (lo : Nat) :
    memRises lo m = true ↔ (∀ c ∈ m, lo ≤ c.1) ∧ m.Pairwise (·.1 < ·.1) := by
  induction m generalizing lo with
  | nil => simp [memRises]
  | cons x t ih =>
    obtain ⟨k, b⟩ := x
    simp only [memRises, Bool.and_eq_true, decide_eq_true_eq, ih, List.mem_cons, forall_eq_or_imp, List.pairwise_cons]
    constructor
    · rintro ⟨h, g, p⟩
      exact ⟨⟨h, fun c m => by have := g c m; omega⟩, fun c m => by have := g c m; omega, p⟩
    · rintro ⟨⟨h, -⟩, g, p⟩
      exact ⟨h, fun c m => by have := g c m; omega, p⟩

/-- The canonical form: addresses rise strictly, no entry equals what its address reads as unlisted. -/
theorem Memory.wf_iff (m : Memory) : m.wf = true ↔ m.Pairwise (·.1 < ·.1) ∧ ∀ c ∈ m, c.2 ≠ memDefault c.1 := by
  simp [Memory.wf, memRises_iff]

theorem mem_memCells {a : Nat} {bs : List Byte} {c : Host.Cell} (h : c ∈ memCells a bs) :
    a ≤ c.1 ∧ c.1 < a + bs.length ∧ c.2 ≠ memDefault c.1 := by
  induction bs generalizing a with
  | nil => simp [memCells] at h
  | cons b t ih =>
    simp only [memCells] at h
    split at h
    · have := ih h; simp only [List.length_cons]; exact ⟨by omega, by omega, this.2.2⟩
    · rename_i hb
      rcases List.mem_cons.1 h with rfl | h
      · simpa using hb
      · have := ih h; simp only [List.length_cons]; exact ⟨by omega, by omega, this.2.2⟩

theorem memCells_rises (a : Nat) (bs : List Byte) : (memCells a bs).Pairwise (·.1 < ·.1) := by
  induction bs generalizing a with
  | nil => simp [memCells]
  | cons b t ih =>
    simp only [memCells]
    split
    · exact ih _
    · exact List.pairwise_cons.2 ⟨fun c h => by have := mem_memCells h; omega, ih _⟩

/-- Beyond the cells below `a`, a rising list holds none below it. -/
theorem le_of_mem_dropWhile {m : Memory} (h : m.Pairwise (·.1 < ·.1)) {a : Nat} {c : Host.Cell}
    (hc : c ∈ m.dropWhile fun c => decide (c.1 < a)) : a ≤ c.1 := by
  induction m with
  | nil => simp at hc
  | cons x t ih =>
    rw [List.dropWhile_cons] at hc
    split at hc
    · exact ih (List.pairwise_cons.1 h).2 hc
    · rename_i hx
      simp only [decide_eq_true_eq, Nat.not_lt] at hx
      rcases List.mem_cons.1 hc with rfl | hc
      · exact hx
      · have := (List.pairwise_cons.1 h).1 c hc; omega

theorem lt_of_mem_takeWhile {m : Memory} {a : Nat} {c : Host.Cell} (hc : c ∈ m.takeWhile fun c => decide (c.1 < a)) :
    c.1 < a := by
  have := List.mem_takeWhile_imp hc; simpa using this

/-- A write keeps the canonical form. -/
theorem Memory.wf_write {m : Memory} (h : m.wf = true) (a : Nat) (bs : List Byte) : (m.write a bs).wf = true := by
  unfold Memory.write
  split
  · exact h
  · rw [Memory.wf_iff] at h ⊢
    obtain ⟨p, n⟩ := h
    constructor
    · rw [List.pairwise_append, List.pairwise_append]
      refine ⟨⟨p.sublist (List.takeWhile_sublist _), memCells_rises _ _, ?_⟩, p.sublist (List.dropWhile_sublist _), ?_⟩
      · intro x hx y hy
        have := lt_of_mem_takeWhile hx; have := mem_memCells hy; omega
      · intro x hx y hy
        have := le_of_mem_dropWhile p hy
        rcases List.mem_append.1 hx with hx | hx
        · have := lt_of_mem_takeWhile hx; omega
        · have := mem_memCells hx; omega
    · intro c hc
      rcases List.mem_append.1 hc with hc | hc
      · rcases List.mem_append.1 hc with hc | hc
        · exact n c ((List.takeWhile_sublist _).subset hc)
        · exact (mem_memCells hc).2.2
      · exact n c ((List.dropWhile_sublist _).subset hc)

theorem Memory.wf_filter {m : Memory} (h : m.wf = true) (f : Host.Cell → Bool) : Memory.wf (m.filter f) = true := by
  rw [Memory.wf_iff] at h ⊢
  exact ⟨h.1.sublist List.filter_sublist, fun c hc => h.2 c (List.filter_sublist.subset hc)⟩

theorem Memory.wf_nil : Memory.wf [] = true := rfl

/-- Memory at reset has the canonical form. -/
theorem reset_memOk : State.reset.MemOk := rfl

/-! ### Reading a byte after a write -/

theorem byte_of_find (m : Memory) (b : Nat) : m.byte b = ((m.find? fun c => c.1 == b).map (·.2)).getD (memDefault b) := by
  unfold Memory.byte
  cases m.find? fun c => c.1 == b <;> rfl

theorem find_none {m : Memory} {b : Nat} (h : ∀ c ∈ m, c.1 ≠ b) : (m.find? fun c => c.1 == b) = none := by
  simpa using h

theorem memCells_byte (a : Nat) (bs : List Byte) (i : Nat) (h : i < bs.length) :
    (((memCells a bs).find? fun c => c.1 == a + i).map (·.2)).getD (memDefault (a + i)) = bs.getD i 0 := by
  induction bs generalizing a i with
  | nil => simp at h
  | cons b t ih =>
    simp only [List.length_cons] at h
    cases i with
    | zero =>
      simp only [memCells]
      split
      · rename_i e
        rw [find_none fun c hc => by have := mem_memCells hc; omega]
        simpa using (eq_of_beq e).symm
      · simp
    | succ j =>
      have e : a + (j + 1) = a + 1 + j := by omega
      have := ih (a + 1) j (by omega)
      simp only [memCells]
      split
      · rw [e]; simpa using this
      · rw [List.find?_cons_of_neg (by simp), e]; simpa using this

/-- A byte inside the written range reads what was written, any other what it read before. -/
theorem Memory.byte_write {m : Memory} (h : m.wf = true) (a : Nat) (bs : List Byte) (b : Nat) :
    (m.write a bs).byte b = if a ≤ b ∧ b < a + bs.length then bs.getD (b - a) 0 else m.byte b := by
  have p := ((Memory.wf_iff m).1 h).1
  unfold Memory.write
  split
  · rename_i e
    have : bs.length = 0 := by simpa using e
    rw [if_neg (by omega)]
  · rw [byte_of_find, List.find?_append, List.find?_append]
    split
    · rename_i hb
      have h1 : ((m.takeWhile fun c => decide (c.1 < a)).find? fun c => c.1 == b) = none :=
        find_none fun c hc => by have := lt_of_mem_takeWhile hc; omega
      have h2 : ((m.dropWhile fun c => decide (c.1 < a + bs.length)).find? fun c => c.1 == b) = none :=
        find_none fun c hc => by have := le_of_mem_dropWhile p hc; omega
      have := memCells_byte a bs (b - a) (by omega)
      rw [show a + (b - a) = b by omega] at this
      simpa [h1, h2] using this
    · rename_i hb
      have h1 : ((memCells a bs).find? fun c => c.1 == b) = none :=
        find_none fun c hc => by have := mem_memCells hc; omega
      rw [h1, byte_of_find]
      by_cases hl : b < a
      · have h2 : ((m.dropWhile fun c => decide (c.1 < a + bs.length)).find? fun c => c.1 == b) = none :=
          find_none fun c hc => by have := le_of_mem_dropWhile p hc; omega
        have h3 : ((m.dropWhile fun c => decide (c.1 < a)).find? fun c => c.1 == b) = none :=
          find_none fun c hc => by have := le_of_mem_dropWhile p hc; omega
        conv_rhs => rw [← List.takeWhile_append_dropWhile (p := fun c : Host.Cell => decide (c.1 < a)) (l := m)]
        rw [List.find?_append, h2, h3]; simp
      · have h2 : ((m.takeWhile fun c => decide (c.1 < a)).find? fun c => c.1 == b) = none :=
          find_none fun c hc => by have := lt_of_mem_takeWhile hc; omega
        have h3 : ((m.takeWhile fun c => decide (c.1 < a + bs.length)).find? fun c => c.1 == b) = none :=
          find_none fun c hc => by have := lt_of_mem_takeWhile hc; omega
        conv_rhs => rw [← List.takeWhile_append_dropWhile (p := fun c : Host.Cell => decide (c.1 < a + bs.length)) (l := m)]
        rw [List.find?_append, h2, h3]; simp

/-- A write leaves every byte outside its range. -/
theorem Memory.byte_write_ne {m : Memory} (h : m.wf = true) {a b : Nat} {bs : List Byte}
    (hb : ¬(a ≤ b ∧ b < a + bs.length)) : (m.write a bs).byte b = m.byte b := by
  rw [m.byte_write h, if_neg hb]

/-! ### Reading a range -/

theorem byte_cons_ne {k b : Nat} (x : Byte) (t : Memory) (h : k ≠ b) : Memory.byte ((k, x) :: t) b = Memory.byte t b := by
  rw [byte_of_find, byte_of_find, List.find?_cons_of_neg (by simpa using h)]

theorem byte_default {m : Memory} {b : Nat} (h : ∀ c ∈ m, c.1 ≠ b) : m.byte b = memDefault b := by
  rw [byte_of_find, find_none h]; rfl

theorem memTake_eq (n a : Nat) (l : Memory) (p : l.Pairwise (·.1 < ·.1)) (h : ∀ c ∈ l, a ≤ c.1) :
    memTake n a l = (List.range n).map fun i => l.byte (a + i) := by
  induction n generalizing a l with
  | zero => rfl
  | succ n ih =>
    rw [List.range_succ_eq_map, List.map_cons, List.map_map]
    have sh : ∀ i, a + (i + 1) = a + 1 + i := fun i => by omega
    cases l with
    | nil =>
      rw [memTake, ih (a + 1) [] p nofun]
      congr 1
      refine List.map_congr_left fun i _ => ?_
      rw [Function.comp_apply, Nat.succ_eq_add_one, sh i]
    | cons x t =>
      obtain ⟨k, b⟩ := x
      have pt := List.pairwise_cons.1 p
      have hk : a ≤ k := h (k, b) List.mem_cons_self
      rw [memTake]
      split
      · rename_i e
        have e : k = a := eq_of_beq e
        subst e
        rw [ih (k + 1) t pt.2 fun c hc => pt.1 c hc]
        congr 1
        · simp [byte_of_find]
        · refine List.map_congr_left fun i _ => ?_
          rw [Function.comp_apply, Nat.succ_eq_add_one, sh i]
          exact (byte_cons_ne b t (show k ≠ k + 1 + i by omega)).symm
      · rename_i e
        have e : k ≠ a := by simpa using e
        rw [ih (a + 1) ((k, b) :: t) p fun c hc => by
          rcases List.mem_cons.1 hc with rfl | hc
          · simp only; omega
          · have := pt.1 c hc; omega]
        congr 1
        · refine (byte_default fun c hc => ?_).symm
          rcases List.mem_cons.1 hc with rfl | hc
          · simpa using e
          · have := pt.1 c hc; omega
        · refine List.map_congr_left fun i _ => ?_
          rw [Function.comp_apply, Nat.succ_eq_add_one, sh i]

/-- A read of a range gives its bytes in order. -/
theorem Memory.read_eq {m : Memory} (h : m.wf = true) (a n : Nat) :
    m.read a n = (List.range n).map fun i => m.byte (a + i) := by
  have p := ((Memory.wf_iff m).1 h).1
  rw [Memory.read, memTake_eq n a _ (p.sublist (List.dropWhile_sublist _)) fun c hc => le_of_mem_dropWhile p hc]
  refine List.map_congr_left fun i _ => ?_
  have e : ((m.takeWhile fun c => decide (c.1 < a)).find? fun c => c.1 == a + i) = none :=
    find_none fun c hc => by have := lt_of_mem_takeWhile hc; omega
  rw [byte_of_find, byte_of_find]
  conv_rhs => rw [← List.takeWhile_append_dropWhile (p := fun c : Host.Cell => decide (c.1 < a)) (l := m)]
  rw [List.find?_append, e]; simp

/-! ### The operations over memory and package -/

theorem Dev.wf_setRind {d : Dev} (h : d.mem.wf = true) (a r : Nat) : (d.setRind a r).mem.wf = true := by
  unfold Dev.setRind; split
  · exact (Memory.wf_write h (rindEntry a) (leBytes 4 r) :)
  · exact h

theorem Dev.wf_foldl {α : Type} (f : Dev → α → Dev) (hf : ∀ d x, d.mem.wf = true → (f d x).mem.wf = true) (l : List α)
    {d : Dev} (h : d.mem.wf = true) : (l.foldl f d).mem.wf = true := by
  induction l generalizing d with
  | nil => exact h
  | cons x t ih => exact ih (hf d x h)

theorem Dev.wf_rewriteStaging {d : Dev} (h : d.mem.wf = true) (b : Nat) : (d.rewriteStaging b).mem.wf = true := by
  unfold Dev.rewriteStaging
  generalize List.replicate 4096 (0 : Byte) = zs
  exact Dev.wf_setRind (show (d.mem.write b zs).wf = true from Memory.wf_write h b zs) b _

theorem Dev.wf_writeUnit {d : Dev} (h : d.mem.wf = true) (u a : Nat) (bs : List Byte) :
    (d.writeUnit u a bs).mem.wf = true := by
  have w := fun a bs => Memory.wf_write h a bs
  unfold Dev.writeUnit
  simp only
  split
  · exact w _ _
  · split
    · split
      · split
        · exact h
        · exact Dev.wf_rewriteStaging (d := ⟨d.mem, d.pkg.ueMet d.mem u 2 3⟩) h _
      · exact h
    · exact w _ _

theorem Dev.wf_put {d : Dev} (h : d.mem.wf = true) (a : Nat) (bs : List Byte) : (d.put a bs).mem.wf = true := by
  unfold Dev.put; split
  · exact Memory.wf_write h _ _
  · exact Dev.wf_foldl _ (fun d b h => Dev.wf_writeUnit h (b / 8) a bs) _ h

theorem Dev.wf_putRind {d : Dev} (h : d.mem.wf = true) (a r : Nat) : (d.putRind a r).mem.wf = true := by
  unfold Dev.putRind; split
  · exact Dev.wf_put h _ _
  · exact Dev.wf_setRind h _ _

theorem Dev.wf_rindAfter {d : Dev} (h : d.mem.wf = true) (a : Nat) (bs : List Byte) (ra : RindAct) :
    (d.rindAfter a bs ra).mem.wf = true := by
  cases ra with
  | keep => exact h
  | correct => exact Dev.wf_putRind h _ _
  | invalid => exact Dev.wf_putRind h _ _

theorem Dev.wf_store {d : Dev} (h : d.mem.wf = true) (kind slate a : Nat) (bs : List Byte) (ra : RindAct) :
    (d.store kind slate a bs ra).mem.wf = true := by
  have g := Dev.wf_rindAfter (Dev.wf_put h a bs) a bs ra
  unfold Dev.store
  split <;> (repeat' split) <;> first | exact h | exact g

theorem Dev.wf_storeRind {d : Dev} (h : d.mem.wf = true) (kind slate a r : Nat) :
    (d.storeRind kind slate a r).mem.wf = true := by
  have g := Dev.wf_putRind h (blockOf a) r
  unfold Dev.storeRind
  split <;> (repeat' split) <;> first | exact h | exact g

theorem Dev.wf_clearCellar {d : Dev} (h : d.mem.wf = true) (v : Nat) : (d.clearCellar v).mem.wf = true :=
  Memory.wf_filter h _

theorem Dev.wf_badDelivery {d : Dev} (h : d.mem.wf = true) (kind a n src : Nat) :
    (d.badDelivery kind a n src).mem.wf = true := by
  unfold Dev.badDelivery; split
  · exact Dev.wf_foldl _ (fun d b h => Dev.wf_rewriteStaging h b) _ h
  · exact h

/-! ### The flash -/

/-- A read of the flash in one walk of its bytes. -/
theorem Flash.read_eq (f : Flash) (a n : Nat) (h : Tab.risesFrom 0 f.bytes = true) :
    f.read a n = trun 0xFF n a (f.bytes.dropWhile fun c => decide (c.1 < a)) := by
  rw [trun_eq _ _ _ _ (risesFrom_dropWhile _ 0 a h), Flash.read]
  exact List.map_congr_left fun i _ => (tget_dropWhile _ _ (by omega)).symm

end Sys2Proof.Machine
end

