-- ==== Sys2Proof/Laws/Queue.lean ====
section
/-! SUPPORT. What the queue operations of the pseudo-channels and the sending of requests can do: the former change the queues and
MC_BANK_STAT, the latter the cores and what was sent, and nothing else. -/
namespace Sys2Proof.Machine

/-- `q` is `p` with other pseudo-channels and another MC_BANK_STAT. -/
def Pkg.QueueOnly (p q : Pkg) : Prop :=
  (∃ chs rs, q = { p with pchs := chs, regs := rs }) ∧ ∀ r i, r ≠ .MC_BANK_STAT → q.reg r i = p.reg r i

theorem Pkg.QueueOnly.refl (p : Pkg) : p.QueueOnly p := ⟨⟨p.pchs, p.regs, rfl⟩, fun _ _ _ => rfl⟩

theorem Pkg.QueueOnly.trans {p q r : Pkg} (h : p.QueueOnly q) (g : q.QueueOnly r) : p.QueueOnly r := by
  obtain ⟨⟨_, _, rfl⟩, h⟩ := h
  obtain ⟨⟨c, w, rfl⟩, g⟩ := g
  exact ⟨⟨c, w, rfl⟩, fun x i n => (g x i n).trans (h x i n)⟩

theorem Pkg.QueueOnly.getF {p q : Pkg} (h : p.QueueOnly q) {f : Fd} (i : Nat) (n : f.reg ≠ .MC_BANK_STAT) : q.getF f i = p.getF f i := by
  unfold Pkg.getF
  rw [h.2 _ i n]

theorem Pkg.queueOnly_setPch (p : Pkg) (c : Nat) (x : Pch) : p.QueueOnly (p.setPch c x) := ⟨⟨_, _, rfl⟩, fun _ _ _ => rfl⟩

theorem Pkg.queueOnly_setF (p : Pkg) {f : Fd} (i v : Nat) (h : f.reg = .MC_BANK_STAT) : p.QueueOnly (p.setF f i v) :=
  ⟨⟨_, _, rfl⟩, fun _ j n => p.reg_setF_ne i j v (h ▸ n.symm)⟩

theorem Pkg.queueOnly_settleQueue (p : Pkg) (c : Nat) (x : Pch) : p.QueueOnly (p.settleQueue c x) :=
  (p.queueOnly_setF c _ rfl).trans (Pkg.queueOnly_setPch _ _ _)

theorem Pkg.queueOnly_memAccept (p : Pkg) (r : MemReq) : p.QueueOnly (p.memAccept r) := by
  unfold Pkg.memAccept
  split
  · exact p.queueOnly_settleQueue ..
  · exact p.queueOnly_settleQueue ..
  · exact .refl p

theorem Pkg.queueOnly_served (p : Pkg) (c : Nat) (r : MemReq) : p.QueueOnly (p.served c r) :=
  (p.queueOnly_setF c _ rfl).trans (Pkg.queueOnly_settleQueue _ _ _)

theorem Pkg.queueOnly_serveReq (p : Pkg) (c : Nat) (r : MemReq) (pays : Option Nat) : p.QueueOnly (p.serveReq c r pays) :=
  (p.queueOnly_setPch c _).trans (Pkg.queueOnly_served _ _ _)

theorem Pkg.queueOnly_serveNext {p q : Pkg} {c ready : Nat} {write : Bool} {r : MemReq}
    (h : p.serveNext c ready write = some (r, q)) : p.QueueOnly q ∧ r.write = write := by
  unfold Pkg.serveNext at h
  split at h
  · cases h
  · split at h
    · cases h
    · cases h
      exact ⟨p.queueOnly_serveReq .., by simp_all⟩

theorem Pkg.queueOnly_serveThis {p q : Pkg} {r : MemReq} (h : p.serveThis r = some q) : p.QueueOnly q := by
  unfold Pkg.serveThis at h
  dsimp only at h
  split at h
  · split at h
    · cases h; exact p.queueOnly_serveReq ..
    · cases h
  · cases h

theorem Pkg.queueOnly_direct {p q : Pkg} {kind a n : Nat} {write rind : Bool} (h : p.direct kind write rind a n = some q) :
    p.QueueOnly q := by
  have go (x : Pch) : (match x.q.find? fun r => r.op.isNone && r.kind == kind && r.write == write && r.addr == a with
      | some r => p.serveThis r
      | none =>
        let r : MemReq := ⟨0x10000 + kind, kind, write, a, n, rind, 0, p.time, [], none, false⟩
        if p.canAccept x x.held r then (p.memAccept r).serveThis r else none) = some q → p.QueueOnly q := by
    intro h
    split at h
    · exact queueOnly_serveThis h
    · dsimp only at h
      split at h
      · exact (p.queueOnly_memAccept _).trans (queueOnly_serveThis h)
      · cases h
  unfold Pkg.direct at h
  split at h
  · split at h
    · cases h; exact .refl p
    · exact go _ h
  · split at h
    · cases h; exact .refl p
    · exact go _ h
  · cases h; exact .refl p

theorem Pkg.queueOnly_directs {kind : Nat} {write rind : Bool} :
    ∀ {l : List (Nat × Nat)} {p q : Pkg}, p.directs kind write rind l = some q → p.QueueOnly q
  | [], p, q, h => by cases h; exact .refl p
  | (a, n) :: t, p, q, h => by
    unfold Pkg.directs at h
    split at h
    · exact (queueOnly_direct ‹_›).trans (queueOnly_directs h)
    · cases h

/-! ### Requests that leave their engine -/

theorem Pkg.leaves_only (p : Pkg) (k : Nat) (r : FabReq) : ∃ cs t, p.leaves k r = { p with cores := cs, tx := t } := by
  unfold Pkg.leaves
  dsimp only
  split
  · exact ⟨_, _, rfl⟩
  · split
    · split <;> exact ⟨_, _, rfl⟩
    · split <;> exact ⟨_, _, rfl⟩
    · split <;> exact ⟨_, _, rfl⟩

theorem Pkg.pump_only (k : Nat) (e : Eng) : ∀ (n : Nat) (p : Pkg), ∃ cs t, p.pump k e n = { p with cores := cs, tx := t }
  | 0, _ => ⟨_, _, rfl⟩
  | n + 1, p => by
    unfold Pkg.pump
    dsimp only
    split
    · exact ⟨_, _, rfl⟩
    · rename_i r _
      split
      · obtain ⟨c, t, h⟩ := Pkg.leaves_only (p.setCore k { (p.core k).spend e with unsent := (p.core k).unsent.erase r }) k r
        rw [h]
        exact Pkg.pump_only k e n _
      · exact ⟨_, _, rfl⟩

theorem Pkg.sendReqs_only (p : Pkg) (k : Nat) (e : Eng) (no : Nat) (as : List Nat) :
    ∃ cs t, p.sendReqs k e no as = { p with cores := cs, tx := t } := Pkg.pump_only ..

theorem Pkg.creditReturn_only (p : Pkg) (k : Nat) (e : Eng) : ∃ cs t, p.creditReturn k e = { p with cores := cs, tx := t } :=
  Pkg.pump_only ..

end Sys2Proof.Machine
end

