-- ==== Sys2Proof/WellFormed.lean ====
section
/-! DEFINITION. Well-formed commands: operands within the ranges the spec gives their kinds. The meanings are total; a
command that is not well-formed names something no sender can send. -/
namespace Sys2Proof

/-- A port number (R379). -/
def portOk (n : BitVec 5) : Bool := n.toNat < 18

/-- The bytes of a 4 KiB block. -/
def blockOk (b : Bytes) : Bool := b.length == 4096

/-- Is a command well-formed? -/
def Instr.wf : Instr → Bool
  | .diesTrained _ low => low.all fun x => x.1.toNat < 9
  | .portTrainDone port _ _ _ _ _ _ _ => portOk port
  | .portNoPartner port => portOk port
  | .thermtrip die temp => die.toNat < 5 && 110 ≤ temp.toNat
  | .brakeFall pin => pin.toNat != 1
  | .brakeRise pin => pin.toNat != 1
  | .tempSample vat0 vat1 vat2 vat3 hub stack =>
    [vat0, vat1, vat2, vat3, stack].all (·.length == 16) && hub.length == 8
  | .jtagInstruction code => 0 < code.toNat && code.toNat < 6
  | .d2dFlitReceive edge module _ _ _ payload _ => edge.toNat < 9 && module.toNat < 16 && payload.length == 250
  | .d2dFlitAck edge module _ _ => edge.toNat < 9 && module.toNat < 16
  | .d2dReplayLimit edge module _ => edge.toNat < 9 && module.toNat < 16
  | .d2dRetrainDone edge module _ => edge.toNat < 9 && module.toNat < 16
  | .d2dLaneThresh edge module _ lane => edge.toNat < 9 && module.toNat < 16 && lane.toNat < 68
  | .vatScanDone _ fails unit _ => fails.all (fun x => x.toNat < 100) && unit.toNat != 1 && unit.toNat < 6
  | .vatBootDone _ _ low => low.all fun x => x.1.toNat < 8
  | .creditReturn _ engine => engine.toNat < 6
  | .fabricRequestArrive _ engine die => engine.toNat < 6 && die.toNat < 6
  | .nop _ slot bits => slot.toNat < 6 && (1 ≤ slot.toNat && slot.toNat < 3 || bits.toNat < 2 ^ 64)
  | .xfBlockArrive _ _ tc _ _ _ _ data => blockOk data && (tc.toNat == 1 || tc.toNat == 2)
  | .cxBlockArrive _ _ _ _ _ _ count _ _ data _ => blockOk data && 0 < count.toNat && count.toNat ≤ 1024
  | .remoteSignalArrive _ _ tc _ _ _ _ => tc.toNat < 3
  | .wdogFire _ engine => engine.toNat < 5
  | .coreSctDataWrite _ _ word _ => word.toNat < 10
  | .mxCheck _ first again => (first ++ again).all fun u => u.row.toNat ≤ 64 && u.col.toNat ≤ 64
  | .memRequestAccept _ _ write _ len _ _ data => len.toNat ≤ 4096 && (!write || data.length == len.toNat)
  | .cellarAccess _ _ _ write data => !write || blockOk data
  | .portFlitReceive port _ payload _ syms _ => portOk port && payload.length == 312 && syms.all fun s => s.toNat < 272
  | .portFlitAck port _ _ _ => portOk port
  | .portReplayLimit port _ => portOk port
  | .portRetrainDone port _ _ => portOk port
  | .laneWindowEnd port => portOk port
  | .laneFail port lane => portOk port && lane.toNat < 5
  | .laneSignalLoss port lane => portOk port && lane.toNat < 5
  | .linkControlBlock port _ lane => portOk port && lane.toNat < 5
  | .packetRoute _ _ _ _ _ eng _ _ => eng.toNat < 6
  | .portRtDataWrite global entry _ => global || entry.toNat < 16
  | .guestPortState port => 15 ≤ port.toNat && port.toNat ≤ 17
  | .rejoinStateReceive _ _ _ _ seqs => seqs.length == 64
  | .rejoinCopyDone _ blocks => blocks.all fun x => blockOk x.2.2
  | .guestFrame port => 15 ≤ port.toNat && port.toNat ≤ 17
  | .registerWrite offset _ _ => offset.toNat % 8 == 0
  | .rcFieldRead offset => offset.toNat % 8 == 0
  | .pwrgdFall | .resetAssert | .resetRelease .. | .firmwareStart .. | .bootTestDone .. | .memoryClearDone
  | .linkTrainingStart | .bootReady | .clockLate | .timeInEdge | .gafferSample ..
  | .vatPllUnlock .. | .nr1PllUnlock | .hubSramUe
  | .vatResetRequest .. | .vatQuiesceDrained .. | .vatResetHoldEnd .. | .bundleDispatch .. | .icacheLineArrive ..
  | .branchResolve .. | .fillRefetchDone .. | .coreFaultThresh .. | .coreCeThresh .. | .coreSwapRequest ..
  | .coreSwapStart .. | .coreSwapDone | .scAdd .. | .scSub .. | .scAnd .. | .scOr .. | .scXor .. | .scShl .. | .scShr ..
  | .scSra .. | .scMul .. | .scMulhu .. | .scSlt .. | .scSltu .. | .scAddi .. | .scAndi .. | .scOri .. | .scXori ..
  | .scShli .. | .scShri .. | .scSrai .. | .scLih .. | .scBr .. | .scBrc .. | .scBri .. | .scLopen .. | .scLclose ..
  | .lcloseReport .. | .lcloseOutcome .. | .takeCommitDone .. | .scStep .. | .stepBoundary .. | .scEnd ..
  | .programEnd .. | .scCopen .. | .scCclose .. | .scRdsr .. | .scWrsr .. | .veAdd .. | .veSub .. | .veMul ..
  | .veFma .. | .veMax .. | .veMin .. | .veRcp .. | .veRsqrt .. | .veExp2 .. | .veLog2 .. | .veIadd .. | .veIsub ..
  | .veImul .. | .veAnd .. | .veOr .. | .veXor .. | .veSel .. | .veFcmp .. | .veIcmp .. | .vePlog .. | .veIota ..
  | .veBcast .. | .veXs .. | .veCvt .. | .veRsum .. | .veRmax .. | .veRmin .. | .veRssq .. | .veCmask .. | .veOsm ..
  | .veTopk .. | .veKld .. | .veLds .. | .veSts .. | .veGath .. | .mxLdw .. | .mxMma .. | .mxMmaFold .. | .mxCmul ..
  | .mxOut .. | .mxTone .. | .roomToneWindowEnd .. | .ldT .. | .ldPf .. | .ldInv .. | .ldBlockArrive ..
  | .stT .. | .storeDone .. | .stX .. | .xfAck .. | .stCx .. | .cxAck .. | .stAadd .. | .stAmax .. | .stAmin ..
  | .pressAtomicPerform .. | .stPress .. | .sySig .. | .syWait .. | .syDec .. | .syWtime .. | .syFence ..
  | .signalLeave .. | .signalApply .. | .decApply .. | .wtimeExpire .. | .fenceRelease .. | .reportArrive ..
  | .lossSample | .numLossStateWrite .. | .numLossSamplesWrite .. | .pressOpStart .. | .pressSlice ..
  | .pressOpDone .. | .digestGo | .digestDone | .memReadService .. | .memWriteService .. | .innerCountPoll ..
  | .scrubRead .. | .pinMarked .. | .rowRetired .. | .rowCopyDone .. | .mcMaintHold .. | .sppr .. | .hppr ..
  | .laneSoft .. | .laneHard .. | .undoSoft .. | .repairResult .. | .refusalReceive .. | .callRegister ..
  | .collArrivalReceive .. | .collAbortReceive .. | .ccloseDrained .. | .clapPeriod | .clapRequestReceive ..
  | .clapReplyReceive .. | .clapHoldover | .pkgLost .. | .leadTakeover .. | .takeoverReceive .. | .leaderless
  | .fwHeartbeat | .fwStalled .. | .contCheckStart | .contReportReceive .. | .contDecide | .contDeadline
  | .orderReceive .. | .sitoutRequest .. | .wdogHaltReport .. | .wdogHoldExpire | .poisonReportReceive ..
  | .supTimerExpire | .mpMemoryUe .. | .mpRestartDone | .ethLinkUp .. | .ethLinkDown .. | .ethFrameReceive ..
  | .vctCommandArrive .. | .discover | .getCert | .attest .. | .keyInstall .. | .regAccess | .memRead | .memWrite
  | .load | .start | .halt | .subscribe | .flashWrite .. | .svnCommit | .noticeSend | .forwardedRecordReceive ..
  | .guestAccess .. | .logFifoDataRead .. | .gaffGpioWrite .. | .powerUp | .powerDown | .lossReportReceive ..
  | .vatResetReport .. | .vatsReadyReport .. | .swapWantedReport .. => true

end Sys2Proof
end

