-- ==== Sys2Proof/Tests/Slice0.lean ====
section
/-! SUPPORT. Tests: the checks of WellFormed refuse an ill-formed term each; for every clause of a statement that has
hypotheses, a state and operands that meet them. -/
namespace Sys2Proof.Machine

set_option Elab.async false

/-! ### Ill-formed commands -/

theorem test_wf_edge : (Instr.diesTrained 0 [(9, 0)]).wf = false := by decide
theorem test_wf_train : (Instr.portTrainDone 18 0 0 false 0 0 0 0).wf = false := by decide
theorem test_wf_port : (Instr.portNoPartner 18).wf = false := by decide
theorem test_wf_therm : (Instr.thermtrip 0 109).wf = false := by decide
theorem test_wf_brake : (Instr.brakeFall 1).wf = false := by decide
theorem test_wf_brake_rise : (Instr.brakeRise 1).wf = false := by decide
theorem test_wf_temp : (Instr.tempSample [] [] [] [] [] []).wf = false := by decide
theorem test_wf_jtag : (Instr.jtagInstruction 6).wf = false := by decide
theorem test_wf_d2d_flit : (Instr.d2dFlitReceive 9 0 0 0 0 (List.replicate 250 0) []).wf = false := by decide
theorem test_wf_d2d_payload : (Instr.d2dFlitReceive 0 0 0 0 0 [] []).wf = false := by decide
theorem test_wf_d2d_ack : (Instr.d2dFlitAck 0 16 0 0).wf = false := by decide
theorem test_wf_d2d_limit : (Instr.d2dReplayLimit 9 0 0).wf = false := by decide
theorem test_wf_d2d_done : (Instr.d2dRetrainDone 0 16 true).wf = false := by decide
theorem test_wf_d2d_lane : (Instr.d2dLaneThresh 0 0 0 68).wf = false := by decide
theorem test_wf_scan : (Instr.vatScanDone 0 [100] 0 0).wf = false := by decide
theorem test_wf_scan_unit : (Instr.vatScanDone 0 [] 1 0).wf = false := by decide
theorem test_wf_boot : (Instr.vatBootDone 0 true [(8, 0)]).wf = false := by decide
theorem test_wf_credit : (Instr.creditReturn 0 6).wf = false := by decide
theorem test_wf_fabric : (Instr.fabricRequestArrive 0 0 6).wf = false := by decide
theorem test_wf_nop : (Instr.nop 0 6 0).wf = false := by decide
theorem test_wf_nop_bits : (Instr.nop 0 3 0x10000000000000000).wf = false := by decide
theorem test_wf_xf : (Instr.xfBlockArrive 0 0 1 0 false 0 0 []).wf = false := by decide
theorem test_wf_cx : (Instr.cxBlockArrive 0 0 0 0 0 0 1 0 0 []).wf = false := by decide
theorem test_wf_signal : (Instr.remoteSignalArrive 0 0 3 0 0 0 0).wf = false := by decide
theorem test_wf_wdog : (Instr.wdogFire 0 5).wf = false := by decide
theorem test_wf_sct : (Instr.coreSctDataWrite 0 0 10 0).wf = false := by decide
theorem test_wf_request : (Instr.memRequestAccept 0 0 true 0 64 false 0 [0]).wf = false := by decide
theorem test_wf_request_len : (Instr.memRequestAccept 0 0 false 0 4097 false 0 []).wf = false := by decide
theorem test_wf_check : (Instr.mxCheck 0 [⟨0, 0, 65, 0, 0⟩] []).wf = false := by decide
theorem test_wf_cellar : (Instr.cellarAccess 0 0 [] true [0]).wf = false := by decide
theorem test_wf_flit : (Instr.portFlitReceive 0 0 [] 0 []).wf = false := by decide
theorem test_wf_flit_ack : (Instr.portFlitAck 18 0 false).wf = false := by decide
theorem test_wf_replay : (Instr.portReplayLimit 18).wf = false := by decide
theorem test_wf_retrain : (Instr.portRetrainDone 18 0 0).wf = false := by decide
theorem test_wf_window : (Instr.laneWindowEnd 18).wf = false := by decide
theorem test_wf_lane : (Instr.laneFail 0 5).wf = false := by decide
theorem test_wf_lane_signal : (Instr.laneSignalLoss 0 5).wf = false := by decide
theorem test_wf_control : (Instr.linkControlBlock 0 true 5).wf = false := by decide
theorem test_wf_packet : (Instr.packetRoute 0 0 0 0 0 6 none []).wf = false := by decide
theorem test_wf_route : (Instr.portRtDataWrite false 16 0).wf = false := by decide
theorem test_wf_guest_port : (Instr.guestPortState 14).wf = false := by decide
theorem test_wf_rejoin : (Instr.rejoinStateReceive 0 0 0 0 []).wf = false := by decide
theorem test_wf_copy : (Instr.rejoinCopyDone true [(0, 0, [])]).wf = false := by decide
theorem test_wf_guest_frame : (Instr.guestFrame 18).wf = false := by decide
theorem test_wf_write : (Instr.registerWrite 4 0).wf = false := by decide
theorem test_wf_read : (Instr.rcFieldRead 4).wf = false := by decide

/-! ### States for the witnesses -/

/-- A package out of reset: vats READY, fuses of a TRM-416. -/
def live : State := State.reset.pkgTo fun p =>
  { p with pins := { p.pins with resetN := true }, vats := (List.range 4).map fun v => (v, { Vat.init with st := .ready }) }

/-- The live package with a part of it changed. -/
def liveTo (f : Pkg → Pkg) : State := live.pkgTo f

/-- Core 0 runs, changed by `f`. -/
def runTo (f : Core → Core) : State := liveTo fun p => p.setCore 0 (f (Core.init .run))

/-- An entry of the given slot bits, as a bundle at index 3 with slate 5 leaves it. -/
def ent (bits : Nat) : Entry := ⟨.op, bits, 5, 3, 0, [(1, 7), (2, 9)], none⟩

/-- Core 0 runs and its last bundle's SC slot waits to execute. -/
def scAt (bits : Nat) : State := runTo fun c => { c with fe := { c.fe with sc := some (ent bits) } }

/-- Core 0 runs and an op stands at the head of an engine's queue. -/
def opAt (eng : Eng) (bits : Nat) : State := runTo fun c => c.setQueue eng [ent bits]

/-- The package with fields of registers written. -/
def Pkg.withF (p : Pkg) (fs : List (Fd × Nat × Nat)) : Pkg := fs.foldl (fun p f => p.setF f.1 f.2.1 f.2.2) p

/-- The package with a route over port 3 to package 9. -/
def routed (p : Pkg) : Pkg :=
  (p.setReg .PORT_RT_DATA (rtInst 0 9) (BitVec.ofNat 64 (0x8000000000000000 + 0x200 + 0x3 * 16 + 1))).setF F.PORT_STATUS.STATE 3 4
/-! ### The machine, front end and scalar ops -/

theorem test_AbsentAndStopped_units : let p : Pkg := { live.pkg with fuse := { live.pkg.fuse with vatMask := 1 } }
    ∀ c ∈ ([.branchResolve 127, .storeDone 127 0 0, .coreFaultThresh 127, .vatResetHoldEnd 1, .vatBootDone 1 true [], .mcMaintHold 4 true,
      .innerCountPoll 4 0 0, .portNoPartner 18, .d2dRetrainDone 15 0 true] : List Instr), c.atAbsent p = true := by decide

theorem test_AbsentAndStopped_dead : State.reset.pkg.alive = false ∧ (Instr.bootReady).actsStopped = false ∧
    (Instr.vatResetHoldEnd 0).atAbsent State.reset.pkg = false := by decide

theorem test_FusesKept : ∃ t, exec .bootReady live = .next t ∧ ∀ b f g, Instr.bootReady ≠ .resetRelease b f (some g) :=
  ⟨_, rfl, fun _ _ _ h => nomatch h⟩

theorem test_LogRecords_fits : let p := live.pkg.setF F.LOG_FIFO_CFG.LEVEL 0 2
    (p.fifo 0).length + [1, 2].length ≤ p.fifoDepth 0 ∧ p.getF F.LOG_FIFO_CFG.LEVEL 0 ≠ 0 ∧
    (p.fifo 0).length < p.getF F.LOG_FIFO_CFG.LEVEL 0 ∧ p.getF F.LOG_FIFO_CFG.LEVEL 0 ≤ (p.fifo 0).length + [1, 2].length := by
  decide

theorem test_LogRecords_full : live.pkg.fifoDepth 1 < (live.pkg.fifo 1).length + (List.replicate 4097 0).length := by
  rw [List.length_replicate]; decide

/-- Firmware runs. -/
def fwState : State := liveTo fun p => { p with boot := { p.boot with image := some 0 } }.withF [(F.CFG_BOOT.PHASE, 0, 8)]

theorem test_LogRecords_read : fwState.pkg.fwOn = true ∧ fwState.pkg.fifo 0 = [] ∧
    ({ fwState.pkg with fifos := [(0, [5])] } : Pkg).fifo 0 = [5] ∧ [(5 : Word)].length ≤ 1 := by decide

theorem test_StepKeepsInv : live.Inv := by unfold State.Inv State.MemOk; decide

theorem test_ClapperNeverFalls : (live.pkg.setF F.CLAP_STAT.STATE 0 1).getF F.CLAP_STAT.STATE 0 ≠ 0 := by decide

theorem test_ScalarArithmetic : ∀ o ∈ [0x01, 0x02, 0x03, 0x04, 0x05, 0x06, 0x07, 0x08, 0x09, 0x0A, 0x0B, 0x0C, 0x10, 0x11,
    0x12, 0x13, 0x14, 0x15, 0x16, 0x17], (scAt (o + 0x103300)).scNext 0 0 o (BitVec.ofNat 64 (o + 0x103300)) (ent (o + 0x103300)) := by
  unfold State.scNext State.running State.carries State.core; decide

theorem test_ControlFlow_branches : ∀ o ∈ [0x20, 0x21, 0x22],
    (scAt o).scNext 0 0 o (BitVec.ofNat 64 o) (ent o) := by
  unfold State.scNext State.running State.carries State.core; decide

theorem test_ControlFlow_cond : ∀ c ∈ [0, 1, 2, 3, 4, 5], fld (0x21 + c * 256) 10 8 = c ∧
    (scAt (0x21 + c * 256)).scNext 0 0 0x21 (BitVec.ofNat 64 (0x21 + c * 256)) (ent (0x21 + c * 256)) := by
  unfold State.scNext State.running State.carries State.core; decide

/-- Core 0 runs with dispatch held. -/
def holdAt (h : Hold) : State := runTo fun c => { c with fe := { c.fe with hold := h } }

theorem test_ControlFlow_resolve : (holdAt (.branch 4)).running 0 0 ∧ ((holdAt (.branch 4)).core 0).fe.hold = .branch 4 := by
  unfold State.running State.carries State.core; decide

/-- Core 0's bracket is open: group 1, layer 2. -/
def inBr (s : State) : State := s.pkgTo fun p => p.withF [(F.CORE_BRACKET.OPEN, 0, 1), (F.CORE_BRACKET.GROUP, 0, 1), (F.CORE_BRACKET.LAYER, 0, 2)]

theorem test_ControlFlow_step : (scAt 0x32).scNext 0 0 0x32 0x32 (ent 0x32) ∧ (scAt 0x32).pkg.flag F.CORE_BRACKET.OPEN 0 = false ∧
    (inBr (scAt 0x32)).scNext 0 0 0x32 0x32 (ent 0x32) ∧ (inBr (scAt 0x32)).pkg.flag F.CORE_BRACKET.OPEN 0 = true ∧
    (scAt 0x33).scNext 0 0 0x33 0x33 (ent 0x33) := by
  unfold State.scNext State.running State.carries State.core; decide

theorem test_ControlFlow_ends : (holdAt (.ending 1)).running 0 0 ∧ ((holdAt (.ending 1)).core 0).fe.hold = .ending 1 ∧
    ((holdAt (.ending 1)).core 0).drained = true ∧ (holdAt (.ending 1)).pkg.getF F.CLAP_CONT_STATE.STATE 0 = 0 := by
  unfold State.running State.carries State.core; decide

theorem test_ControlFlow_boundary : (holdAt (.step 1)).running 0 0 ∧ ((holdAt (.step 1)).core 0).fe.hold = .step 1 ∧
    ((holdAt (.step 1)).core 0).drained = true ∧ (holdAt (.step 1)).pkg.orders = [] ∧ (holdAt (.step 1)).pkg.lead.donate = [] ∧
    (holdAt (.step 1)).pkg.lead.join = none ∧ (holdAt (.step 1)).pkg.swap = none ∧
    (holdAt (.step 1)).pkg.getF F.CLAP_CONT_STATE.STATE 0 = 0 := by
  unfold State.running State.carries State.core; decide

theorem test_SpecialRegisters : ∀ r ∈ [0, 1, 2, 3, 4, 5, 6], fld (0x38 + r * 0x2000) 16 13 = r ∧
    (scAt (0x38 + r * 0x2000)).scNext 0 0 0x38 (BitVec.ofNat 64 (0x38 + r * 0x2000)) (ent (0x38 + r * 0x2000)) ∧
    (scAt (0x38 + r * 0x2000)).pkg.logicalOf 0 = some 0 := by
  unfold State.scNext State.running State.carries State.core; decide

theorem test_SpecialRegisters_loss : (scAt 0x4C039).scNext 0 0 0x39 0x4C039 (ent 0x4C039) := by
  unfold State.scNext State.running State.carries State.core; decide

/-- Layer group 1 has core 0 as its only member and director. -/
def grouped (s : State) : State := s.pkgTo fun p => (p.setReg .NUM_GRP_MASK0 1 1).withF [(F.NUM_GRP_DIR.DIRECTOR, 1, 112)]

theorem test_LayerBrackets_open : let s := grouped (scAt 0x0001000200000030)
    s.scNext 0 0 0x30 0x0001000200000030 (ent 0x0001000200000030) ∧ s.pkg.flag F.CORE_BRACKET.OPEN 0 = false ∧
    s.pkg.logicalOf 0 = some 0 ∧ s.pkg.grpValid (fld 0x0001000200000030 55 48) = true ∧
    s.pkg.isMember (fld 0x0001000200000030 55 48) 0 = true := by
  unfold State.scNext State.running State.carries State.core; decide

theorem test_LayerBrackets_nested : let s := inBr (scAt 0x30)
    s.scNext 0 0 0x30 0x30 (ent 0x30) ∧ s.pkg.flag F.CORE_BRACKET.OPEN 0 = true := by
  unfold State.scNext State.running State.carries State.core; decide

theorem test_LayerBrackets_close : let s := inBr (scAt 0x0000000200000331)
    s.scNext 0 0 0x31 0x0000000200000331 (ent 0x0000000200000331) ∧ s.pkg.flag F.CORE_BRACKET.OPEN 0 = true ∧
    s.pkg.getF F.CORE_BRACKET.LAYER 0 = fld 0x0000000200000331 47 32 := by
  unfold State.scNext State.running State.carries State.core; decide

theorem test_LayerBrackets_report : let s := inBr (holdAt (.lclose 3 5))
    s.running 0 0 ∧ (s.core 0).fe.hold = .lclose 3 5 ∧ (s.core 0).bracketDone = true ∧ s.pkg.logicalOf 0 = some 0 := by
  unfold State.running State.carries State.core; decide

/-- An outcome on its way to core 0. -/
def outcome : State := (inBr (holdAt (.outcome 3 5))).pkgTo fun p => { p with outs := [⟨0, 2, 0x102⟩] }

theorem test_LayerBrackets_outcome : outcome.running 0 0 ∧ (outcome.core 0).fe.hold = .outcome 3 5 ∧
    outcome.pkg.outs.find? (fun o => some o.core == outcome.pkg.logicalOf 0) = some ⟨0, 2, 0x102⟩ := by
  unfold State.running State.carries State.core; decide

theorem test_LayerBrackets_take : ∀ word ∈ [0, 1], let tk : Tab TakeEnt := [(0x40100, ⟨7, true⟩), (0x40200, ⟨8, false⟩)]
    let s := (inBr (runTo fun c => { c with fe := { c.fe with hold := .take 3 word 5 }, take := tk }))
    s.running 0 0 ∧ (s.core 0).fe.hold = .take 3 word 5 ∧ (word % 4 = 0 ↔ word = 0) ∧ s.MemOk ∧ s.sound ∧
      (s.core 0).take = tk ∧ Tab.risesFrom 0 tk = true ∧
      ∀ x ∈ tk, s.pkg.place (x.1 * 4096) = .user 0 ∧ s.pkg.vatReady 0 = true ∧ s.pkg.held (stackOf (x.1 * 4096)) = false ∧
        s.pkg.inCave (x.1 * 4096) = false := by
  unfold State.running State.carries State.MemOk State.sound State.core; decide +kernel

/-- Core 0 runs a program of 8 bundles in its first instruction line, which holds the bundle `b` first. -/
def textAt (b : Nat) : State := runTo fun c =>
  { c with hdr := { c.hdr with bundles := 8 }, ic := [(0, ⟨BitVec.ofNat 4096 b, 0⟩)] }

theorem test_FrontEnd_bad : let s := textAt 0
    s.running 0 0 ∧ (s.core 0).feFree = true ∧ (s.core 0).fe.ptr < (s.core 0).hdr.bundles ∧
    tfind (s.core 0).ic 0 = some ⟨0, 0⟩ ∧ fld (bundleIn 0 0) 27 24 ≠ 1 := by
  unfold State.running State.carries State.core; decide +kernel

/-- A bundle with a scalar add, a vector add and a wait that serves the vector engine. -/
def bundle : Nat := 0x22C10000000000000000000000000000000000000000000000000000000000000000000000000000006000000000001033010000000001230005

theorem test_FrontEnd_good : let s := textAt bundle
    let b := bundleIn (BitVec.ofNat 4096 bundle) 0
    (s.running 0 0 ∧ (s.core 0).feFree = true ∧ (s.core 0).fe.ptr < (s.core 0).hdr.bundles ∧
    tfind (s.core 0).ic 0 = some ⟨BitVec.ofNat 4096 bundle, 0⟩ ∧
    ¬(fld b 27 24 ≠ 1 ∨ fld b 63 28 ≠ 0 ∨ fld b 23 22 ≠ 0) ∧ (s.core 0).room (slotsOf b) = true) ∧
    (slotsOf b).sc = some 0x0103301 ∧ aloneOp (opcOf 0x0103301) = false := by
  unfold State.running State.carries State.core; decide +kernel

theorem test_FrontEnd_ahead : let s := runTo fun c =>
      { c with hdr := { c.hdr with text := 0x40000000, bundles := 16 } }
    s.running 0 0 ∧ (s.core 0).fe.miss = none ∧ (s.core 0).fetchStops = false ∧
    0x200001 = (s.core 0).lineOf (s.core 0).fe.ptr + 1 ∧ thas (s.core 0).ic 0x200001 = false ∧
    0x200001 * 512 < (s.core 0).hdr.text + 64 * (s.core 0).hdr.bundles ∧ s.pkg.place (0x200001 * 512) = .user 0 ∧
    (s.pkg.direct 7 false false (0x200001 * 512) 512).map (fun q => (q.vatReady 0, q.held (stackOf (0x200001 * 512)),
      q.badRange (0x200001 * 512) 512)) = some (true, false, false) := by
  unfold State.running State.carries State.core; decide +kernel

theorem test_FrontEnd_line : let s := runTo fun c => { c with fe := { c.fe with miss := some 0x200000 } }
    s.running 0 0 ∧ (s.core 0).fe.miss = some 0x200000 ∧ s.pkg.place (0x200000 * 512) = .user 0 ∧
    (s.pkg.direct 7 false false (0x200000 * 512) 512).map (fun q => (q.vatReady 0, q.held (stackOf (0x200000 * 512)),
      q.badRange (0x200000 * 512) 512)) = some (true, false, false) := by
  unfold State.running State.carries State.core; decide +kernel

theorem test_FrontEnd_nop : ∀ e ∈ [Eng.ve, .mx, .ld, .st],
    let s := runTo fun c => c.setQueue e [{ ent 0 with kind := .nop }]
    s.running 0 0 ∧ Eng.ofSlot e.slot = some e ∧ (s.core 0).heldAt e = false ∧
    (s.core 0).queue e = [{ ent 0 with kind := .nop }] := by
  unfold State.running State.carries State.core; decide

theorem test_CoreSwap_thresholds : let p := { live.pkg with faultBy := [(5, 3, 1)], ceBy := [(5, 3)] }
    p.alive = true ∧ p.isPhys 5 = true ∧ tfind p.faultBy 5 = some (3, 1) ∧ p.flag F.CORE_FAULT.SWAP_WANTED 5 = false ∧
    tfind p.ceBy 5 = some 3 ∧ 3 ≠ 255 := by decide

theorem test_CoreSwap_request : live.carries 5 5 ∧ isDirIdx (5 % 128) = false ∧ live.pkg.swap = none ∧
    (live.core 97).st = .spare ∧ live.pkg.vatReady 0 = true ∧ ((live.core 5).st = .idle ∨ (live.core 5).st = .halt) ∧
    (runTo id).carries 0 0 ∧ ¬(((runTo id).core 0).st = .idle ∨ ((runTo id).core 0).st = .halt) := by
  unfold State.carries State.core; decide

/-- A swap of logical core 0 by spare 97. -/
def swapping (run : Bool) (st : CoreSt) : State := liveTo fun p =>
  { p.setCore 0 { Core.init st with s := [(1, 7)] } with swap := some ⟨0, 97, run, .idle⟩ }

theorem test_CoreSwap_start : let s := swapping false .halt
    s.pkg.alive = true ∧ s.pkg.swap = some ⟨0, 97, false, .idle⟩ ∧ s.pkg.physOf 0 = some 0 ∧ (s.core 0).swapPoint = true ∧
    97 ≠ 0 ∧ s.pkg.vatReady 0 = true ∧ (s.core 97).st = .spare := by
  unfold State.core; decide

theorem test_CoreSwap_done : let s := swapping true .swap
    s.pkg.alive = true ∧ s.pkg.swap = some ⟨0, 97, true, .idle⟩ ∧ s.pkg.physOf 0 = some 0 ∧
    (s.pkg.vat 0).st ≠ .quiesce ∧ 97 ≠ 0 ∧ (s.core 0).held = [] ∧
    s.pkg.getF F.CLAP_CONT_STATE.STATE 0 = 0 ∧ isDirIdx 0 = false ∧ 97 % 128 ≠ 0x7F := by
  unfold State.core; decide

/-! ### The vector engine -/

/-- Core 0 runs with an op at the head of the vector engine's queue, vector registers 1 and 2 and predicate 1 set. -/
def veAt (bits : Nat) : State := runTo fun c =>
  { c.setQueue .ve [ent bits] with v := [(1, BitVec.ofNat 2048 0x40400000C000000040000000), (2, 5)], p := [(1, 0x7)] }

/-- Operand fields of the vector witnesses: vd 3, va 1, vb 2, vc 4, predicate 1 with PEN, scalars s1 and s2, pd 2. -/
def veForm : Nat := 0x3 * 0x100 + 0x1 * 0x4000 + 0x2 * 0x100000 + 0x4 * 0x4000000 + 0x9 * 0x100000000 + 0x1 * 0x100000000000 +
  0x2 * 0x2000000000000 + 0x2 * 0x800000000000000000

theorem test_VectorLanes : ∀ o ∈ [0x60, 0x61, 0x62, 0x63, 0x64, 0x65, 0x66, 0x67, 0x68, 0x69, 0x70, 0x71, 0x72, 0x73, 0x74, 0x75],
    (veAt (o + veForm)).opNext 0 0 .ve o (o + veForm) (ent (o + veForm)) [] := by
  unfold State.opNext State.running State.carries State.core; decide

theorem test_VectorResults : ∀ o ∈ [0x78, 0x79, 0x7A, 0x90, 0x77, 0x7C, 0x7D, 0x84, 0x85, 0x86, 0x87, 0xA0],
    (veAt (o + veForm)).opNext 0 0 .ve o (o + veForm) (ent (o + veForm)) [] := by
  unfold State.opNext State.running State.carries State.core; decide

theorem test_VectorScratch : ∀ o ∈ [0xA2, 0xA1, 0x7E],
    (veAt (o + veForm)).opNext 0 0 .ve o (o + veForm) (ent (o + veForm)) [] := by
  unfold State.opNext State.running State.carries State.core; decide

/-- VE.GATH over lane indices that lie in scratch, and over one that does not. -/
def gathAt (i : Nat) : State := runTo fun c =>
  { c.setQueue .ve [ent (0xA2 + veForm)] with v := [(1, BitVec.ofNat 2048 i)], p := [(1, 1)], hdr := { c.hdr with scratchWays := 8 } }

theorem test_VectorScratch_gath : let s := gathAt 5
    let x := veOp (0xA2 + veForm)
    let p := s.issued 0 .ve 0
    s.opNext 0 0 .ve 0xA2 (0xA2 + veForm) (ent (0xA2 + veForm)) [] ∧
    ∀ l, l < 64 → (p.core 0).active x l = true →
      sc32 (ent (0xA2 + veForm)) x.sa + 4 * (lanesOf ((p.core 0).vreg x.va)).getD l 0 + 4 ≤ p.scratch 0 := by
  unfold State.opNext State.running State.carries State.core; decide +kernel

theorem test_VectorScratch_outside : let s := gathAt 0x800000
    let x := veOp (0xA2 + veForm)
    let p := s.issued 0 .ve 0
    s.opNext 0 0 .ve 0xA2 (0xA2 + veForm) (ent (0xA2 + veForm)) [] ∧ (p.core 0).active x 0 = true ∧
      p.scratch 0 < sc32 (ent (0xA2 + veForm)) x.sa + 4 * (lanesOf ((p.core 0).vreg x.va)).getD 0 0 + 4 := by
  unfold State.opNext State.running State.carries State.core; decide +kernel

theorem test_VectorTraining : (∀ o ∈ [0x80, 0x91, 0x93],
      (veAt (o + veForm)).opNext 0 0 .ve o (o + veForm) (ent (o + veForm)) []) ∧
    (veAt (0x92 + veForm + 0x40000000000000000000)).opNext 0 0 .ve 0x92 (0x92 + veForm + 0x40000000000000000000)
      (ent (0x92 + veForm + 0x40000000000000000000)) [] ∧
    (veOp (0x92 + veForm + 0x40000000000000000000)).init = true ∧ (veOp veForm).vd ≠ (veOp veForm).vc ∧
    (veOp (veForm + 0x8000000000000000)).blk = true ∧ (veOp veForm).blk = false := by
  unfold State.opNext State.running State.carries State.core; decide

/-! ### The matrix engine -/

def ldwBits : Nat := 0x10 + 0x1 * 0x100 + 0x1 * 0x40000 + 0x1 * 0x200000000
def mmaBits : Nat := 0x11 + 0x3 * 0x200 + 0x1 * 0x10000 + 0x1 * 0x4000000 + 0x1 * 0x20000000000
def cmulBits : Nat := 0x12 + 0x1 * 0x200000 + 0x1 * 0x4000000
def foldBits : Nat := 0x11 + 0x1 * 0x100 + 0x1 * 0x200000 + 0x1 * 0x2000000000 + 0x1 * 0x400000000000000
def outBits : Nat := 0x13 + 0x1 * 0x100000 + 0x4 * 0x4000000
def toneBits : Nat := 0x14 + 0x8 * 0x200

theorem test_MatrixWeightsLoaded : let s := opAt .mx ldwBits
    let x := ldwOp ldwBits
    let c := (s.mxIssued 0 0 []).core 0
    s.opNext 0 0 .mx 0x10 ldwBits (ent ldwBits) [] ∧ s.mxClear 0 0 (fun c => max (tget 0 c.mxFree (4 + x.arr))
      (c.commitCc fun y => y.folds [] [x.arr] || y.tags.contains (x.arr, (c.shaBuf x.arr).tag))) [] ∧
      c.foldBusy [] [x.arr] = false ∧ c.tagBusy x.arr (c.shaBuf x.arr).tag = false ∧ x.fill = false := by
  unfold State.opNext State.running State.carries State.mxClear State.core; decide

theorem test_MatrixMultiply : let s := opAt .mx mmaBits
    let x := mmaOp mmaBits
    let as := arraysOf x.amask
    let c := (s.mxIssued 0 0 as).core 0
    s.opNext 0 0 .mx 0x11 mmaBits (ent mmaBits) [] ∧ bitOf mmaBits 8 = false ∧
      s.mxClear 0 0 (fun c => max (c.streamFree as x.swap)
        (c.commitCc (·.folds (as.map fun a => a * 8 + x.bank) as))) as ∧
      c.foldBusy (as.map fun a => a * 8 + x.bank) as = false ∧
      (∀ a ∈ as, (c.usedBuf x.swap a).fits x.fmt x.blk x.bsz = true) ∧ x.fill = false ∧ as = [0, 1] := by
  unfold State.opNext State.running State.carries State.mxClear State.core; decide

theorem test_MatrixComplex : let s := opAt .mx cmulBits
    let x := cmulOp cmulBits
    let c := (s.mxIssued 0 0 [0, 1]).core 0
    s.opNext 0 0 .mx 0x12 cmulBits (ent cmulBits) [] ∧ x.gauss = false ∧
      s.mxClear 0 0 (fun c => max (c.streamFree [0, 1] x.swap) (c.commitCc (·.folds [x.bank, 8 + x.bank] [0, 1]))) [0, 1] ∧
      c.foldBusy [x.bank, 8 + x.bank] [0, 1] = false ∧
      (∀ a ∈ [0, 1], (c.usedBuf x.swap a).fits x.fmt x.blk x.bsz = true) ∧ x.fill = false := by
  unfold State.opNext State.running State.carries State.mxClear State.core; decide

theorem test_MatrixFold : let s := opAt .mx foldBits
    let x := foldOp foldBits
    let c := (s.mxIssued 0 0 [0, 1]).core 0
    s.opNext 0 0 .mx 0x11 foldBits (ent foldBits) [] ∧ bitOf foldBits 8 = true ∧ x.nt = 1 ∧
      s.mxClear 0 0 (fun c => max (c.streamFree [0, 1] true) (c.commitCc (·.folds [x.bank, 8 + x.bank] [0, 1]))) [0, 1] ∧
      c.foldBusy [x.bank, 8 + x.bank] [0, 1] = false ∧ x.wfill = false ∧ x.afill = false := by
  unfold State.opNext State.running State.carries State.mxClear State.core; decide

/-- A product of no rows on array 1, bank 2, that commits at cc `due`. -/
def mxRun (due : Nat) : MxRun :=
  { rows := [(10 * 64, 7)], banks := [10], fresh := true, taint := false, fold := false, arrs := [1], tags := [(1, 0)],
    tol := false, cnt := Cnt.zero, fmt := 9, blk := false, bsz := false, trunc := false,
    passes := [⟨1, 0, WBuf.zero, [], [(10, false)]⟩], old := [], due := due }

/-- Core 0 with such a product in flight, and perhaps another behind it. -/
def checkAt (due : Nat) (more : List Flight) : State :=
  runTo fun c => { c with flight := ⟨0, .mx, 0x11, 0, 0, none, .mx (mxRun due)⟩ :: more }

/-- A cell of the checksum row that adds 1.0 to its sum. -/
def upset : MxUpset := ⟨0, 0, 64, 0, 0x3F800000⟩

theorem test_MatrixCheck : let s := checkAt 0 []
    let f : Flight := ⟨0, .mx, 0x11, 0, 0, none, .mx (mxRun 0)⟩
    s.carries 0 0 ∧ (s.core 0).mxOpen = some (f, mxRun 0) ∧ (s.core 0).lateMx = [] ∧ (s.core 0).mxStop = false ∧
      (mxRun 0).due ≤ (s.core 0).ccOf .mx ∧ (s.core 0).ccOf .mx < (mxRun 9).due ∧
      ({ s.core 0 with flight := (s.core 0).flight.filter (fun g => g.no != f.no) } : Core).mxOpen = none ∧
      ({ s.core 0 with flight := (((checkAt 0 [⟨1, .mx, 0x11, 0, 0, none, .mx (mxRun 9)⟩]).core 0).flight.filter
        (fun g => g.no != f.no)) } : Core).mxOpen.isNone = false := by
  unfold State.carries State.core; decide +kernel

theorem test_MatrixCheck_agrees : (mxRun 0).redone [] = [] := by decide +kernel

theorem test_MatrixCheck_fails : (mxRun 0).redone [upset] = [1] ∧
    ((mxRun 0).failed [1] [upset]).map (fun q => (q.1.arr, q.1.outs.map (·.1))) = [(1, [10])] := by decide +kernel

theorem test_MatrixOut : let s := opAt .mx outBits
    let x := outOp outBits
    let c := (s.mxIssued 0 0 []).core 0
    s.opNext 0 0 .mx 0x13 outBits (ent outBits) [] ∧
      s.mxClear 0 0 (fun c => max (tget 0 c.mxFree (8 + x.arr)) (c.commitCc (·.folds [x.arr * 8 + x.bank] [x.arr]))) [] ∧
      c.foldBusy [x.arr * 8 + x.bank] [x.arr] = false ∧ x.vreg = true ∧ (outOp 0x13).vreg = false := by
  unfold State.opNext State.running State.carries State.mxClear State.core; decide

theorem test_RoomTone : (opAt .mx toneBits).opNext 0 0 .mx 0x14 toneBits (ent toneBits) [] ∧
    (opAt .mx toneBits).mxClear 0 0 (fun _ => 0) [] ∧ fld toneBits 8 8 = 0 := by
  unfold State.opNext State.running State.carries State.mxClear State.core; decide

theorem test_RoomTone_end : let s := liveTo fun p => p.withF [(F.CORE_MX_TONE.ACTIVE, 0, 4)]
    s.carries 0 0 ∧ bitOf (s.pkg.getF F.CORE_MX_TONE.ACTIVE 0) 2 = true := by
  unfold State.carries; decide

/-- R546: at level 56 an op that streams 64 cc from cc 10 on holds the next one back until cc 522. -/
theorem test_throttle_gap : throttleGap 56 10 64 = (74, 522) := by decide

/-! ### Loads, stores, transfers, atomics -/

/-- The bytes of a descriptor of FP32 elements in one dimension: `attr` its attributes, `n` their number. -/
def descBytes (attr n : Nat) : List Byte :=
  leBytes 8 0x40000000 ++ leBytes 4 (0x10000 + attr * 0x1000000) ++ leBytes 4 0 ++ leBytes 48 n

/-- Core 0 runs with an op at the head of an engine's queue, a descriptor at scratch offset 0, and 1 MiB of scratch. -/
def moveAt (eng : Eng) (bits attr n : Nat) (f : Core → Core) : State := runTo fun c =>
  f ({ c.setQueue eng [ent bits] with hdr := { c.hdr with scratchWays := 8 } }.scrPut 0 (descBytes attr n))

def ldBits : Nat := 0x40 + 0x1 * 0x100000000
def ldFillBits : Nat := 0x40 + 0x1 * 0x80000000
def invBits : Nat := 0x42
def stBits : Nat := 0x50 + 0x1 * 0x100000000
def xBits : Nat := 0x51 + 0x1 * 0x20000000000
def aBits (o : Nat) : Nat := o + 0x1 * 0x100000000
def pressBits : Nat := 0x5B + 0x1 * 0x10000

/-- What a load op finds of its premises and clauses, once served: no bad descriptor, no bad range, what is outstanding. -/
def ldFinds (s : State) (bits : Nat) (pf : Bool) : Option (Bool × Bool × List Nat) :=
  let e := ent bits
  let x := moveOp bits
  let a := scal e.sc x.sdesc
  (s.served 0 .ld (if pf then 0x41 else 0x40) e).map fun q =>
    let h := q.heads s.mem 0 .ld bits a x.dsrc true false
    let p := q.headNote s.mem 0 x.dsrc a h
    let ps := ldParts e h
    (h.bad.isNone, (p.ldRange 0 e (pf || x.alt) false ps).isNone,
      (p.core 0).absent (dedup (ps.map fun l => linesOf l.runs).flatten))

theorem test_LoadIssues : (moveAt .ld ldBits 0 64 id).opNext 0 0 .ld 0x40 ldBits (ent ldBits) [] ∧
    (moveAt .ld ldBits 0 64 id).credit 0 .ld ∧ ((moveAt .ld ldBits 0 64 id).core 0).ldWait = none ∧
    ldFinds (moveAt .ld ldBits 0 64 id) ldBits false = some (true, true, [0x200000]) := by
  unfold State.opNext State.running State.carries State.credit State.core; decide +kernel

/-- The same load with its descriptor in memory. -/
theorem test_LoadIssues_memory : let b := 0x40 + 0x8000 + 0x1 * 0x10000 + 0x2 * 0x100000000
    let e : Entry := { ent b with sc := [(1, 0x40001000), (2, 512)] }
    let s : State := { runTo fun c => { c.setQueue .ld [e] with hdr := { c.hdr with scratchWays := 8 } } with
      mem := Memory.write [] 0x40001000 (descBytes 0 64) }
    s.opNext 0 0 .ld 0x40 b e [] ∧ s.credit 0 .ld ∧ (s.core 0).ldWait = none ∧ descInMemory 0x40 b = true ∧
      (s.served 0 .ld 0x40 e).map (fun q =>
        let h := q.heads s.mem 0 .ld b 0x40001000 true true false
        (h.bad.isNone, ((q.headNote s.mem 0 true 0x40001000 h).ldRange 0 e false false (ldParts e h)).isNone)) =
        some (true, true) := by
  unfold State.opNext State.running State.carries State.credit State.core; decide +kernel

theorem test_LoadIssues_clear : ((moveAt .ld ldBits 0 64 id).core 0).ldClear := fun _ h => nomatch h

theorem test_LoadIssues_present : let s := moveAt .ld ldBits 0 64 fun c => { c with fill := [(0x200000, ⟨0, 0, false, 0, false⟩)] }
    s.opNext 0 0 .ld 0x40 ldBits (ent ldBits) [] ∧ s.credit 0 .ld ∧ (s.core 0).ldWait = none ∧
      ldFinds s ldBits false = some (true, true, []) := by
  unfold State.opNext State.running State.carries State.credit State.core; decide +kernel

theorem test_LoadIssues_fill :
    ((moveAt .ld ldFillBits 0 64 id).opNext 0 0 .ld 0x40 ldFillBits (ent ldFillBits) [] ∧
      ldFinds (moveAt .ld ldFillBits 0 64 id) ldFillBits false = some (true, true, [0x200000])) ∧
    (moveAt .ld 0x41 0 64 id).opNext 0 0 .ld 0x41 0x41 (ent 0x41) [] ∧
      ldFinds (moveAt .ld 0x41 0 64 id) 0x41 true = some (true, true, [0x200000]) := by
  unfold State.opNext State.running State.carries State.core; decide +kernel

theorem test_FillInvalidated : let s := moveAt .ld invBits 0 64 id
    let h := (s.moved 0 .ld).heads s.mem 0 .ld invBits 0 false false false
    let p := (s.moved 0 .ld).headNote s.mem 0 false 0 h
    s.opNext 0 0 .ld 0x42 invBits (ent invBits) [] ∧ (s.core 0).ldWait = none ∧ bitOf invBits 46 = false ∧
      descInMemory 0x42 invBits = false ∧ (moveOp invBits).dsrc = false ∧ h.bad = none ∧
      p.ldRange 0 (ent invBits) true true (ldParts (ent invBits) h) = none := by
  unfold State.opNext State.running State.carries State.core; decide +kernel

theorem test_FillInvalidated_all : let b := 0x42 + 0x400000000000
    (opAt .ld b).opNext 0 0 .ld 0x42 b (ent b) [] ∧ bitOf b 46 = true := by
  unfold State.opNext State.running State.carries State.core; decide

/-- A load of one line into scratch, and a state where core 0 has it under way. -/
def ldRun : LdRun :=
  { units := [(0x40000000, false)], lines := [(0x200000, 0)], segs := [⟨0x40000000, 256, 7⟩], fill := false, pf := false,
    logged := false, dsts := [(7, 256)], tainted := [], pads := [] }

theorem test_LoadArrives : let f : Flight := ⟨4, .ld, 0x40, 5, 3, none, .load ldRun⟩
    let s := runTo fun c => { c with flight := [f] }
    s.carries 0 0 ∧ (s.core 0).flightOf 4 = some f ∧
      ldRun.units.find? (·.1 == (0x40000000#48).toNat) = some (0x40000000, false) ∧
      (s.pkg.comes 0 .ld 4 0x40000000).map (fun q => (q.place 0x40000000, q.vatReady 0, q.held (stackOf 0x40000000),
        q.badRange 0x40000000 512)) = some (.user 0, true, false, false) ∧
      (ldRun.lines.all fun l => !(l.1 / 8 == 0x40000000 / 4096 && s.pkg.badRange (l.1 * 512) 512)) = true := by
  unfold State.carries State.core; decide +kernel

/-- A load of one line, or of its whole block, into the fill partition or into scratch. -/
def ldRunOf (whole fill : Bool) : LdRun :=
  { ldRun with units := [(0x40000000, whole)], fill := fill, segs := if fill then [] else ldRun.segs }

theorem test_LoadArrives_holds : ∀ w ∈ [false, true], ∀ fill ∈ [false, true],
    let x := ldRunOf w fill
    let f : Flight := ⟨4, .ld, 0x40, 5, 3, none, .load x⟩
    let s := runTo fun c => { c with flight := [f] }
    s.carries 0 0 ∧ (s.core 0).flightOf 4 = some f ∧ x.units.find? (·.1 == (0x40000000#48).toNat) = some (0x40000000, w) ∧
      (s.pkg.comes 0 .ld 4 0x40000000).map (fun q => (q.place 0x40000000, q.vatReady 0, q.held (stackOf 0x40000000))) =
        some (.user 0, true, false) ∧ s.sound ∧ tfind (s.core 0).take (0x40000000 / 4096) = none ∧
      0x40000000 % (if w then 4096 else 512) = 0 ∧ (s.core 0).fillSound 0 ∧
      (x.lines.filter fun y => decide (0x40000000 / 512 ≤ y.1) &&
        decide (y.1 * 512 < 0x40000000 + if w then 4096 else 512)) = [(0x200000, 0)] ∧ thas (s.core 0).fill 0x200000 = false := by
  unfold State.carries State.sound Core.fillSound State.core; decide +kernel

theorem test_LoadArrives_refetch : ∀ w ∈ [false, true],
    let s := runTo fun c => { c with refetch := [0x200000], rindBlk := [(0x200000, w)] }
    s.carries 0 0 ∧ (s.core 0).refetch.contains (0x200000#39).toNat = true ∧ tget false (s.core 0).rindBlk 0x200000 = w ∧
      (s.pkg.direct (kindOf 0 0x40000000) false w 0x40000000 (if w then 4096 else 512)).map (fun q =>
        (q.place 0x40000000, q.vatReady 0, q.held (stackOf 0x40000000))) = some (.user 0, true, false) ∧
      s.sound ∧ tfind (s.core 0).take (0x40000000 / 4096) = none ∧ (s.core 0).fillSound 0 ∧
      ((s.core 0).refetch.filter fun i => i / 8 == 0x200000 / 8) = [0x200000] ∧ thas (s.core 0).fill 0x200000 = false := by
  unfold State.carries State.sound Core.fillSound State.core; decide +kernel

theorem test_StoreIssues : let s := moveAt .st stBits 0 64 id
    let h := (s.moved 0 .st).heads s.mem 0 .st stBits 0 false true true
    let p := (s.moved 0 .st).headNote s.mem 0 false 0 h
    s.opNext 0 0 .st 0x50 stBits (ent stBits) [] ∧ s.credit 0 .st ∧ descInMemory 0x50 stBits = false ∧ h.bad = none ∧
      p.stRange 0 (ent stBits) (stParts (ent stBits) h) = none ∧ p.inBracket 0 none = false ∧
      (p.core 0).unsent = [] ∧ tget 0 (p.core 0).spent Eng.st.key + 1 ≤ creditDepth ∧ (p.core 0).flightOf (p.core 0).issueNo = none := by
  unfold State.opNext State.running State.carries State.credit State.core; decide +kernel

theorem test_StoreIssues_bracket : let e : Entry := { ent stBits with brk := some 0 }
    let s := inBr (moveAt .st stBits 1 1024 fun c => c.setQueue .st [e])
    let h := (s.moved 0 .st).heads s.mem 0 .st stBits 0 false true true
    let p := (s.moved 0 .st).headNote s.mem 0 false 0 h
    let ps := stParts e h
    s.opNext 0 0 .st 0x50 stBits e [] ∧ s.credit 0 .st ∧ h.bad = none ∧ p.stRange 0 e ps = none ∧ p.inBracket 0 (some 0) = true ∧
      (dedup ((p.core 0).takeBlocks ++ (ps.map fun l =>
        if l.d.rind then (piecesOf l.runs l.d.row).map fun y => y.addr / 4096 else []).flatten)).length = 1 := by
  unfold State.opNext State.running State.carries State.credit State.core; decide +kernel

/-- A write of core 0 under way. -/
def stRun (r : RindAct) : WrReq := ⟨0x40000000, List.replicate 64 1, r, false, false⟩

theorem test_StorePerformed_take : let w : WrReq := ⟨0x40000000, List.replicate 64 1, .invalid, true, false⟩
    let f : Flight := ⟨4, .st, 0x50, 5, 3, some 0, .store [w]⟩
    let s := inBr (runTo fun c => { c with flight := [f] })
    (s.core 0).flightOf 4 = some f ∧ w.take = true ∧ (s.pkg.comes 0 .st 4 0x40000000).map (·.inBracket 0 f.brk) = some true := by
  unfold State.core; decide +kernel

theorem test_StorePerformed : ∀ r ∈ [RindAct.keep, .correct, .invalid],
    let f : Flight := ⟨4, .st, 0x50, 5, 3, none, .store [stRun r]⟩
    let s := runTo fun c => { c with flight := [f] }
    s.MemOk ∧ s.carries 0 0 ∧ (s.core 0).flightOf 4 = some f ∧
      [stRun r].find? (·.addr == (0x40000000#48).toNat) = some (stRun r) ∧
      (s.pkg.comes 0 .st 4 0x40000000).map (fun q => (q.place 0x40000000, q.vatReady 0, q.held (stackOf 0x40000000),
        q.inCave 0x40000000)) = some (.user 0, true, false, false) ∧ s.sound ∧
      (s.core 0).behind 4 0x40000000 64 (r != .keep) = false := by
  unfold State.MemOk State.carries State.sound State.core; decide +kernel

theorem test_TransferSends : let s := moveAt .st xBits 1 1024 id
    let h := (s.moved 0 .st).heads s.mem 0 .st xBits 0 false false false
    let p := (s.moved 0 .st).headNote s.mem 0 false 0 h
    s.opNext 0 0 .st 0x51 xBits (ent xBits) [] ∧ s.credit 0 .st ∧ descInMemory 0x51 xBits = false ∧
      s.pkg.logicalOf 0 = some (0#9).toNat ∧ h.bad = none ∧
      p.xfReason h.data (h.data.runs (scal (ent xBits).sc (moveOp xBits).soff)) = none ∧ s.sound ∧
      s.pkg.reaches (scal (ent xBits).sc (fld xBits 45 41) / 2 ^ 48) = true ∧ h.data.bytes / 4096 = 1 ∧
      ∀ y ∈ piecesOf (h.data.runs (scal (ent xBits).sc (moveOp xBits).soff)) h.data.row, p.place (blockOf y.addr) = .user 0 ∧
        p.vatReady 0 = true ∧ p.held (stackOf (blockOf y.addr)) = false ∧ tfind (p.core 0).take (y.addr / 4096) = none := by
  unfold State.opNext State.running State.carries State.credit State.sound State.core; decide +kernel

theorem test_TransferSends_far : let e : Entry := { ent xBits with sc := [(1, 0x9000040000000)] }
    let s := (moveAt .st xBits 1 1024 fun c => c.setQueue .st [e]).pkgTo routed
    s.opNext 0 0 .st 0x51 xBits e [] ∧ scal e.sc (fld xBits 45 41) / 2 ^ 48 = 9 ∧ s.pkg.reaches 9 = true ∧ 9 ≠ s.pkg.pkgId ∧
      ((s.moved 0 .st).core 0).unsent = [] ∧ tget 0 ((s.moved 0 .st).core 0).spent Eng.st.key + 1 ≤ creditDepth ∧
      ((s.moved 0 .st).core 0).flightOf ((s.moved 0 .st).core 0).issueNo = none := by
  unfold State.opNext State.running State.carries State.core; decide +kernel

theorem test_TransferSends_ack : let bs : List XBlk := [⟨0x40000000, 3, []⟩]
    let f : Flight := ⟨4, .st, 0x51, 5, 3, none, .xfer 9 1 bs⟩
    let s := runTo fun c => { c with flight := [f] }
    s.carries 0 0 ∧ (s.core 0).flightOf 4 = some f ∧ bs.any (·.addr == (0x40000000#48).toNat) = true := by
  unfold State.carries State.core; decide +kernel

theorem test_TransferArrives : live.pkg.alive = true ∧ (9#12).toNat ≠ live.pkg.pkgId ∧
    (live.pkg.direct 4 true true 0x40000000 4096).map (fun q => (q.xfRefusal 0x40000000 false, q.held (stackOf 0x40000000))) =
      some (0, false) ∧ live.MemOk ∧ live.sound ∧
    (live.pkg.direct 4 true true 0x40000001 4096).map (fun q => q.xfRefusal 0x40000001 false != 0) = some true := by
  unfold State.MemOk State.sound; decide +kernel

theorem test_TransferArrives_within : let y : XBlk := ⟨0x40000000, 3, List.replicate 4096 0⟩
    let f : Flight := ⟨4, .st, 0x51, 5, 3, none, .xfer live.pkg.pkgId 1 [y]⟩
    let s := runTo fun c => { c with flight := [f] }
    s.pkg.pkgId < 4096 ∧ s.pkg.physOf (0#9).toNat = some 0 ∧ (s.core 0).flightOf 4 = some f ∧
      [y].find? (·.addr == (0x40000000#48).toNat) = some y ∧ (s.core 0).firstBlock s.pkg.pkgId 1 4 0x40000000 = true ∧
      y.data.length = 4096 :=
  ⟨by decide, rfl, rfl, rfl, rfl, List.length_replicate ..⟩

/-- An open call of group 3, opened by core 0. -/
def openCall : Call :=
  { core := 0, seq := 2, mask := 3, digest := 77, expect := 4, dst := 0x40000000, dstLen := 4096, stg := 0x020000000000,
    stgLen := 4096, aborted := false, cause := 0, raiser := false }

/-- Core 0 runs, its header claims staging slot 0, and `openCall` is open in group 3. -/
def callTo (f : Core → Core) : State := liveTo fun p =>
  (p.setCore 0 (f { Core.init .run with hdr := { (Core.init .run).hdr with claims := 1 } })).setColl 3
    { p.collGrp 3 with call := some openCall }

def cxBits : Nat := 0x52 + 0x1 * 0x20000000000 + 0x2 * 0x1000000000

theorem test_CollectiveBlocks : let s := callTo fun c => c.setQueue .st [ent cxBits]
    s.opNext 0 0 .st 0x52 cxBits (ent cxBits) [] ∧ s.credit 0 .st ∧ (s.moved 0 .st).callOf 0 = some (3, openCall) ∧
      bitOf cxBits 31 = false ∧ scal (ent cxBits).sc (fld cxBits 40 36) = 9 ∧ s.pkg.logicalOf 0 = some (0#9).toNat ∧
      ((s.moved 0 .st).core 0).unsent = [] ∧ tget 0 ((s.moved 0 .st).core 0).spent Eng.st.key + 9 ≤ creditDepth ∧
      ((s.moved 0 .st).core 0).flightOf ((s.moved 0 .st).core 0).issueNo = none ∧
      (s.moved 0 .st).reaches (scal (ent cxBits).sc (fld cxBits 45 41) / 2 ^ 48) = true := by
  unfold State.opNext State.running State.carries State.credit State.core; decide +kernel

theorem test_CollectiveBlocks_arrive : let s := callTo id
    s.pkg.alive = true ∧ (9#12).toNat ≠ s.pkg.pkgId ∧ s.pkg.lead.join = none ∧ s.MemOk ∧
      (s.pkg.collGrp 3).call = some openCall ∧ openCall.aborted = false ∧
      s.pkg.cxRefused 3 2 0x020000000000 = false ∧ s.pkg.place 0x020000000000 = .staging 0 ∧
      s.pkg.badRange 0x020000000000 4096 = false := by
  unfold State.MemOk; decide +kernel

theorem test_CollectiveBlocks_ack : let f : Flight := ⟨4, .st, 0x52, 5, 3, none, .cx 9 3 2 77 1 [⟨0x020000000000, 3, []⟩]⟩
    let s := runTo fun c => { c with flight := [f] }
    s.carries 0 0 ∧ (s.core 0).flightOf 4 = some f := by
  unfold State.carries State.core; decide +kernel

theorem test_Atomics : ∀ o ∈ [0x58, 0x59, 0x5A], let s := moveAt .st (aBits o) 0 64 id
    let h := (s.moved 0 .st).heads s.mem 0 .st (aBits o) 0 false true false
    let p := (s.moved 0 .st).headNote s.mem 0 false 0 h
    s.opNext 0 0 .st o (aBits o) (ent (aBits o)) [] ∧ s.credit 0 .st ∧ descInMemory o (aBits o) = false ∧ h.bad = none ∧
      (s.moved 0 .st).atomFmt s.mem 0 o 0 false (aBits o) = none ∧ h.data.cave = false ∧
      vecBad false false 7 h.data.bytes = false ∧ (∀ r ∈ h.data.runs 0, ∀ y ∈ pieces r, p.isUser y.addr = true) ∧
      scratchCheck (p.scratch 0) [⟨7, h.data.bytes⟩] = none := by
  unfold State.opNext State.running State.carries State.credit State.core; decide +kernel

theorem test_Atomics_perform : ∀ rind ∈ [false, true], let y : ABlk := ⟨0x40000000, [(0x40000008, 5)], false, false⟩
    let x : ARun := ⟨0x58, fmtINT32, rind, [y], false⟩
    let f : Flight := ⟨4, .st, 0x58, 5, 3, none, .atomic x⟩
    let s := runTo fun c => { c with flight := [f] }
    s.MemOk ∧ s.carries 0 0 ∧ (s.core 0).flightOf 4 = some f ∧ x.blocks.find? (·.blk == (0x40000000#48).toNat) = some y ∧
      ((y.touched fmtINT32).drop 1).any (s.pkg.touchBusy 0 4 · 4096 true) = false ∧
      (s.pkg.comes 0 .st 4 0x40000000).map (fun q => (q.vatReady (vatOfAddr 0x40000000),
        (y.touched fmtINT32).all fun c => !q.held (stackOf c) && !q.inCave c)) = some (true, true) ∧
      0x40000000 + 4096 < 0x010000000000 ∧ (s.core 0).behind 4 0x40000000 4096 true = false ∧ s.sound := by
  unfold State.MemOk State.carries State.sound State.core; decide +kernel

theorem test_PressQueued : let s := opAt .st pressBits
    s.opNext 0 0 .st 0x5B pressBits (ent pressBits) [] ∧ s.credit 0 .st ∧ s.pkg.logicalOf 0 = some (0#9).toNat ∧
      s.pkg.vatReady (vatOfAddr (scal (ent pressBits).sc (fld pressBits 20 16))) = true ∧
      (s.pkg.vat (vatOfAddr (scal (ent pressBits).sc (fld pressBits 20 16)))).pressQ.length < 8 := by
  unfold State.opNext State.running State.carries State.credit State.core; decide +kernel

/-! ### Gates, signals, watchdogs -/

/-- The SY entry of gate 6, serving the vector engine, as a bundle at index 3 with slate 5 leaves it. -/
def syEnt (bits : Nat) (reached : Option Nat) : SyEnt := ⟨6, .ve, bits, 5, 3, 0, [(1, 7)], none, false, reached⟩

/-- Core 0 runs, and gate 6 is reached at the head of the vector engine's queue. -/
def gateAt (bits : Nat) : State := runTo fun c =>
  { c.setQueue .ve [⟨.gate 6, bits, 5, 3, 0, [], none⟩] with qSy := [syEnt bits none] }

/-- Core 0 runs, and gate 6 is passed. -/
def passedAt (bits : Nat) : State := runTo fun c => { c with qSy := [syEnt bits (some 0)], sem := [(4, 1)] }

/-- SY bits of opcode `o`: semaphore 4, count 2, target scalar s1. -/
def syBits (o : Nat) : Nat := o + 0x4 * 0x10000 + 0x1 * 0x2000000 + 0x2 * 0x1000000000000

theorem test_GatesReached : ∀ o ∈ [0xC0, 0xC1, 0xC2, 0xC3, 0xC4], (gateAt (syBits o)).running 0 0 ∧
    ((gateAt (syBits o)).core 0).readyEnt (syBits o) = some (syEnt (syBits o) none) ∧ opcOf (syBits o) = o := by
  unfold State.running State.carries State.core; decide

theorem test_GatesReached_time : let s := gateAt (syBits 0xC3)
    let t := scal (syEnt (syBits 0xC3) none).sc (syOp (syBits 0xC3)).stg
    s.pkg.time + s.pkg.period 0 ≥ t ∧ s.pkg.time < t ∧
      t ≤ (s.pkgTo fun p => { p with time := 7 }).pkg.time ∧
      (s.core 0).inTurn .ve 6 = true ∧ (s.pkgTo fun p => p.withF [(F.CORE_WDOG.PERIOD_US, 0, 0)]).pkg.period 0 = 0 := by
  decide +kernel

/-- Core 0 runs, and its vector engine is held at gate 6. -/
def heldBy (w : Waiter) : State := runTo fun c => { c with waits := [w] }

theorem test_HeldEnginesReleased :
    (let w : Waiter := ⟨.ve, .wtime, 0, 70, false, 6, 0, 5, 0⟩
     (heldBy w).running 0 0 ∧ ((heldBy w).core 0).waits.find? (fun w => w.kind == .wtime && w.gate == 6) = some w ∧
       ((heldBy w).core 0).inTurn .ve 6 = true) ∧
    (let w : Waiter := ⟨.ve, .fence, 0, 0, false, 6, 0, 5, 0⟩
     (heldBy w).running 0 0 ∧ ((heldBy w).core 0).waits.find? (fun w => w.kind == .fence && w.gate == 6) = some w ∧
       ((heldBy w).core 0).fenceDone w = true ∧ ((heldBy w).core 0).inTurn .ve 6 = true) := by
  unfold State.running State.carries State.core; decide

theorem test_SignalLeaves : let b := syBits 0xC0
    let s := passedAt b
    let e := syEnt b (some 0)
    s.running 0 0 ∧ (s.core 0).qSy.find? (·.id == 6) = some e ∧ opcOf b = 0xC0 ∧ s.pkg.logicalOf 0 = some (0#9).toNat ∧
      (s.core 0).mayLeave e (s.pkg.sigDst e) (syOp b).tc = true ∧ s.pkg.lossWaits 0 e = false ∧ s.credit 0 .sy ∧
      s.pkg.sigDst e = s.pkg.pkgId := by
  unfold State.running State.carries State.credit State.core; decide +kernel

theorem test_SignalLeaves_far : let b := syBits 0xC0 + 0x2 * 0x40000000
    let e : SyEnt := { syEnt b (some 0) with sc := [(1, 0x9000000000000)] }
    let s := runTo fun c => { c with qSy := [e] }
    let s := s.pkgTo fun p => (routed p).setMod 0 0 { D2dMod.init with st := 0 }
    s.running 0 0 ∧ (s.core 0).qSy.find? (·.id == 6) = some e ∧ s.pkg.logicalOf 0 = some (0#9).toNat ∧
      (s.core 0).mayLeave e (s.pkg.sigDst e) 0 = true ∧ s.pkg.lossWaits 0 e = false ∧ s.pkg.sigDst e ≠ s.pkg.pkgId ∧
      s.pkg.reaches (s.pkg.sigDst e) = true ∧ s.credit 0 .sy ∧ s.pkg.routeUp (0 / 128) 4 = true ∧
      (s.pkgTo fun p => p.setF F.PORT_STATUS.STATE 3 1).pkg.reaches (s.pkg.sigDst e) = false := by
  unfold State.running State.carries State.credit State.core; decide +kernel

/-- Core 0 runs with a signal to its semaphore 4 on its way. -/
def sigAt (v : BitVec 16) : State := (runTo fun c => { c with sem := [(4, v)] }).pkgTo fun p =>
  { p with sigs := [⟨9, 0, 1, .st, 0, 4, 3, 5, 0, 0, false⟩] }

theorem test_SignalApplies : ∀ v ∈ [2, 65534], let g : Sig := ⟨9, 0, 1, .st, 0, 4, 3, 5, 0, 0, false⟩
    let s := sigAt (BitVec.ofNat 16 v)
    s.running 0 0 ∧ s.pkg.sigs.find? (·.id == 9) = some g ∧
      s.pkg.sigs.find? (fun t => t.tgt == g.tgt && t.src == g.src && t.srcPkg == g.srcPkg && t.tc == 0) = some g ∧
      s.pkg.vatReady 0 = true ∧ s.pkg.routeUp (if g.hub then 4 else g.src / 128) 0 = true ∧
      (s.core 0).waits.find? (fun w => w.kind == .wait && w.sem == g.sem) = none ∧
      ((s.core 0).semVal 4 + 3 ≤ 65535 ↔ v = 2) := by
  unfold State.running State.carries State.core; decide +kernel

theorem test_SignalApplies_remote : live.pkg.alive = true ∧ (9#12).toNat ≠ live.pkg.pkgId ∧
    live.pkg.sigMarked 9 0 1 = false ∧ live.pkg.isCore 5 = true := by decide +kernel

theorem test_DecrementApplies : ∀ n ∈ [1, 2], let b := 0xC2 + 0x4 * 0x10000 + n * 0x1000000000000
    let s := passedAt b
    let e := syEnt b (some 0)
    s.running 0 0 ∧ (s.core 0).qSy.find? (·.id == 6) = some e ∧ opcOf b = 0xC2 ∧ (s.core 0).mayLeave e 0 0 = true ∧
      ((s.core 0).semVal (syOp b).sem < (syOp b).n ↔ n = 2) := by
  unfold State.running State.carries State.core; decide +kernel

theorem test_WatchdogHalts : let w : Waiter := ⟨.ve, .wait, 4, 2, false, 6, 0, 5, 0⟩
    let s := (heldBy w).pkgTo fun p => p.withF [(F.CLAP_CONT_STATE.STATE, 0, 0)]
    s.running 0 0 ∧ Eng.ofSlot (1#3).toNat = some .ve ∧
      (s.core 0).waits.find? (·.eng == .ve) = some w ∧ s.pkg.released 0 w = false ∧ s.pkg.getF F.CLAP_CONT_STATE.STATE 0 = 0 := by
  unfold State.running State.carries State.core; decide +kernel

/-! ### Training numerics and press units -/

def rep (core : Nat) : Report := ⟨core, 6, 5, 2, true, false, false, 0, 1, 0, 0, 0, [], 2⟩

/-- Core 0's close report is on its way to group 2, whose members are the cores of `w`. -/
def repAt (w : BitVec 64) : State := liveTo fun p => { p.setReg .NUM_GRP_MASK0 2 w with reps := [rep 0] }

theorem test_ReportsCollected : ∀ w ∈ [1, 3], let s := repAt (BitVec.ofNat 64 w)
    s.carries 0 0 ∧ s.pkg.reps.find? (·.core == (0#9).toNat) = some (rep 0) ∧
      s.pkg.vatReady (s.pkg.getF F.NUM_GRP_DIR.DIRECTOR 2 / 128) = true ∧ (s.pkg.lgroup 2).layer = none ∧
      (s.pkg.lgroup 2).held = [] ∧ s.sound ∧
      ((s.pkg.members 2).all (fun m => [rep 0].any (·.core == m)) = true ↔ w = 1) := by
  unfold State.carries State.sound; decide +kernel

theorem test_LossWatch : ∀ v ∈ [0x40000000, 0x7F800000], let s := liveTo fun p => { p with lossQ := [(3, v, 5)] }
    s.pkg.alive = true ∧ s.pkg.lossQ = [(3, v, 5)] ∧ v < 2 ^ 32 ∧ ((dec32 v).isFin = true ↔ v = 0x40000000) ∧
      s.pkg.getF F.NUM_LOSS_STAT.SAMPLES 0 = 0 ∧ s.pkg.runs (s.pkg.getF F.NUM_LOSS_CFG.SRC 0) = false := by
  decide +kernel

theorem test_ScaleTableWritten : ∀ st ∈ [CoreSt.idle, .halt], let s := liveTo fun p => p.setCore 5 (Core.init st)
    s.pkg.isPhys (5#9).toNat = true ∧ s.pkg.lead.join = none ∧ (s.core 5).st = st := by
  unfold State.core; decide +kernel

/-- An update op of vat 0 and a run of it over two slices, the first done. -/
def pressOp : PressOp := ⟨3, 0, 0, 4, 5, 2, 0x40001000⟩

def pressRun (done : List Nat) (disc : Bool) : PressRun :=
  { op := pressOp,
    r := ⟨0, false, false, true, false, 6, 2, 0x40100000, 0x40200000, 0, 0x40300000, 0, 0, 0x3F800000, 0, 0, 0, 0,
      0x3F800000, 0, 0⟩,
    discard := disc, done := done, sums := [], sat := 0, nfG := 0, nfW := 0, rindHeld := false, nfLogged := false, digs := [] }

/-- Vat 0 with an update op in its queue, or one running. -/
def pressAt (q : List PressOp) (r : Option PressRun) : State :=
  liveTo fun p => p.setVat 0 { p.vat 0 with pressQ := q, press := r }

/-- The bytes of a record that passes every check: plain descent over one slice. -/
def recBytes : List Byte :=
  let b := leBytes 4 0x60000 ++ leBytes 4 1 ++ leBytes 8 0x40100000 ++ leBytes 8 0x40200000 ++ leBytes 8 0 ++
    leBytes 8 0x40300000 ++ leBytes 16 0 ++ leBytes 8 0x3F800000
  let b := b ++ leBytes 12 0 ++ leBytes 4 0x3F800000 ++ leBytes 44 0
  b ++ leBytes 4 (crc32c b)

theorem test_PressStarts : let s := pressAt [pressOp] none
    let t : State := { s with mem := Memory.write [] 0x40001000 recBytes }
    s.pkg.alive = true ∧ s.pkg.vatReady 0 = true ∧ (s.pkg.vat 0).press = none ∧ (s.pkg.vat 0).pressQ = [pressOp] ∧
      s.sound ∧ s.pkg.place pressOp.recA = .user 0 ∧ s.pkg.held (stackOf pressOp.recA) = false ∧
      (s.pkg.directs 7 false false ((pieces ⟨pressOp.recA, 128⟩).map fun r => (r.addr, r.len))).map (fun p =>
        let q := p.setVat 0 { p.vat 0 with pressQ := [] }
        (q.recordReason 0 (s.mem.fetch q 7 pressOp.recA 128), q.recordReason 0 (t.mem.fetch q 7 pressOp.recA 128))) =
        some (some 1, none) := by
  unfold State.sound; decide +kernel

theorem test_PressSliceDone : let x := pressRun [0] true
    let s := pressAt [] (some x)
    s.pkg.alive = true ∧ s.pkg.vatReady 0 = true ∧ (s.pkg.vat 0).press = some x ∧ x.turn 1 = true ∧ s.sound ∧ x.discard = true ∧
      (s.pkg.directs 2 false true ([0x40102000, 0x40103000, 0x40202000, 0x40203000].map fun a => (a, 4096))).isSome = true := by
  unfold State.sound; decide +kernel

/-- What a slice of plain descent reads of empty memory: the masters' halves and the gradients of one slice. -/
theorem test_PressSliceDone_whole : let x := pressRun [0] false
    let s := pressAt [] (some x)
    let r := x.r
    let blks (a n : Nat) : List SliceBlk := Dev.sliceRead ⟨s.mem, s.pkg⟩ a n
    let hi := blks (r.hi + 8192) 2
    let lo := blks (r.lo + 8192) 2
    let gr := if r.gbf16 = true then blks (r.grad + 8192) 2 else blks (r.grad + 16384) 4
    x.turn 1 = true ∧ (r.whey, r.usesM1, r.usesM2) = (false, false, false) ∧ ([hi, lo, gr].flatten.all (·.ok)) = true ∧
      ((s.pkg.directs 2 false true ([hi, lo, gr].flatten.map fun b => (b.addr, 4096))).bind
        (fun p => p.directs 2 true true ([hi, lo].flatten.map fun b => (b.addr, 4096)))).isSome = true ∧
      s.MemOk ∧ s.pkg.placeBad 0 r = false ∧ ([hi, lo].flatten.all fun b => s.pkg.place b.addr == .user 0 && s.pkg.vatReady 0 &&
        !s.pkg.held (stackOf b.addr) && !s.pkg.inCave b.addr) = true := by
  unfold State.MemOk; decide +kernel

theorem test_PressEnds : let x := pressRun [0, 1] false
    let s := pressAt [] (some x)
    s.pkg.alive = true ∧ s.pkg.hasVat 0 = true ∧ (s.pkg.vat 0).press = some x ∧ x.allDone = true ∧
      s.pkg.fifoFits 2 8 = true := by decide +kernel

theorem test_DigestCombined : live.pkg.alive = true ∧ live.pkg.flag F.PRESS_DIG_CTL.DONE 0 = true ∧
    (let r : DigRun := ⟨2, [(0, 5, 6)], 5, 6⟩
     (liveTo fun p => { p with dig := some r }).pkg.dig = some r) := by decide +kernel

/-! ### The memory system -/

def memReq (wr : Bool) : MemReq := ⟨3, 0, wr, 0x40000040, 64, false, 5, 0, List.replicate 64 1, none, false⟩

/-- The queue of the pseudo-channel of 0x40000040 replaced. -/
def queueAt (q : List MemReq) : State :=
  liveTo fun p => p.setPch (pchKey 0x40000040) { Pch.init with q := q }

theorem test_RequestAccepted : let q (n : Nat) := List.replicate n (memReq false)
    live.pkg.place 0x40000040 = .user 0 ∧ live.pkg.place 0x3F000000 = .reserved 0 ∧
      ((queueAt (q 15)).pkg.pch (pchKey 0x40000040)).q.length = 15 ∧
      live.pkg.bankFull ((queueAt (q 15)).pkg.pch (pchKey 0x40000040)) (memReq false) = false ∧
      (queueAt (q 16)).pkg.bankFull ((queueAt (q 16)).pkg.pch (pchKey 0x40000040)) (memReq false) = true ∧
      ((queueAt (q 16)).pkg.pch (pchKey 0x40000040)).held = [] ∧
      ((queueAt (q 64)).pkg.pch (pchKey 0x40000040)).q.length = 64 := by decide +kernel

theorem test_RequestServed : ∀ wr ∈ [false, true], let s := queueAt [memReq wr]
    let k := pchKey 0x40000040
    s.pkg.hasVat (k / 64 / 4) = true ∧ ((s.pkg.serveNext k (2 ^ 64 - 1) wr).map fun q =>
      (q.1, q.2.vatReady (k / 256), q.2.held (k / 64))) = some (memReq wr, true, false) ∧
      s.MemOk ∧ s.sound ∧ s.pkg.place 0x40000040 = .user 0 ∧ s.pkg.vatReady 0 = true ∧
      s.pkg.held (stackOf 0x40000040) = false ∧ s.pkg.inCave 0x40000040 = false ∧ (s.pkg.pch k).held = [] ∧
      (memReq wr).data.length = (memReq wr).len ∧
      (let r : MemReq := { memReq wr with op := some (0, 4) }
       ((queueAt [r]).pkg.serveNext k (2 ^ 64 - 1) wr).map (·.1.op) = some (some (0, 4))) := by
  unfold State.MemOk State.sound; decide +kernel

theorem test_ErrorCounts : live.pkg.hasVat ((0#4).toNat / 4) = true ∧ live.pkg.place 0x40000040 = .user 0 ∧
    live.pkg.vatReady 0 = true ∧ live.pkg.flag F.MC_ERR_CFG.SCRUB_EN 0 = true ∧ live.sound ∧
    (live.pkg.struck [⟨0x40000040, [(0, 1)]⟩]).decode (unitOf 0x40000040) = .fixed [(0, 1)] := by
  unfold State.sound; decide +kernel

theorem test_PinsAndRowsRetired : let x : Pch :=
      { Pch.init with pins := [(3, 16)], rows := [⟨1, 7, 8, 0⟩], copying := [(2, 34, 0)] }
    let s := liveTo fun p => p.setPch 0 x
    s.pkg.pch 0 = x ∧ max 1 (s.pkg.getF F.MC_ERR_CFG.PIN_THRESH 0) ≤ tget 0 x.pins 3 ∧
      x.pinLog.contains 3 = false ∧ s.pkg.getF F.MC_LANE.MARKED 0 = 0 ∧ x.rows.find? (fun r => r.bank == 1 && r.row == 7) = some ⟨1, 7, 8, 0⟩ ∧
      max 1 (s.pkg.getF F.MC_ERR_CFG.ROW_THRESH 0) ≤ 8 ∧ s.pkg.getF F.MC_REMAP.USED 0 < 2048 ∧
      (x.copying ++ x.retired).any (fun y => (y.1, y.2.1) == (1, 7)) = false ∧
      x.retired.any (fun y => (y.1, y.2.1) == (2, 34)) = false ∧
      x.copying.filter (fun y => (y.1, y.2.1) == (2, 34)) = [(2, 34, 0)] ∧ pchKey 1074810880 = 0 ∧ bankRow 1074810880 = (2, 34) := by decide +kernel

theorem test_CellarAccessed : live.pkg.alive = true ∧ live.pkg.vatReady 0 = true ∧ live.sound ∧
    (live.pkg.struck [⟨0x010000001008, [(0, 1)]⟩]).decode (unitOf 0x010000001008) = .fixed [(0, 1)] ∧
    (live.pkg.struck [⟨0x010000001008, [(0, 1), (1, 1)]⟩]).decode (unitOf 0x010000001008) = .lost := by
  unfold State.sound; decide +kernel

theorem test_StackRepairs : let s := liveTo fun p => p.setF F.MC_MAINT.HOLD 2 1
    let t := liveTo fun p => { p with repairs := [(2, ⟨1, 3, 4, 5, 6⟩)] }
    live.pkg.hasVat (2 / 4) = true ∧ live.pkg.anyRunIn (2 / 4) = false ∧ live.pkg.flag F.MC_REPAIR_STAT.DONE 2 = true ∧
      s.pkg.flag F.MC_REPAIR_STAT.DONE 2 = true ∧ s.pkg.held 2 = true ∧ s.pkg.stackIdle 2 = true ∧ live.pkg.held 2 = false ∧
      tfind t.pkg.repairs 2 = some ⟨1, 3, 4, 5, 6⟩ := by decide +kernel

/-! ### Collective calls -/

/-- Director core 112 runs, changed by `f`, in a live package changed by `g`. -/
def dirTo (f : Core → Core) (g : Pkg → Pkg) : State := liveTo fun p => g (p.setCore 112 (f (Core.init .run)))

/-- Group 3 of two members, directed by core 112, this package at position 0. -/
def grp3 (p : Pkg) : Pkg :=
  (p.withF [(F.COLL_GRP_CFG.DIRECTOR, 3, 112), (F.COLL_GRP_CFG.NM1, 3, 1), (F.COLL_GRP_MEMBER.PKG_ID, 3 * 256 + 1, 9)]).setReg
    .COLL_GRP_ACTIVE0 3 3

/-- The bytes of a collective descriptor: an all-reduce of FP32 over group 3. -/
def collBytes : List Byte :=
  let b := leBytes 4 0x03000001 ++ leBytes 2 0 ++ leBytes 2 1 ++ leBytes 8 1024 ++ leBytes 8 0x40100000 ++
    leBytes 8 0x40200000 ++ leBytes 8 4096
  let b := b ++ leBytes 8 0x020000000000 ++ leBytes 4 0 ++ leBytes 8 0
  b ++ leBytes 4 (crc32c b)

def copenBits : BitVec 64 := 0x34 + 0x1 * 0x2000

theorem test_CollectiveCalls_open : let e : Entry := ⟨.op, copenBits.toNat, 5, 3, 0, [(1, 0x40000000)], none⟩
    let s : State := { dirTo (fun c => { c with fe := { c.fe with sc := some e } }) grp3 with
      mem := Memory.write [] 0x40000000 collBytes }
    let a := (e.s (fld copenBits.toNat 17 13)).toNat
    let d := collDesc (s.mem.read a 64)
    s.scNext 112 112 0x34 copenBits e ∧ isDirKey 112 = true ∧ s.pkg.addrCode (s.core 112).hdr.claims a = none ∧
      alignedTo 64 a = true ∧ s.pkg.place a = .user 0 ∧ s.pkg.vatReady 0 = true ∧ s.pkg.held (stackOf a) = false ∧
      s.sound ∧ d.group = 3 ∧ s.pkg.collValid 3 = true ∧
      some (s.pkg.getF F.COLL_GRP_CFG.DIRECTOR 3) = s.pkg.logicalOf 112 ∧ s.pkg.callOf 112 = none ∧
      ((s.pkg.onCore 112 Core.scDone).direct 7 false false a 64).isSome = true := by
  unfold State.scNext State.running State.carries State.sound State.core; decide +kernel

theorem test_CollectiveCalls_register : let d := collDesc collBytes
    let s := dirTo (fun c => c.holdTo (.copen 3 (ofLe collBytes))) grp3
    let x := s.pkg.collGrp 3
    let mask := s.pkg.collMask 3
    s.running 112 112 ∧ (s.core 112).fe.hold = .copen 3 (ofLe collBytes) ∧ x.mark = none ∧ x.early = none ∧ x.soon = [] ∧ x.earlyN ≤ d.expect ∧
      (s.pkg.positions 3 mask).contains (s.pkg.getF F.COLL_GRP_CFG.OWN_POS 3) = true ∧
      s.pkg.collDescOk (s.core 112).hdr.claims (s.pkg.positions 3 mask).length d = true ∧
      leBytes 64 (ofLe collBytes) = collBytes := by
  unfold State.running State.carries State.core; decide +kernel

theorem test_CollectiveCalls_close :
    (let e := ent 0x35
     let s := dirTo (fun c => { c with fe := { c.fe with sc := some e } }) fun p =>
       p.setColl 3 { p.collGrp 3 with call := some { openCall with core := 112 } }
     s.scNext 112 112 0x35 0x35 e ∧ s.pkg.callOf 112 = some (3, { openCall with core := 112 })) ∧
    (let s := dirTo (fun c => c.holdTo (.cclose 2 3)) fun p =>
       (p.setColl 3 { p.collGrp 3 with call := some openCall }).withF [(F.COLL_GRP_STATE.ARRIVED, 3, 4)]
     s.running 112 112 ∧ (s.core 112).fe.hold = .cclose 2 3 ∧ (s.core 112).drained = true ∧
       (s.pkg.collGrp 3).call = some openCall ∧ s.pkg.getF F.COLL_GRP_STATE.ARRIVED 3 = openCall.expect) := by
  unfold State.scNext State.running State.carries State.core; decide +kernel

theorem test_CollectiveCalls_far : (live.pkg.collGrp 3).late = none ∧ (0#32).toNat = live.pkg.getF F.COLL_GRP_STATE.SEQ_NEXT 3 ∧
    ((callTo id).pkg.collGrp 3).call = some openCall ∧ openCall.seq = (2#32).toNat ∧ openCall.aborted = false ∧
    (let l : LateRec := ⟨1, 3, false, false⟩
     let s := (callTo id).pkgTo fun p => grp3 (p.setColl 3 { p.collGrp 3 with late := some l })
     (s.pkg.collGrp 3).late = some l ∧ l.seq = (1#32).toNat ∧ (s.pkg.collGrp 3).call = some openCall ∧
       (s.pkg.positions 3 l.mask).find? (fun i => s.pkg.member 3 i == (9#12).toNat) = some 1 ∧
       (77#64) ≠ s.pkg.reg .COLL_GRP_DIGEST 3) := by
  decide +kernel

/-! ### Ports and edges -/

/-- Port 3 UP at four lanes, its state changed. -/
def upTo (x : Port) : State := liveTo fun p => (routed p).setPort 3 x

/-- A payload whose flit is awaited next. -/
def pay : List Byte := List.replicate 312 1

/-- Its CRC. -/
def payCrc : Nat := 582545441

set_option maxRecDepth 20000 in
theorem test_PortFlits_crc : flitCrc 0 pay = payCrc := by decide +kernel

theorem test_PortFlits : let y : Port := { Port.init with rxTop := 1, fails := 16, asked := true }
    (live.pkg.alive = true ∧ (upTo Port.init).pkg.portUp 3 = true ∧ (upTo Port.init).pkg.port 3 = Port.init) ∧
    (fld 0 11 0 = Port.init.rxSeq ∧ Port.init.asked = false ∧ fld 2 11 0 ≠ Port.init.rxSeq ∧
      2048 ≤ seqAhead Port.init.rxTop (fld 2 11 0) ∧ (0#12).toNat = Port.init.rxSeq ∧
      8 < (dedup ((List.range 9).map fun i => (BitVec.ofNat 9 i).toNat)).length) ∧
    (upTo y).pkg.port 3 = y ∧ seqAhead y.rxTop y.rxSeq = 1 ∧ max 1 ((upTo y).pkg.getF F.PORT_CFG.REPLAY_LIMIT 0) ≤ y.fails ∧
    (let s := upTo { Port.init with kept := [⟨7, 1, 0, 0, 0, 9, 2, 0, none, []⟩, ⟨8, 1, 0, 0, 0, 9, 2, 1, none, []⟩] }
     s.pkg.portUp 3 = true ∧ (s.pkg.port 3).kept.any (·.seq == (7#12).toNat) = true ∧ (s.pkg.port 3).out = []) ∧
    (let s := (upTo y).pkgTo fun p => p.withF [(F.PORT_STATUS.STATE, 3, 8)]
     s.pkg.retraining 3 = true ∧ (s.pkg.port 3).asked = true ∧ (s.pkg.port 3).late = [] ∧ s.pkg.optical 3 = false ∧ s.pkg.lanesWidth 3 ≠ 0) := by
  decide +kernel

/-- The package with a guest die, whose ports 15 to 17 are optical. -/
def guestTo (f : Pkg → Pkg) : State := liveTo fun p =>
  f (({ p with fuse := { p.fuse with guest := true } } : Pkg).withF [(F.PORT_GUEST.OPTICAL, 0, 7)])

theorem test_PortLanes : let s := (upTo Port.init).pkgTo fun p => p.withF [(F.PORT_LANE_ERR.BAD_WIN, laneInst 3 2, 500)]
    s.pkg.laneLive 3 2 = true ∧ max 1 (s.pkg.getF F.PORT_CFG.LANE_THRESH 0) ≤ s.pkg.getF F.PORT_LANE_ERR.BAD_WIN (laneInst 3 2) ∧
    (let t := upTo { Port.init with late := [(0, 2, 0)] }
     t.pkg.portUp 3 = true ∧ t.pkg.optical 3 = false ∧ (t.pkg.port 3).late.any (fun y => y.1 == 0 && y.2.1 == 2) = true ∧
       (t.pkg.port 3).behindLane 2 = false ∧ (t.pkg.dropLane 3 0 2).lanesWidth 3 = 4 ∧
       bitOf (t.pkg.getF F.PORT_STATUS.TX_FAILED 3) 1 = false ∧ (t.pkg.dropLane 3 1 1).lanesWidth 3 = 4) ∧
    ((upTo { Port.init with txOut := 15 }).pkg.dropLane 3 1 4).lanesWidth 3 = 0 ∧
    (let g : State := { guestTo id with mem := Memory.write [] 0x020020000000 (leBytes 8 (2 ^ 63 + 1)) }
     let w := ofLe (g.mem.read (0x020020000000 + 8 * (15 - 15)) 8)
     g.pkg.alive = true ∧ g.pkg.optical 15 = true ∧ bitOf w 63 = true ∧ w % 4 ≠ 3) := by
  decide +kernel

theorem test_PortTraining : (liveTo fun p => p.withF [(F.CFG_BOOT.PHASE, 0, 5)]).pkg.getF F.CFG_BOOT.PHASE 0 = 5 ∧
    (let s := liveTo fun p => p.withF [(F.PORT_STATUS.STATE, 3, 1)]
     s.pkg.portState 3 = 1 ∧ s.pkg.optical 3 = false ∧ s.pkg.cabled 3 4 11 false = true ∧ s.pkg.cabled 3 5 11 false = false ∧
       (s.pkg.port 3).rxOut = 0 ∧ (s.pkg.port 3).txOut = 0 ∧ (4#4).toNat &&& linkRates ≠ 0 ∧ (8#4).toNat &&& linkRates = 0) := by decide +kernel

/-- A route over port 3 by a kept flit of the flow. -/
def flowTo : State := upTo { Port.init with kept := [⟨7, 1, 0, 0, 8, 9, 2, 0, none, []⟩] }

/-- A load's request on its way from core 0 to die 0. -/
def fabTo : State := runTo fun c =>
  { c with flight := [⟨4, .ld, 0x40, 5, 3, none, .load ldRun⟩], fab := [⟨.ld, 4, 0x40000000, 0⟩] }

/-- A write of core 0 on its way to die 0, whose vat is not READY. -/
def dropTo : State :=
  (runTo fun c => { c with
    flight := [⟨4, .st, 0x50, 5, 3, none, .store [stRun .keep]⟩], fab := [⟨.st, 4, 0x40000000, 2⟩] }).pkgTo fun p =>
      p.setVat 0 { Vat.init with st := .reset }

theorem test_PacketsRouted_drop : let w := stRun .keep
    let f : Flight := ⟨4, .st, 0x50, 5, 3, none, .store [w]⟩
    dropTo.carries 0 0 ∧ Eng.ofSlot 4 = some .st ∧
    ((dropTo.core 0).fab.find? fun r => r.eng == .st && dieOf r.addr == 0) = some ⟨.st, 4, 0x40000000, 2⟩ ∧
    dropTo.pkg.routeUp 0 0 = true ∧ dropTo.pkg.place 0x40000000 = .user 0 ∧ dropTo.pkg.vatReady 0 = false ∧
    (dropTo.core 0).flightOf 4 = some f ∧ (dropTo.core 0).unsent = [] ∧ [w].find? (·.addr == 0x40000000) = some w ∧
    (dropTo.core 0).behind 4 0x40000000 w.data.length (w.rind != .keep) = false := by
  unfold State.carries State.core; decide +kernel

theorem test_PacketsRouted_credit : let r : FabReq := ⟨.st, 4, 0x40000000, 2⟩
    let f : Flight := ⟨4, .st, 0x50, 5, 3, none, .store [stRun .keep]⟩
    let s := runTo fun c => { c with flight := [f], unsent := [r], spent := [(Eng.st.key, creditDepth)] }
    s.carries 0 0 ∧ (s.core 0).unsent.find? (·.eng == .st) = some r ∧ tget 0 (s.core 0).spent Eng.st.key = creditDepth ∧
      (s.core 0).flightOf r.no = some f ∧ f.kind.toMemory = true ∧ (fabTo.core 0).unsent = [] := by
  unfold State.carries State.core; decide +kernel

theorem test_PacketsRouted : (9#12).toNat ≠ live.pkg.pkgId ∧ live.pkg.egress 8 2 9 1 = none ∧
    (flowTo.pkg.egress 8 2 9 1 = some 3 ∧ flowTo.pkg.alive = true) ∧ live.pkg.anyRun = false ∧ rtBad 0x8000000000000231 = false ∧
    rtBad 1 = false ∧ rtBad 0x200 = true ∧ live.pkg.vatReady 0 = true ∧
    (let f : Flight := ⟨4, .st, 0x51, 5, 3, none, .xfer 9 1 [⟨0x40000000, 3, []⟩]⟩
     let s := runTo fun c => { c with flight := [f] }
     s.carries 0 0 ∧ (s.core 0).flightOf 4 = some f ∧ s.pkg.physOf 0 = some 0 ∧
       [(⟨0x40000000, 3, []⟩ : XBlk)].any (·.addr == 0x40000000) = true) ∧
    fabTo.carries 0 0 ∧ Eng.ofSlot 3 = some .ld ∧
    ((fabTo.core 0).fab.find? fun r => r.eng == .ld && dieOf r.addr == 0) = some ⟨.ld, 4, 0x40000000, 0⟩ ∧
    fabTo.pkg.routeUp 0 0 = true ∧ (fabTo.pkg.opMemReq 0 .ld 4 0x40000000).isSome = true ∧
    ((fabTo.core 0).fab.find? fun r => r.eng == .st && dieOf r.addr == 0) = none := by
  unfold State.carries State.core; decide +kernel

/-- Module 1 of edge 0 with a state, in a package whose edge 0 is trained. -/
def modTo (x : D2dMod) (f : Pkg → Pkg) : State :=
  liveTo fun p => f (({ p with edges := [(0, (1, 4))] } : Pkg).setMod 0 1 x)

theorem test_DieToDie : let x : D2dMod := { D2dMod.init with st := 0, e0 := { D2dEnd.init with rx := 5, bads := List.replicate 9 ⟨5, 1, 5, []⟩ } }
    let i := d2dLane 0 1 0 7
    let s := modTo x fun p => p.withF [(F.D2D_LANE_ERR.ERR_COUNT, i, 5000)]
    s.pkg.alive = true ∧ (1#5).toNat < s.pkg.edgeModules 0 ∧ s.pkg.d2dMod 0 1 = x ∧ x.works = true ∧
      (x.endOf 0).ahead = [] ∧ 4 < (x.endOf 0).rx ∧ max 1 (s.pkg.getF F.D2D_CFG.REPLAY_LIMIT 0) ≤ (x.endOf 0).fails 1 ∧
      thas s.pkg.edges 0 = true ∧ ((modTo D2dMod.init id).pkg.d2dMod 0 1).st = 3 ∧ x.want = 0 ∧
      max 1 (s.pkg.getF F.D2D_CFG.LANE_THRESH 0) ≤ s.pkg.getF F.D2D_LANE_ERR.ERR_COUNT i ∧
      s.pkg.flag F.D2D_LANE_ERR.REPAIRED i = false ∧ s.pkg.repairsUsed 0 1 0 < 4 := by decide +kernel

theorem test_DieToDie_replay : let b : BadFlit := ⟨5, 1, 5, []⟩
    let y : D2dEnd := { D2dEnd.init with rx := 5, bads := [b, ⟨7, 1, 7, []⟩] }
    y.bads.filter (·.no == y.rx) = [b] ∧ b.mod = 1 ∧ y.ahead = [] := by decide

set_option maxRecDepth 20000 in
theorem test_DieToDie_bad : (List.replicate 250 (1 : Byte)).length = 250 ∧
    flitGood (flipBits (d2dFlit 5 3 (List.replicate 250 1)) [(3#11).toNat]) = false := by decide +kernel
/-! ### Vat resets, reset, boot, the board -/

/-- Vat 1 with a state. -/
def vatTo (x : Vat) : State := liveTo fun p => p.setVat 1 x

/-- A modulus for the tests: a prime, for which a signature could be found. -/
def tN : Nat := 2 ^ 3072 - 47

/-- A signature under it of the 24 bytes of the image below. -/
def tSig : Nat :=
  0xfbab05e06a8782237e6338111ee68a4cd970dcae0788dd5ec73391a7f9b4a2127900b2b5d7593d3521af568a870fd9b4fd1e473b23c57d73e7dc97f49c726da81335acd0d541bfc161a217c6529fabd1e2518c9830b6638b57fc72df3717025be3cf42dadea6908694d8c2a94e7707fd8040bebbc4709ea4c02568d1144589c776b0d9df63a51c919a00aaa924ddb4a7b4e82d352fce3b62f0abf196cd6955185c647a14b2f464290949c5ab6ab40df54c72f1b73d91fbfba82f1ce88ae1f3dc0a582802660aa526f5f8896cfaf5e9151ab2c16aaebcd7f3b1304da96728282ea076f701b4d04577295741fa270993707ddffde82d9a40c63813da40a68f093cbf9254521fe5975e0a5f544b99378a4c6f64eeac8a197e3380c17f2821dc84bbcc492b13d1c9a2b7956590c4c2d4059680c7fddad07c41ab7ea14d2b8966a2b7d22d9de050338548d242c7db112c9ae99a3c12c0e3da30ee3b3e63e7cbf8b402f2a799134ba9fe2ed0c67b5de93616c312b9289853045ea344728c0f121fff22

/-- Bytes from an address of the flash on. -/
def flashCells (a : Nat) (bs : List Byte) : Tab Byte := bs.zipIdx.map fun x => (a + x.2, x.1)

/-- A flash whose directory confirms image A, with an image of 24 bytes and its signature. -/
def tFlash : Flash :=
  { Flash.blank with
    rootN := tN
    bytes := flashCells 0 (Directory.body ⟨1, 0, 0, 12, 0⟩ ++ leBytes 4 2156634454) ++
      flashCells 0x1000000 (List.flatten [leBytes 4 0, leBytes 4 408, leBytes 8 0, leBytes 8 5, beBytes 384 tSig]) }

/-- The live package in a phase of its boot. -/
def phaseAt (n : Nat) (f : Pkg → Pkg) : State := liveTo fun p => f (p.withF [(F.CFG_BOOT.PHASE, 0, n)])

/-- The root at a clapper time, following TIME_IN. -/
def timeIn (n : Nat) : State :=
  liveTo fun p => { p.withF [(F.CLAP_STAT.STATE, 0, 3), (F.CLAP_CFG.TIME_FOLLOW, 0, 1), (F.GAFF_GPIO.TIME_EN, 0, 1)] with time := n }

theorem test_VatResets : live.pkg.alive = true ∧ live.pkg.vatReady 1 = true ∧ (2#4).toNat ∈ [1, 2, 5] ∧
    bitOf (2#4).toNat 1 = true ∧ (4#4).toNat ∉ [1, 2, 5] ∧ live.pkg.hasVat 1 = true ∧
    ((vatTo { Vat.init with st := .quiesce }).pkg.vat 1).st = .quiesce ∧ live.pkg.swap = none ∧
    ((vatTo { Vat.init with st := .reset }).pkg.vat 1).st = .reset ∧
    ((vatTo { Vat.init with st := .scan }).pkg.vat 1).st = .scan ∧ live.pkg.getF F.CLAP_CONT_STATE.STATE 0 = 0 ∧
    (let x : Vat := { Vat.init with st := .boot, cause := 1 }
     (vatTo x).pkg.vat 1 = x ∧ x.cause ≠ 0 ∧ x.ues = [] ∧ (vatTo x).pkg.flag F.REL_UE.FULL 1 = false) := by
  decide

theorem test_FatalErrorsStop : live.pkg.alive = true ∧ live.pkg.pins.supply = true ∧ State.reset.pkg.pins.supply = true ∧ 110 ≤ (110#8).toNat := by decide

theorem test_PowerAndReset : live.pkg.pins.resetN = true ∧ State.reset.pkg.pins.resetN = false ∧
    (let s := live.pkgTo fun p => { p with pins := { p.pins with supply := false } }
     (s.pkg.pins.supply && s.pkg.pins.pwrgd) = false) ∧
    Reg.GAFF_CFG ≠ .MC_LANE ∧ Reg.GAFF_CFG ≠ .REL_SCAN := by decide

theorem test_FirmwareBoots : State.reset.pkg.pins.resetN = false ∧ State.reset.pkg.pins.supply = true ∧
    State.reset.pkg.pins.pwrgd = true ∧ State.reset.pkg.pins.thermtrip = false ∧
    ({ Flash.blank with ok := false } : Flash).ok = false ∧ ({ Flash.blank with mib := 255 } : Flash).mib < 256 ∧
    (phaseAt 1 id).pkg.getF F.CFG_BOOT.PHASE 0 = 1 ∧ State.reset.pkg.fuse.rootHash = 0 := by decide

theorem tFlash_rises : Tab.risesFrom 0 tFlash.bytes = true := by decide +kernel

theorem tFlash_dir : tFlash.dir = (⟨1, 0, 0, 12, 0⟩, 0) := by decide +kernel

theorem tFlash_image : tFlash.imgLen 0 = 408 ∧ tFlash.imgSvn 0 = 0 ∧ tFlash.imgBuild 0 = 5 := by
  simp only [Flash.imgLen, Flash.imgSvn, Flash.imgBuild, Flash.read_eq _ _ _ tFlash_rises]
  decide +kernel

theorem tFlash_signed : tFlash.signed tN (imageAt 0) 408 = true := by
  simp only [Flash.signed, Flash.read_eq _ _ _ tFlash_rises]
  decide +kernel

theorem tFlash_candidates : tFlash.candidate tN 0 0 0 = true ∧ tFlash.candidate tN 0 0 1 = false := by
  obtain ⟨l, v, b⟩ := tFlash_image
  constructor
  · rw [Flash.candidate, l, v, b, tFlash_signed]; decide +kernel
  · rw [Flash.candidate, show tFlash.imgLen 1 = 0xFFFFFFFF by rw [Flash.imgLen, Flash.read_eq _ _ _ tFlash_rises]; decide +kernel]
    simp

theorem tFlash_choose : tFlash.choose tN 0 0 = some 0 := by
  rw [Flash.choose, tFlash_candidates.1, tFlash_candidates.2]

/-- The SHA-256 of the modulus. -/
def tHash : Nat := 0xc0b76447f182c71dfc95fb6af1c6f9610089f9f88dac223bc74f7fce5d1bb960

theorem tFlash_root : tFlash.rootKey tHash = tN := by decide +kernel

theorem test_FirmwareBoots_image : tFlash.ok = true ∧ 256 ≤ tFlash.mib ∧ 2 ≤ tFlash.dir.1.trial ∧
    tFlash.dir.1.confirmed = 0 ∧ tFlash.choose (tFlash.rootKey tHash) State.reset.pkg.fuse.minSvn tFlash.dir.1.rej = some 0 := by
  rw [tFlash_dir]
  exact ⟨rfl, by decide, by decide, by decide, by rw [tFlash_root]; exact tFlash_choose⟩

theorem test_BootPhases : (phaseAt 2 id).pkg.getF F.CFG_BOOT.PHASE 0 = 2 ∧ (phaseAt 2 id).pkg.edgeModules 0 ≠ 0 ∧
    negotiate ((phaseAt 2 id).pkg.edgeCaps 0 0).1 ((phaseAt 2 id).pkg.edgeCaps 0 0).2 = some (2, 4) ∧
    1 < (phaseAt 2 id).pkg.edgeModules 0 ∧
    (phaseAt 3 id).pkg.getF F.CFG_BOOT.PHASE 0 = 3 ∧ live.pkg.hasVat 3 = true ∧ 95 < live.pkg.logCount ∧
    (let s := phaseAt 4 fun p => p.setVat 1 { Vat.init with st := .boot }
     s.pkg.getF F.CFG_BOOT.PHASE 0 = 4 ∧ s.pkg.boot.lib = none ∧ (s.pkg.vat 1).st = .boot ∧ (s.pkg.vat 1).cause = 0) ∧
    (let s := phaseAt 7 fun p => { p.withF [(F.CLAP_STAT.STATE, 0, 3)] with boot := { p.boot with lib := some (0, 1) } }
     s.pkg.getF F.CFG_BOOT.PHASE 0 = 7 ∧ s.pkg.clockOk = true ∧ s.pkg.boot.lib.isSome = true ∧
       ∀ v, v < 4 → s.pkg.hasVat v = true → (s.pkg.vat v).st = .ready) ∧
    5 ≤ (phaseAt 5 id).pkg.getF F.CFG_BOOT.PHASE 0 ∧ (phaseAt 7 id).pkg.getF F.CFG_BOOT.PHASE 0 ≤ 7 ∧
    (phaseAt 5 id).pkg.clockOk = false ∧ (phaseAt 5 id).pkg.boot.lateLog = false := by decide +kernel

theorem test_BoardEvents : live.pkg.pins.brakeLow = false ∧
    (let s := liveTo fun p => { p with pow := { p.pow with samples := List.replicate 57 65535 } }
     1000 * (s.pkg.burstW - 50) ≤ (((((65535 : Nat) :: s.pkg.pow.samples).take 100000).take 1000).foldl (· + ·) 0)) ∧
    State.reset.pkg.pins.resetN = false ∧ State.reset.pkg.pins.supply = true ∧
    (timeIn 7).pkg.getF F.CLAP_STAT.STATE 0 = 3 ∧ (timeIn 7).pkg.flag F.CLAP_CFG.TIME_FOLLOW 0 = true ∧
    (timeIn 7).pkg.flag F.GAFF_GPIO.TIME_EN 0 = true ∧ (timeIn 7).pkg.time % 1000000000 ≠ 500000000 := by decide +kernel
/-! ### Clapper, leads, continuity -/

/-- Firmware runs, with fields and the state of the leads changed. -/
def leadAt (fs : List (Fd × Nat × Nat)) (f : Lead → Lead) : State := fwState.pkgTo fun p => (p.withF fs).onLead f

/-- The top lead of a job with one set and two replicas, 16 and 32 in replica 0 and 1. -/
def topAt (f : Lead → Lead) : State :=
  (leadAt [(F.CLAP_ROLE.ROLE, 0, 2)] f).pkgTo fun p => { p with boot := { p.boot with map := [(16, 2 ^ 31), (32, 2 ^ 31 + 1)] } }

/-- Two reports of check step 8 that agree. -/
def agreed : Check := ⟨8, 5, [⟨16, false, 9, 3, 4, [0, 0, 0, 0]⟩, ⟨32, false, 9, 3, 4, [0, 0, 0, 0]⟩]⟩

theorem test_ClapperExchange : live.pending = [] ∧ live.pkg.lead.slew = 0 ∧
    (let s := liveTo fun p => p.withF [(F.PORT_STATUS.STATE, 3, 4), (F.CLAP_STAT.PARENT, 0, 3)]
     s.pkg.getF F.CLAP_STAT.STATE 0 ≠ 3 ∧ s.pkg.parentPort ≤ 17 ∧ s.pkg.role = 0 ∧
       s.pkg.flag F.CLAP_ROLE.TOP_STBY 0 = false) ∧
    (let s := leadAt [(F.CLAP_STAT.PARENT, 0, 3)] fun l => { l with t1 := some 9 }
     s.pkg.alive = true ∧ s.pkg.getF F.CLAP_STAT.STATE 0 ≠ 3 ∧ (4#12).toNat = s.pkg.parentId ∧
       s.pkg.lead.t1 = some (9#64).toNat) ∧
    (let s := leadAt [(F.CLAP_ROLE.ROLE, 0, 1), (F.CLAP_ROLE.TOP_ID, 0, 32)] id
     s.pkg.getF F.CLAP_STAT.STATE 0 ≠ 3 ∧ s.pkg.beatsTop = true) ∧
    (let s := leadAt [(F.CLAP_STAT.STATE, 0, 1)] fun l => { l with missed := 300 }
     s.pkg.getF F.CLAP_STAT.STATE 0 = 1 ∧ s.pkg.missMax ≤ s.pkg.lead.missed) := by decide

theorem test_LeadsChange : (let s := leadAt [] fun l => { l with kids := [(17, ⟨0, 0, 0, 0, false⟩)] }
     s.pkg.fwOn = true ∧ tfind s.pkg.lead.kids (17#12).toNat = some ⟨0, 0, 0, 0, false⟩ ∧ s.pkg.isTop = false) ∧
    (let s := topAt id
     s.pkg.fwOn = true ∧ s.pkg.isTop = true ∧ s.pkg.replicaOf (32#12).toNat = some 1 ∧ s.pkg.lead.dead.contains 1 = false) ∧
    (let s := leadAt [(F.CLAP_ROLE.STANDBY, 0, 1), (F.CLAP_ROLE.LEAD_ID, 0, 7)] fun l => { l with missed := 300 }
     s.pkg.fwOn = true ∧ s.pkg.flag F.CLAP_ROLE.STANDBY 0 = true ∧ s.pkg.role = 0 ∧ s.pkg.leadId ≠ s.pkg.pkgId ∧
       s.pkg.missMax ≤ s.pkg.lead.missed) ∧
    (0#16).toNat ≤ fwState.pkg.getF F.CLAP_ROLE.EPOCH 0 ∧ fwState.pkg.getF F.CLAP_ROLE.EPOCH 0 < (1#16).toNat ∧
    fwState.pkg.lead.topEpoch < (1#16).toNat ∧ fwState.pkg.lead.leadEpoch < (1#16).toNat ∧ (7#12).toNat ≠ fwState.pkg.pkgId ∧
    (7#12).toNat / 16 = fwState.pkg.pkgId / 16 ∧
    (let s := leadAt [(F.CLAP_STAT.STATE, 0, 2)] id
     s.pkg.role = 0 ∧ s.pkg.getF F.CLAP_STAT.STATE 0 = 2 ∧ s.pkg.lead.leaderless = false ∧ s.pkg.lead.newPar = false) ∧
    (let s := leadAt [(F.CLAP_STAT.STATE, 0, 2)] fun l => { l with newPar := true, missed := 300 }
     s.pkg.role = 0 ∧ s.pkg.lead.newPar = true ∧ s.pkg.missMax ≤ s.pkg.lead.missed) := by decide

theorem test_FirmwareSupervised : fwState.pkg.fwOn = true ∧ fwState.pkg.getF F.REL_SUP.RESTARTS_WIN 0 = 0 ∧
    (let s := leadAt [(F.REL_SUP.RESTARTS_WIN, 0, 1)] id
     s.pkg.getF F.REL_SUP.RESTARTS_WIN 0 ≠ 0 ∧ max s.pkg.time (s.pkg.lead.beatAt + s.pkg.supMs * 1000000) ≤
       s.pkg.boot.winStart + max 1 (s.pkg.getF F.REL_CFG.SUP_WINDOW_S 0) * 1000000000) ∧
    (let s := fwState.pkgTo fun p => { p with boot := { p.boot with restarting := true } }
     s.pkg.alive = true ∧ s.pkg.boot.restarting = true ∧ s.pkg.lead.own = none ∧ s.pkg.sec.queue = [] ∧
       s.pkg.getF F.CLAP_CONT_STATE.STATE 0 = 0 ∧ s.pkg.boot.held = []) ∧
    (let d : Duty := .wdogHalt (9#12).toNat 0
     let s := fwState.pkgTo fun p => { p with boot := { p.boot with restarting := true, held := [d] } }
     let up := s.pkgTo fun p =>
       { p with boot := { p.boot with restarting := false, held := [], source := 1 }, lead := { p.lead with beatAt := p.time } }
     s.pkg.boot.held = [d] ∧ up.pkg.fwOn = true) := by decide

theorem test_ContinuityCheck : (let s := fwState.pkgTo fun p => (p.setCore 0 (Core.init .run)).withF [(F.CORE_STEP.STEP_NO, 0, 40), (F.PRESS_DIG_CTL.DONE, 0, 1)]
     s.pkg.fwOn = true ∧ s.pkg.anyRun = true ∧ s.pkg.nextCheck < s.pkg.lowStep ∧
       s.pkg.flag F.PRESS_DIG_CTL.DONE 0 = true) ∧
    (leadAt [(F.CLAP_ROLE.ROLE, 0, 1)] id).pkg.role = 1 ∧ (topAt id).pkg.role = 2 ∧ (topAt id).pkg.lead.decided = none := by
  decide

theorem test_ContinuityCheck_agreed : let s := topAt fun l => { l with checks := [agreed] }
    let vs := s.pkg.votes agreed
    s.pkg.fwOn = true ∧ s.pkg.isTop = true ∧ s.pkg.lead.checks = agreed :: [] ∧ s.pkg.lead.rejoins = [] ∧
      2 ≤ (dedup (vs.map (·.replica))).length ∧
      vs = [⟨16, 0, 0, some ⟨16, false, 9, 3, 4, [0, 0, 0, 0]⟩⟩, ⟨32, 1, 0, some ⟨32, false, 9, 3, 4, [0, 0, 0, 0]⟩⟩] ∧
      (⟨16, false, 9, 3, 4, [0, 0, 0, 0]⟩ : ContRep).same ⟨32, false, 9, 3, 4, [0, 0, 0, 0]⟩ = true := by decide

theorem test_MembershipOrders : (let s := fwState
     s.pkg.fwOn = true ∧ s.pkg.lead.topEpoch < (1#16).toNat ∧ (0#12).toNat = s.pkg.topId) ∧
    (let s := topAt id
     s.pkg.fwOn = true ∧ s.pkg.isTop = true ∧ s.pkg.role ≠ 0 ∧ s.pkg.replicaOf (32#12).toNat = some 1 ∧
       (s.pkg.outAt lastStep).contains 1 = false ∧ (5#4).toNat ∈ [1, 4, 5] ∧ s.pkg.isOut 1 = false ∧
       s.pkg.lead.dead.contains 1 = false ∧ s.pkg.lead.rejoins = [] ∧ s.pkg.lead.poisoned = false ∧
       s.pkg.orders.any (·.kind == .stop) = false) := by decide

theorem test_RejoinsAndHolds : (let j : Joining := ⟨7, 16, false, false⟩
     let s := leadAt [] fun l => { l with join := some j }
     s.pkg.fwOn = true ∧ s.pkg.lead.join = some j ∧ j.donor = (16#12).toNat ∧ j.step = (7#64).toNat ∧ j.ready = false ∧
       ([5#32] : List (BitVec 32))[0]? = some 5) ∧
    (let j : Joining := ⟨7, 16, true, false⟩
     let s := (leadAt [] fun l => { l with join := some j }).pkgTo fun p =>
       { p.setCore 3 { Core.init .idle with hdr := { Hdr.none with loaded := true } } with sec := { p.sec with loads := [(3, 0, 0)] } }
     s.pkg.fwOn = true ∧ s.pkg.lead.join = some j ∧ j.ready = true ∧ j.started = false ∧ (3, 0, 0) ∈ s.pkg.sec.loads ∧
       s.pkg.startable 3 = true ∧ s.pkg.physOf 3 = some 3) ∧
    (topAt id).pkg.replicaOf (32#12).toNat = some 1 ∧ ((topAt id).pkg.outAt lastStep).contains 1 = false ∧
    (topAt id).pkg.lead.wdog = none ∧ (topAt id).pkg.lead.wdogged = false ∧
    (let s := topAt fun l => { l with wdog := some (0, [(32, 200)]) }
     s.pkg.fwOn = true ∧ s.pkg.isTop = true ∧ s.pkg.lead.wdog = some (0, [(32, 200)]) ∧ s.pkg.replicaOf 32 = some 1 ∧
       0 ∈ s.pkg.activeAt lastStep ∧ 0 ≠ 1 ∧ 32 ≠ s.pkg.pkgId) := by decide
/-! ### The host, the guest die, registers -/

/-- A header of a VCT command. -/
def vctHdr (code len ctr : Nat) : List Byte :=
  List.flatten [leBytes 2 0x5643, leBytes 1 1, leBytes 1 1, leBytes 2 code, leBytes 2 len, leBytes 4 0, leBytes 2 0, leBytes 2 0,
    leBytes 8 ctr, leBytes 8 0]

/-- A checked command of a host. -/
def vctOf (code : Nat) (payload : List Byte) : VctCmd :=
  ⟨0, false, 0x0A000001, 5000, vctHdr code payload.length 1, payload, [], true, 6⟩

/-- Firmware runs, and a command waits alone. -/
def hostAt (c : VctCmd) (f : Pkg → Pkg) : State := fwState.pkgTo fun p => f { p with sec := { p.sec with queue := [c] } }

/-- A KEY_INSTALL's ciphertext under the identity key of modulus `tN` and private exponent 1. -/
def tCt : Nat :=
  0x592f0ceead509e0c0b5c02c694d6440a3d094057d30377f240f05abaeebad04a3a534f05adfe6c19cdef827bf09606ccf52983a8953b0919dc84ebaa8482d96f07862555ddf19e3e66265f864fbad860ac9c7f904c77b1fe29710e6ebe0b1f7c2eae07c4a3654980bf4a63ea0c37303fd0b1d748f544351d39ca94848b21dfd3e26e165325fc01ba733e69add1abed2b3be7c8834b4f57b7688ca2a80543a3d7b704946ef6fbcdaf6a1f92a049eff4912572acfebd676709b7502e6de84f05834e8daa94d385fa8a115603044bb9b25fc4cd36d515ea53b77fe9acb8968716e1d66f080f23734eea58ccaa0b597e064d27724d553e84d57997081c56e7eda5ae3b96dbe90644d4e89f167a61188b9585003cbcecdd7abf00abc71b84393faea3ead7af6bc31e8cf8cdb893316d94fd267da941b7d1b80dfe8f193f8ea6bfe32fa6dea1ad8ba202b4641e077fc9b8917ce10cf626a2c41abdced4718ebd37b40496a0d0fbe343ade92779c9197ef20346277240e0ada2b20b8da1d78ae09dc5

/-- The owner's signature of it with its header, under the modulus `tN`. -/
def tOwn : Nat :=
  0x5b88d1ae3dbdf12d008d52ddbc3f1e66c1a0cefb2e5b216e8885ed5bbc63b544193a80d77b67e9debcdf90124c97efd9f755c4509cc1992a22fd0cb7ffdc66104f9edcbb34bbb2623576d218b82711198f0ab04b665b523c221607ee0af4612b245c1b05d836f4e8ff23177c7459b5a0372d0181f0ac726b3f45ae9d9a5e4ccfc02c608a16025e407326f29942aacd6e5db921af8d427898c7750373f8075918fe5ae3a0367be12a99aad4672b6a7a8ffc9f6731c866c8fb6344f143b706d037429ddad851947ba72e720d72e8ed94ad03b26c9cdfea678441dbdfd0a564f1e59d730fdc9ff88669b52a89b19133aa8e53d9f49f64d5f4155069fd31cf21fe20daea37e74e4b861722f5bfc77b1e69e66d44539030bd217dca9e44657a95398c1b9b65b5e2325d7076f96397dbd26954166f6346fbac97e962d63007c214e014e36150deb1e32f0eb33fcbee885b93610542d674d6ca6533712f66c385f94bf04030d2e145b1ee7e7e86d8ba72484ae6d8b83e8b054389fd136920cccc71d99

/-- The bytes of a program header for core 0: one bundle at 0x40001000. -/
def hdrBytes : List Byte :=
  let b := List.flatten [leBytes 4 0x56484452, leBytes 4 257, leBytes 4 0, leBytes 4 1, leBytes 8 0x40001000, leBytes 20 0,
    List.replicate 80 0]
  b ++ leBytes 4 (rindOf b)

/-- The datagram of a DISCOVER, and of a class H command under command key 5. -/
def discoverBytes : List Byte := vctHdr 1 0 0 ++ List.replicate 16 0
def haltBytes : List Byte :=
  let m := vctHdr 0x22 64 1 ++ List.replicate 64 0
  m ++ vctTag 5 m

/-- Ethernet port 0 enabled with a link, in running firmware. -/
def ethAt (link : Nat) (f : Pkg → Pkg) : State := fwState.pkgTo fun p =>
  f (p.withF [(F.ETH_PORT_CFG.EN, 0, 1), (F.ETH_PORT_CFG.MODES, 0, 7), (F.ETH_PORT_CFG.MAC, 0, 5), (F.ETH_STATUS.LINK, 0, link)])

theorem test_HostLinks : (ethAt 0 id).pkg.ethOn 0 = true ∧ (ethAt 0 id).pkg.flag F.ETH_STATUS.LINK 0 = false ∧
    (ethAt 0 id).pkg.getF F.ETH_PORT_CFG.MODES 0 &&& (2#3).toNat ≠ 0 ∧ (ethAt 1 id).pkg.hostUp = true ∧
    (ethAt 1 id).pkg.flag F.ETH_STATUS.LINK 0 = true ∧
    (ethAt 0 id).pkg.getF F.ETH_PORT_CFG.MODES 0 &&& (0#3).toNat = 0 := by decide

/-- Port 0 with a link: IPv4 address 7, IPv6 address 0, UDP port 9, VLAN tags as given. -/
def netAt (vlan : Nat) : State := ethAt 1 fun p => p.withF [(F.ETH_NET.IP4_EN, 0, 1), (F.ETH_NET.IP6_EN, 0, 1), (F.ETH_NET.IP4, 0, 7),
  (F.ETH_NET.UDP_PORT, 0, 9), (F.ETH_NET.VLAN_EN, 0, vlan), (F.ETH_NET.VLAN, 0, 5)]

theorem test_FramesReceived_drops : (netAt 0).pkg.ethOn 0 = true ∧ (netAt 0).pkg.flag F.ETH_STATUS.LINK 0 = true ∧
    (netAt 0).pkg.getF F.ETH_PORT_CFG.MAC 0 = 5 ∧
    (let f : Bytes := beBytes 6 7
     beAt f 0 6 ≠ 5 ∧ beAt f 0 6 ≠ 2 ^ 48 - 1 ∧ beAt f 0 6 ≠ 0x3333FF000000 + (netAt 0).pkg.ip6 % 2 ^ 24) ∧
    (let f : Bytes := List.replicate 12 0 ++ beBytes 2 0x8100
     (netAt 0).pkg.flag F.ETH_NET.VLAN_EN 0 = false ∧ beAt f 12 2 = 0x8100 ∧ (netAt 1).pkg.flag F.ETH_NET.VLAN_EN 0 = true ∧
       beAt f 14 2 % 4096 ≠ (netAt 1).pkg.getF F.ETH_NET.VLAN 0) := by decide

theorem test_FramesReceived_ip4 : let s := netAt 0
    (let b := List.flatten [beBytes 8 0x0001080006040001, List.replicate 16 0, beBytes 4 7]
     beAt b 0 8 = 0x0001080006040001 ∧ beAt b 24 4 = s.pkg.getF F.ETH_NET.IP4 0 ∧ 6 + 6 + 2 + b.length + 4 ≤ 9216) ∧
    s.pkg.flag F.ETH_NET.IP4_EN 0 = true ∧
    (∀ b ∈ [packet4 3 7 1 (beBytes 2 0x0800 ++ List.replicate 6 0), packet4 3 7 17 (udpPacket false 3 7 4 9 [1, 2])],
      beAt b 0 1 = 0x45 ∧ 20 ≤ beAt b 2 2 ∧ beAt b 2 2 ≤ b.length ∧ beAt b 6 2 % 0x4000 = 0 ∧ onesSum (b.take 20) = 65535 ∧
        beAt b 16 4 = s.pkg.getF F.ETH_NET.IP4 0) ∧
    (let b := packet4 3 7 1 (beBytes 2 0x0800 ++ List.replicate 6 0)
     beAt b 9 1 = 1 ∧ beAt ((b.take (beAt b 2 2)).drop 20) 0 1 = 8 ∧ beAt b 2 2 ≤ 1500) ∧
    (let b := packet4 3 7 17 (udpPacket false 3 7 4 9 [1, 2])
     let u := (b.take (beAt b 2 2)).drop 20
     beAt b 9 1 = 17 ∧ 8 ≤ u.length ∧ beAt u 4 2 = u.length ∧ beAt u 2 2 = s.pkg.getF F.ETH_NET.UDP_PORT 0 ∧
       onesSum (pseudo false (beAt b 12 4) 7 17 u.length ++ u) = 65535) := by decide +kernel

theorem test_FramesReceived_ip6 : let p := (netAt 0).pkg
    let ask := p.packet6 0 255 (List.flatten [beBytes 4 0x87000000, beBytes 4 0, beBytes 16 0])
    let echo := p.packet6 0 64 (beBytes 4 0x80000000 ++ List.replicate 4 0)
    let udp := p.ip6Packet 0 17 64 (udpPacket true 0 0 4 9 [1])
    let body (b : List Byte) : List Byte := (b.drop 40).take (beAt b 4 2)
    p.flag F.ETH_NET.IP6_EN 0 = true ∧
    (∀ b ∈ [ask, echo, udp], beAt b 0 1 / 16 = 6 ∧ 40 + beAt b 4 2 ≤ b.length ∧ beAt b 24 16 = p.ip6) ∧
    (∀ b ∈ [ask, echo], beAt b 6 1 = 58 ∧ onesSum (pseudo true (beAt b 8 16) (beAt b 24 16) 58 (body b).length ++ body b) = 65535) ∧
    beAt (body ask) 0 1 = 135 ∧ beAt (body ask) 8 16 = p.ip6 ∧ beAt (body echo) 0 1 = 128 ∧ 40 + (body echo).length ≤ 1500 ∧
    beAt udp 6 1 = 17 ∧ 8 ≤ (body udp).length ∧ beAt (body udp) 4 2 = (body udp).length ∧
    beAt (body udp) 2 2 = p.getF F.ETH_NET.UDP_PORT 0 ∧ beAt (body udp) 6 2 ≠ 0 ∧
    onesSum (pseudo true (beAt udp 8 16) (beAt udp 24 16) 17 (body udp).length ++ body udp) = 65535 := by decide +kernel

theorem test_HostLinks_command : let s := fwState.pkgTo fun p => { p with sec := { p.sec with cmdKey := some 5 } }
    s.pkg.hostUp = true ∧ s.pkg.queued 4 = false ∧ s.pkg.sec.queue = [] ∧
    (∀ b ∈ [discoverBytes, haltBytes], let c := VctCmd.ofBytes 0 false 7 5000 6 b
     s.pkg.formOk c = true ∧ s.pkg.noRoom c = false ∧ s.pkg.authBad c = none ∧ vctCodes.contains c.code = true) ∧
    (VctCmd.ofBytes 0 false 7 5000 6 haltBytes).classN = false ∧ (VctCmd.ofBytes 0 false 7 5000 6 haltBytes).classS = false ∧
    s.pkg.formOk (VctCmd.ofBytes 0 false 7 5000 6 []) = false := by decide +kernel

theorem test_HostCommands_codes : ∀ n ∈ vctCodes, (hostAt (vctOf n []) id).pkg.sec.queue = [vctOf n []] ∧
    (hostAt (vctOf n []) id).pkg.front n = some (vctOf n []) := by decide +kernel

/-- A flash whose wrapped identity private key is the exponent 1, under a device-unique key of zeros (RFC 5649). -/
def idFlash : Flash := { Flash.blank with idN := tN, idWrap := beBytes 16 25531720293624392186347454455398080762 }

theorem test_HostCommands_attest : (hostAt (vctOf 3 (List.replicate 32 1)) fun p => { p with flash := idFlash }).pkg.idKey = some 1 := by
  decide +kernel

theorem test_HostCommands_payload : (hostAt (vctOf 3 (List.replicate 32 1)) id).pkg.front 3 = some (vctOf 3 (List.replicate 32 1)) ∧
    (vctOf 3 (List.replicate 32 1)).payload.length = 32 ∧
    (let o := Reg.GAFF_CFG.off
     let c := vctOf 0x10 (leBytes 8 o ++ leBytes 8 0)
     (hostAt c id).pkg.front 0x10 = some c ∧ o < 2 ^ 24 ∧ o % 8 = 0 ∧ Reg.ofOff o = some .GAFF_CFG ∧
       Reg.GAFF_CFG.isSel = false ∧ Reg.GAFF_CFG.selected = false ∧ (hostAt c id).pkg.lead.join = none) ∧
    (let c := vctOf 0x21 (leBytes 64 1)
     let s := hostAt c fun p => p.setCore 0 { Core.init .idle with hdr := { Hdr.none with loaded := true } }
     s.pkg.front 0x21 = some c ∧ c.payload.length = 64 ∧ s.pkg.safe = false ∧
       (maskIds 512 (ofLe c.payload)).all (s.pkg.startable ·) = true ∧ 0 ∈ maskIds 512 (ofLe c.payload) ∧ s.pkg.physOf 0 = some 0) ∧
    (let c := vctOf 0x22 (leBytes 64 1)
     let s := hostAt c fun p => p.setCore 0 (Core.init .run)
     s.pkg.front 0x22 = some c ∧ c.payload.length = 64 ∧ s.pkg.getF F.CLAP_CONT_STATE.STATE 0 = 0 ∧
       (maskIds 512 (ofLe c.payload)).all (s.pkg.haltable ·) = true ∧ 0 ∈ maskIds 512 (ofLe c.payload)) ∧
    (let w := 2 ^ 63 + 5000 * 65536 + 15
     (hostAt (vctOf 0x30 (leBytes 8 w)) id).pkg.front 0x30 = some (vctOf 0x30 (leBytes 8 w)) ∧ w < 2 ^ 64 ∧ bitOf w 63 = true) ∧
    (let d := leBytes 8 99
     let c := vctOf 0x40 (leBytes 8 0x2000000 ++ leBytes 8 d.length ++ d)
     (hostAt c id).pkg.front 0x40 = some c ∧ d.length ≤ 8192 ∧ d.length % 8 = 0 ∧ (hostAt c id).pkg.stagingRegions.any
       (fun r => decide (r.1 ≤ 0x2000000) && decide (0x2000000 + d.length ≤ r.1 + r.2)) = true) := by decide +kernel

theorem test_HostCommands_memory : (let c := vctOf 0x11 (leBytes 8 0x40000040 ++ leBytes 8 64)
     let s := hostAt c id
     s.pkg.front 0x11 = some c ∧ 0x40000040 / 4096 = (0x40000040 + 64 - 1) / 4096 ∧ s.pkg.place 0x40000040 = .user 0 ∧
       s.pkg.place (0x40000040 + 64 - 1) = .user 0 ∧ s.pkg.vatReady 0 = true ∧ s.pkg.safe = false ∧
       s.pkg.held (stackOf 0x40000040) = false ∧ s.pkg.badIn 0x40000040 64 = [] ∧
       (s.pkg.directs 5 false false (hostBlocks false 0x40000040 64)).isSome = true) ∧
    (let d := leBytes 8 99
     let c := vctOf 0x12 (leBytes 8 0x40000040 ++ leBytes 8 d.length ++ d)
     let s := hostAt c id
     s.pkg.front 0x12 = some c ∧ s.pkg.place (0x40000040 + d.length - 1) = s.pkg.place 0x40000040 ∧
       s.pkg.inCave 0x40000040 = false ∧ s.pkg.inCave (0x40000040 + d.length - 1) = false ∧
       s.sound ∧ s.mem.wf = true ∧ (s.pkg.directs 5 true false (hostBlocks false 0x40000040 d.length)).isSome = true) := by
  unfold State.sound; decide +kernel

theorem test_HostCommands_load : let c := vctOf 0x20 (leBytes 8 0x40000000 ++ leBytes 8 0)
    let s : State := { hostAt c fun p => p.setCore 0 (Core.init .idle) with mem := Memory.write [] 0x40000000 hdrBytes }
    let h := PHdr.ofBytes (s.mem.read 0x40000000 128)
    s.pkg.front 0x20 = some c ∧ s.pkg.loads = true ∧ s.pkg.reg .NUM_TCFG_ADDR 0 = 0 ∧ s.pkg.place 0x40000000 = .user 0 ∧
      s.pkg.vatReady 0 = true ∧ s.pkg.held (stackOf 0x40000000) = false ∧ s.sound ∧
      s.pkg.hdrCheck (s.mem.read 0x40000000 128) [] [h.core] = none ∧ s.pkg.physOf h.core = some 0 := by
  unfold State.sound; decide +kernel

theorem test_HostCommands_key : let c := vctOf 4 (beBytes 384 tCt ++ beBytes 384 tOwn)
    let s := hostAt c fun p => { p with sec := { p.sec with ownerN := tN }, flash := idFlash }
    s.pkg.front 4 = some c ∧ c.payload.length = 768 ∧ s.pkg.sec.ownerN ≠ 0 ∧
      pssVerify s.pkg.sec.ownerN (c.hdr ++ c.payload.take 384) (c.payload.drop 384) = true ∧
      s.pkg.idKey = some 1 ∧ oaepDecrypt s.pkg.flash.idN 1 (c.payload.take 384) = some (beBytes 32
        0x0102030405060708090A0B0C0D0E0F101112131415161718191A1B1C1D1E1F20) := by decide +kernel

/-- A subscription of the EVENT FIFO with one record in it, links as given. -/
def subAt (link : Nat) : State := fwState.pkgTo fun p =>
  { p.withF [(F.ETH_STATUS.LINK, 0, link)] with fifos := [(0, [5, 6])], sec := { p.sec with sub := some ⟨false, 7, 5000, 6, 0, false, 15⟩ } }

theorem test_NoticesAndGuest : (∀ l ∈ [0, 1], let s := subAt l
     s.pkg.hostUp = true ∧ s.pkg.executes = true ∧ s.pkg.sec.sub = some ⟨false, 7, 5000, 6, 0, false, 15⟩ ∧
       s.pkg.takeGroups 15 ≠ [] ∧ s.pkg.noticePort ⟨false, 7, 5000, 6, 0, false, 15⟩ = if l = 0 then none else some 0) ∧
    fwState.pkg.sec.sub = none ∧
    (let u : Sub := ⟨false, 7, 5000, 6, 0, true, 15⟩
     let s := (subAt 0).pkgTo fun p => { p with sec := { p.sec with sub := some u } }
     s.pkg.sec.sub = some u ∧ s.pkg.hostUp = true ∧ s.pkg.executes = true ∧ s.pkg.takeGroups 15 ≠ [] ∧
       s.pkg.reaches (s.pkg.getF F.CLAP_ROLE.LEAD_ID 0) = true ∧
       (s.pkg.setF F.CLAP_ROLE.LEAD_ID 0 9).reaches 9 = false) ∧
    (guestTo id).pkg.alive = true ∧ bitOf ((guestTo id).pkg.getF F.PORT_GUEST.OPTICAL 0) (15 - 15) = true ∧
    (let s := liveTo fun p => { p with fuse := { p.fuse with guest := true } }
     s.pkg.alive = true ∧ s.pkg.fuse.guest = true ∧ s.sound) ∧ 0x020020000000 ≤ (0x020020000000#48).toNat ∧
    (0x020020000000#48).toNat + 64 ≤ 0x020020400000 ∧ (0x40000000#48).toNat < 0x020020000000 ∧ (14#5).toNat < 15 := by
  unfold State.sound; decide

theorem test_RegistersAccessed : fwState.pkg.fwOn = true ∧ fwState.pkg.lead.join = none ∧
    (∀ r ∈ ([.CLAP_CFG, .LOG_TRACE_CFG] : List Reg), Reg.ofOff r.off = some r ∧ r.isSel = false ∧ r.selected = false ∧
      fwState.pkg.writeOpen r 0 = true) ∧
    (fwState.pkgTo fun p => p.setCore 0 (Core.init .run)).pkg.writeOpen .CLAP_CFG 0 = false := by decide
end Sys2Proof.Machine
end

section
/-! SUPPORT. Words against the numbers and integers that the meanings compute with: sign extension, arithmetic shifts,
signed order. -/
namespace Sys2Proof.Machine

theorem toSigned_eq_toInt (w n : Nat) : toSigned w n = (BitVec.ofNat w n).toInt := by
  simp [toSigned, BitVec.toInt]

@[simp] theorem toSigned_toNat {w : Nat} (x : BitVec w) : toSigned w x.toNat = x.toInt := by
  rw [toSigned_eq_toInt, BitVec.ofNat_toNat, BitVec.setWidth_eq]

theorem ofSigned_eq_toNat (w : Nat) (x : Int) : ofSigned w x = (BitVec.ofInt w x).toNat := by
  simp [ofSigned, BitVec.toNat_ofInt]

theorem sext64_eq_toNat (w n : Nat) : sext64 w n = ((BitVec.ofNat w n).signExtend 64).toNat := by
  rw [sext64, toSigned_eq_toInt, ofSigned_eq_toNat, BitVec.signExtend]

theorem sra64_eq_toNat (a : Word) (n : Nat) : sra64 a.toNat n = (a.sshiftRight n).toNat := by
  rw [sra64, toSigned_toNat, ofSigned_eq_toNat, BitVec.sshiftRight]

/-- Sign extension keeps the low half of an immediate. -/
theorem toNat_signExtend_mod (i : BitVec 32) : (i.signExtend 64).toNat % 2 ^ 32 = i.toNat := by
  have := i.isLt
  rw [BitVec.toNat_signExtend]
  split <;> simp <;> omega

theorem toNat_signExtend_mod_64 (i : BitVec 32) : (i.signExtend 64).toNat % 64 = i.toNat % 64 := by
  have := toNat_signExtend_mod i
  omega

theorem ofNat_b2n_decide {n : Nat} (P : Prop) [Decidable P] : BitVec.ofNat n (b2n (decide P)) = if P then 1 else 0 := by
  by_cases h : P <;> simp [b2n, h]

theorem ofNat_add_two_pow_sub (a b : Word) : BitVec.ofNat 64 (a.toNat + (2 ^ 64 - b.toNat)) = a - b := by
  apply BitVec.eq_of_toNat_eq
  have := a.isLt
  have := b.isLt
  simp only [BitVec.toNat_ofNat, BitVec.toNat_sub]
  omega

theorem ofNat_shiftLeft_toNat (a : Word) (n : Nat) : BitVec.ofNat 64 (a.toNat <<< n) = a <<< n := by
  apply BitVec.eq_of_toNat_eq; simp

theorem ofNat_shiftRight_toNat (a : Word) (n : Nat) : BitVec.ofNat 64 (a.toNat >>> n) = a >>> n := by
  apply BitVec.eq_of_toNat_eq
  simpa using Nat.mod_eq_of_lt (lt_of_le_of_lt (Nat.shiftRight_le _ _) a.isLt)

theorem ofNat_halves (i : BitVec 32) (a : Word) :
    BitVec.ofNat 64 (i.toNat * 2 ^ 32 + a.toNat % 2 ^ 32) = (i ++ a.setWidth 32 : BitVec 64) := by
  apply BitVec.eq_of_toNat_eq
  have hi := i.isLt
  have ha : a.toNat % 2 ^ 32 < 2 ^ 32 := Nat.mod_lt _ (by decide)
  rw [BitVec.toNat_append, BitVec.toNat_setWidth, ← Nat.shiftLeft_add_eq_or_of_lt ha, Nat.shiftLeft_eq, BitVec.toNat_ofNat]
  omega

end Sys2Proof.Machine
end

section
/-! SUPPORT. Scalar ops (R166, R167): one law per form, which each op meets by what it computes. -/
namespace Sys2Proof.Machine

/-! ### Operands and results -/

theorem Entry.toNat_s (e : Entry) (r : Nat) : (e.s r).toNat = scal e.sc r := by
  unfold Entry.s scal; split <;> simp_all

theorem Core.setS_eq_sTo (c : Core) (r v : Nat) : c.setS r v = c.sTo r (BitVec.ofNat 64 v) := by
  by_cases h : r = 0 <;> simp [Core.setS, Core.sTo, h]

/-! ### The forms -/

section
variable {s : State} {id : BitVec 9} {k opc : Nat} {bits : BitVec 64} {e : Entry} {c : Instr}

theorem State.scNext.carries (h : s.scNext id k opc bits e) : s.carries id k :=
  let ⟨⟨hc, _⟩, _⟩ := h; hc

theorem State.scNext.run (h : s.scNext id k opc bits e) : (s.core k).st = .run :=
  let ⟨⟨_, hr⟩, _⟩ := h; hr

theorem State.scNext.opcOf_eq (h : s.scNext id k opc bits e) : opcOf bits.toNat = opc :=
  let ⟨_, ho, _⟩ := h; ho

theorem State.scNext.bits_eq (h : s.scNext id k opc bits e) : e.bits = bits.toNat :=
  let ⟨_, _, _, hb⟩ := h; hb

/-- A command at a core that is carried, by the package that it leaves. -/
theorem exec_atCore {f : Memory → Nat → Pkg → Pkg} {g : Pkg → Pkg} (hc : exec c s = atCore id s f) (h : s.carries id k)
    (hg : f s.mem k s.pkg = g s.pkg) : exec c s = .next (s.pkgTo g) := by
  rw [hc, atCore_carries h, State.pkgTo_congr hg]

/-- An SC op that changes only its core changes the core that has executed it. -/
theorem exec_scOp {g : Entry → Core → Core} {f : Core → Core}
    (hc : exec c s = atCore id s fun _ k p => p.scOp k opc bits.toNat fun e q => q.onCore k (g e))
    (h : s.scNext id k opc bits e) (hg : ∀ c : Core, g e c.scDone = f c) : exec c s = .next (s.coreTo k f) := by
  refine exec_atCore hc h.carries ?_
  rw [Pkg.scOp_scNext h, Pkg.onCore_onCore _ _ _ _ h.run]
  exact congrArg _ (funext hg)

/-- An op of the R form leaves the word that its number function computes. -/
theorem exec_scR {f : Nat → Nat → Nat} {w : Word}
    (hc : exec c s = atCore id s fun _ k p => p.scR k opc bits.toNat f) (h : s.scNext id k opc bits e)
    (hw : BitVec.ofNat 64 (f (e.s (fld bits.toNat 17 13)).toNat (e.s (fld bits.toNat 22 18)).toNat) = w) :
    exec c s = .next (s.coreTo k fun c => c.scDone.sTo (fld bits.toNat 12 8) w) :=
  exec_scOp hc h fun c => by rw [Core.setS_eq_sTo, h.bits_eq, ← Entry.toNat_s, ← Entry.toNat_s, hw]

/-- An op of the I form leaves the word that its number function computes of the extended immediate. -/
theorem exec_scI {f : Nat → Nat → Nat} {w : Word}
    (hc : exec c s = atCore id s fun _ k p => p.scI k opc bits.toNat f) (h : s.scNext id k opc bits e)
    (hw : BitVec.ofNat 64 (f (e.s (fld bits.toNat 17 13)).toNat
      ((BitVec.ofNat 32 (fld bits.toNat 63 32)).signExtend 64).toNat) = w) :
    exec c s = .next (s.coreTo k fun c => c.scDone.sTo (fld bits.toNat 12 8) w) :=
  exec_scOp hc h fun c => by rw [Core.setS_eq_sTo, h.bits_eq, ← Entry.toNat_s, sext64_eq_toNat, hw]

end

/-! ### Every op -/

/-- Settles O9: each op meets its form's law, and its number function computes the word function that R166 names. -/
theorem scalarArithmetic : Obligations.ScalarArithmetic := by
  unfold Obligations.ScalarArithmetic
  simp only [List.forall_mem_cons, List.not_mem_nil, false_implies, implies_true, and_true]
  refine ⟨⟨?add, ?sub, ?and, ?or, ?xor, ?shl, ?shr, ?sra, ?mul, ?mulhu, ?slt, ?sltu⟩,
    ?addi, ?andi, ?ori, ?xori, ?shli, ?shri, ?srai, ?lih⟩ <;> intro s id k bits e h
  case add => exact exec_scR rfl h (by simp [BitVec.ofNat_add])
  case sub => exact exec_scR rfl h (ofNat_add_two_pow_sub _ _)
  case and => exact exec_scR rfl h (by simp)
  case or => exact exec_scR rfl h (by simp)
  case xor => exact exec_scR rfl h (by simp)
  case shl => exact exec_scR rfl h (ofNat_shiftLeft_toNat _ _)
  case shr => exact exec_scR rfl h (ofNat_shiftRight_toNat _ _)
  case sra => exact exec_scR rfl h (by simp [sra64_eq_toNat])
  case mul => exact exec_scR rfl h (by simp [BitVec.ofNat_mul])
  case mulhu => exact exec_scR rfl h rfl
  case slt => exact exec_scR rfl h (by simp [ofNat_b2n_decide, BitVec.slt])
  case sltu => exact exec_scR rfl h (by simp [ofNat_b2n_decide, BitVec.ult])
  case addi => exact exec_scI rfl h (by simp [BitVec.ofNat_add])
  case andi => exact exec_scI rfl h (by simp)
  case ori => exact exec_scI rfl h (by simp)
  case xori => exact exec_scI rfl h (by simp)
  case shli => exact exec_scI rfl h (by rw [toNat_signExtend_mod_64, ofNat_shiftLeft_toNat])
  case shri => exact exec_scI rfl h (by rw [toNat_signExtend_mod_64, ofNat_shiftRight_toNat])
  case srai => exact exec_scI rfl h (by simp [toNat_signExtend_mod_64, sra64_eq_toNat])
  case lih => exact exec_scI rfl h (by rw [toNat_signExtend_mod, ofNat_halves])

end Sys2Proof.Machine
end

section
/-! SUPPORT. What the landing of a core's results, the abandoning of its bracket and the summary of its skips leave as
they were: all that decides whether, where and at which step the core goes on. -/
namespace Sys2Proof.Machine

/-- The registers that say at which step a core is and whether its package is out of the machine. -/
def Reg.isControl : Reg → Bool
  | .CORE_STEP | .CLAP_CONT_STATE => true
  | _ => false

theorem Reg.ne_of_isControl {r q : Reg} (hr : r.isControl = false) (hq : q.isControl = true) : r ≠ q := by
  rintro rfl; exact absurd (hr.symm.trans hq) Bool.false_ne_true

/-- Core `d` has the state, the hold and the scalar file of core `c`. -/
structure Core.SameControl (c d : Core) : Prop where
  st : d.st = c.st
  hold : d.fe.hold = c.fe.hold
  s : d.s = c.s

/-- In `q` core `k` has the state, the hold and the scalar file of `p`, and the package the orders, the part in a rejoin, the
pending swap and the control registers. -/
structure Pkg.SameControl (k : Nat) (p q : Pkg) : Prop where
  core : (p.core k).SameControl (q.core k)
  orders : q.orders = p.orders
  lead : q.lead = p.lead
  swap : q.swap = p.swap
  reg : ∀ r : Reg, r.isControl = true → ∀ i, q.reg r i = p.reg r i

namespace Pkg.SameControl

variable {k : Nat} {p q r : Pkg}

theorem refl (k : Nat) (p : Pkg) : SameControl k p p := ⟨⟨rfl, rfl, rfl⟩, rfl, rfl, rfl, fun _ _ _ => rfl⟩

theorem trans (h : SameControl k p q) (g : SameControl k q r) : SameControl k p r where
  core := ⟨g.core.st.trans h.core.st, g.core.hold.trans h.core.hold, g.core.s.trans h.core.s⟩
  orders := g.orders.trans h.orders
  lead := g.lead.trans h.lead
  swap := g.swap.trans h.swap
  reg x hx i := (g.reg x hx i).trans (h.reg x hx i)

theorem getF (h : SameControl k p q) {f : Fd} (i : Nat) (hf : f.reg.isControl = true := by rfl) : q.getF f i = p.getF f i := by
  unfold Pkg.getF; rw [h.reg f.reg hf]

theorem setReg (h : SameControl k p q) {x : Reg} (i : Nat) (w : Word) (hx : x.isControl = false) :
    SameControl k p (q.setReg x i w) :=
  h.trans ⟨⟨rfl, rfl, rfl⟩, rfl, rfl, rfl, fun _ hr i => Pkg.reg_setReg_ne _ _ i _ (Reg.ne_of_isControl hx hr)⟩

theorem setF (h : SameControl k p q) {f : Fd} {i v : Nat} (hf : f.reg.isControl = false := by rfl) :
    SameControl k p (q.setF f i v) := h.setReg _ _ hf

theorem addF (h : SameControl k p q) {f : Fd} {i n : Nat} (hf : f.reg.isControl = false := by rfl) :
    SameControl k p (q.addF f i n) := h.setF hf

theorem event (h : SameControl k p q) {code vat kind : Nat} {phys : Bool} {ix slate det : Nat} :
    SameControl k p (q.event code vat kind phys ix slate det) :=
  h.trans ⟨⟨by simp, by simp, by simp⟩, by simp, by simp, by simp, fun _ hr i =>
    Pkg.reg_event _ _ _ _ _ _ _ _ i (Ne.symm (Reg.ne_of_isControl rfl hr))⟩

theorem onCore (h : SameControl k p q) {f : Core → Core}
    (hf : ∀ c : Core, c.SameControl (f c) := by exact fun _ => ⟨rfl, rfl, rfl⟩) : SameControl k p (q.onCore k f) :=
  h.trans ⟨by simpa using hf _, rfl, rfl, rfl, fun _ _ _ => rfl⟩

theorem ite {b : Prop} [Decidable b] (h : SameControl k p q) (g : SameControl k p r) :
    SameControl k p (if b then q else r) := by split <;> assumption

/-- A change on a condition. -/
theorem change_if {b : Prop} [Decidable b] (h : SameControl k p q) (g : SameControl k q r) :
    SameControl k p (if b then r else q) := ite (h.trans g) h

theorem foldl {α : Type} (h : SameControl k p q) {f : Pkg → α → Pkg} (hf : ∀ p x, SameControl k p (f p x)) (l : List α) :
    SameControl k p (l.foldl f q) := by
  induction l generalizing q with
  | nil => exact h
  | cons x l ih => exact ih (h.trans (hf q x))

end Pkg.SameControl

/-! ### The landing of results -/

theorem Core.scrWriteRuns_frame (rs : List Run) (bs : List Byte) (c : Core) :
    ∃ t, c.scrWriteRuns rs bs = { c with scr := t } := by
  induction rs generalizing bs c with
  | nil => exact ⟨c.scr, rfl⟩
  | cons r rs ih => exact ih (bs.drop r.len) (c.scrPut r.addr (bs.take r.len))

theorem Core.scrMark_frame (c : Core) (rs : List Run) (taint : Bool) :
    ∃ t f, c.scrMark rs taint = { c with scrT := t, flight := f } := by
  unfold Core.scrMark
  dsimp only
  split
  · exact ⟨_, _, rfl⟩
  · exact ⟨_, c.flight, rfl⟩

/-- A write of scratch changes scratch, its taint and what the loads in flight remember of it. -/
theorem Core.scrMark_scrWriteRuns_frame (c : Core) (rs : List Run) (bs : List Byte) (taint : Bool) :
    ∃ x t f, (c.scrWriteRuns rs bs).scrMark rs taint = { c with scr := x, scrT := t, flight := f } := by
  obtain ⟨x, hx⟩ := Core.scrWriteRuns_frame rs bs c
  obtain ⟨t, f, ht⟩ := Core.scrMark_frame (c.scrWriteRuns rs bs) rs taint
  exact ⟨x, t, f, by rw [ht, hx]⟩

section
variable {k : Nat} {p q : Pkg}

theorem Pkg.SameControl.land (h : SameControl k p q) (brk : Option Nat) (c : Cnt) : SameControl k p (q.land k brk c) := by
  have counted : SameControl k p ((((q.addF F.CORE_CVT_CNT0.OVERFLOW k c.ovf).addF F.CORE_CVT_CNT0.NONFINITE k c.nf).addF
    F.CORE_CVT_CNT1.UNDERFLOW k c.unf).addF F.CORE_NUM_CNT.RANGE k c.rng) := h.addF.addF.addF.addF
  unfold Pkg.land
  exact .ite (.addF <| .addF <| .addF <| .addF <| .change_if (.change_if counted (.setF <| .setF <| refl _ _))
    (.setF <| refl _ _)) counted

theorem Pkg.SameControl.recordMag (h : SameControl k p q) (brk : Option Nat) (tid mag excess : Nat) :
    SameControl k p (q.recordMag k brk tid mag excess) := by
  unfold Pkg.recordMag Core.setEnt
  exact .ite h.onCore h

theorem Pkg.SameControl.landOne (h : SameControl k p q) (x : Late) : SameControl k p (q.landOne k x) := by
  unfold Pkg.landOne Core.setV Core.setP
  split
  · exact .setF (.onCore h)
  · exact .setF (.onCore h)
  · refine h.onCore fun c => ?_
    obtain ⟨_, _, _, e⟩ := c.scrMark_scrWriteRuns_frame _ _ _
    rw [e]
    exact ⟨rfl, rfl, rfl⟩

theorem Pkg.SameControl.landCnt (h : SameControl k p q) (x : LateCnt) : SameControl k p (q.landCnt k x) := by
  unfold Pkg.landCnt
  split
  · exact (h.recordMag ..).land ..
  · exact h.land ..

theorem Pkg.SameControl.landMx (h : SameControl k p q) (y : LateMx) : SameControl k p (q.landMx k y) := by
  unfold Pkg.landMx
  exact .land (.setF (.onCore h)) _ _

theorem Pkg.SameControl.landLate (h : SameControl k p q) (sel : Eng → Nat → Bool) : SameControl k p (q.landLate k sel) := by
  unfold Pkg.landLate
  exact .foldl (.foldl (.onCore h) (fun p x => (refl k p).landOne x) _) (fun p x => (refl k p).landCnt x) _

theorem Pkg.SameControl.landMxs (h : SameControl k p q) (sel : Nat → Bool) : SameControl k p (q.landMxs k sel) := by
  unfold Pkg.landMxs
  exact .foldl (.onCore h) (fun p y => (refl k p).landMx y) _

theorem Pkg.SameControl.landAll (h : SameControl k p q) : SameControl k p (q.landAll k) := (h.landLate _).landMxs _

/-! ### A bracket abandoned, skips summed up -/

theorem Pkg.SameControl.abandon (h : SameControl k p q) : SameControl k p (q.abandon k) := by
  unfold Pkg.abandon
  exact .onCore (.setF (.setF h))

theorem Pkg.SameControl.skipSummary (h : SameControl k p q) (slate : Nat) : SameControl k p (q.skipSummary k slate) := by
  unfold Pkg.skipSummary
  exact .ite (.onCore h) (.setF (.event (.onCore h)))

end

end Sys2Proof.Machine
end
section
/-! SUPPORT. The branches, step boundary and end of a program (R168, R172, R182–R184). -/
namespace Sys2Proof.Machine

section
variable {s : State} {id : BitVec 9} {k opc : Nat} {bits : BitVec 64} {e : Entry} {c : Instr}

/-! ### Branches -/

theorem branchTarget_imm {b : Nat} (h : opcOf b ≠ 0x22) (idx : Nat) (sc : Tab Word) :
    branchTarget b idx sc = idx + (BitVec.ofNat 32 (fld b 63 32)).toInt := by
  simp [branchTarget, h, toSigned_eq_toInt]

theorem branchTarget_reg {b : Nat} (h : opcOf b = 0x22) (idx : Nat) (sc : Tab Word) :
    branchTarget b idx sc = scal sc (fld b 15 11) := by
  simp [branchTarget, h]

/-- A branch holds fetch for the bundle `t` that it chooses. -/
theorem exec_scBranch {takes : Entry → Bool} {t : Nat}
    (hc : exec c s = atCore id s fun _ k p => p.scBranch k opc bits.toNat takes) (h : s.scNext id k opc bits e)
    (ht : (if takes e then (branchTarget bits.toNat e.idx e.sc).toNat else e.idx + 1) = t) :
    exec c s = .next (s.coreTo k fun c => c.scDone.holdTo (.branch t)) :=
  exec_scOp hc h fun c => by rw [h.bits_eq, ht]; rfl

/-- The conditions of SC.BRC as relations of words (R172). -/
def branchConds : List (Nat × (Word → Word → Bool)) :=
  [(0, fun a b => a == b), (1, fun a b => a != b), (2, fun a b => a.slt b), (3, fun a b => b.sle a),
    (4, fun a b => a.ult b), (5, fun a b => b.ule a)]

theorem condHolds_of_mem {q : Nat × (Word → Word → Bool)} (hq : q ∈ branchConds) (a b : Word) :
    condHolds q.1 a.toNat b.toNat = q.2 a b := by
  revert q
  simp only [branchConds, List.forall_mem_cons, List.not_mem_nil, false_implies, implies_true, and_true, condHolds]
  refine ⟨?eq, ?ne, ?lt, ?ge, ?ltu, ?geu⟩
  case eq => simp [Bool.beq_eq_decide_eq, BitVec.toNat_eq]
  case ne => simp [bne, BitVec.toNat_eq]
  case lt => simp [BitVec.slt]
  case ge => simp [BitVec.sle]
  case ltu => rfl
  case geu => rfl

theorem exec_scBr (h : s.scNext id k 0x20 bits e) : exec (.scBr id bits) s = .next (s.coreTo k fun c =>
    c.scDone.holdTo (.branch ((e.idx : Int) + (BitVec.ofNat 32 (fld bits.toNat 63 32)).toInt).toNat)) :=
  exec_scBranch rfl h (by rw [branchTarget_imm (by simp [h.opcOf_eq])]; rfl)

theorem exec_scBri (h : s.scNext id k 0x22 bits e) : exec (.scBri id bits) s = .next (s.coreTo k fun c =>
    c.scDone.holdTo (.branch (e.s (fld bits.toNat 15 11)).toNat)) :=
  exec_scBranch rfl h (by rw [branchTarget_reg h.opcOf_eq, Entry.toNat_s]; rfl)

theorem exec_scBrc (h : s.scNext id k 0x21 bits e) {q : Nat × (Word → Word → Bool)} (hq : q ∈ branchConds)
    (hc : fld bits.toNat 10 8 = q.1) : exec (.scBrc id bits) s = .next (s.coreTo k fun c =>
      c.scDone.holdTo (.branch (if q.2 (e.s (fld bits.toNat 15 11)) (e.s (fld bits.toNat 20 16))
        then ((e.idx : Int) + (BitVec.ofNat 32 (fld bits.toNat 63 32)).toInt).toNat else e.idx + 1))) := by
  refine exec_scBranch rfl h ?_
  rw [branchTarget_imm (by simp [h.opcOf_eq]), ← condHolds_of_mem hq, h.bits_eq, hc, Entry.toNat_s, Entry.toNat_s]

theorem exec_branchResolve {t : Nat} (hr : s.running id k) (hh : (s.core k).fe.hold = .branch t) :
    exec (.branchResolve id) s = .next (s.coreTo k fun c => { c with fe := { c.fe with ptr := t, hold := .free } }) := by
  obtain ⟨hcar, hrun⟩ := hr
  unfold State.core at hrun hh
  have resolve : s.pkg.branchResolve k = s.pkg.onCore k fun c => { c with fe := { c.fe with ptr := t, hold := .free } } := by
    simp [Pkg.branchResolve, hh, hrun, Pkg.onCore]
  exact exec_atCore rfl hcar resolve

/-! ### SC.STEP and SC.END -/

theorem exec_scStep_closed (h : s.scNext id k 0x32 bits e) (ho : s.pkg.flag F.CORE_BRACKET.OPEN k = false) :
    exec (.scStep id bits) s = .next (s.coreTo k fun c => c.scDone.holdTo (.step e.slate)) := by
  have held : s.pkg.scStep k bits.toNat = s.pkg.onCore k fun c => c.scDone.holdTo (.step e.slate) := by
    rw [Pkg.scStep, Pkg.scOp_scNext h]
    simp only [Pkg.onCore_flag, ho, Bool.false_eq_true, if_false]
    exact Pkg.onCore_onCore _ _ _ _ h.run
  exact exec_atCore rfl h.carries held

theorem exec_scStep_open (h : s.scNext id k 0x32 bits e) (ho : s.pkg.flag F.CORE_BRACKET.OPEN k = true) :
    exec (.scStep id bits) s = .next (s.pkgTo fun p => (p.onCore k Core.scDone).skipOp k .fe 1 bits.toNat e.slate e.idx
      e.brk 0x22 (slotDetail .fe bits.toNat)) := by
  have skipped : s.pkg.scStep k bits.toNat = (s.pkg.onCore k Core.scDone).skipOp k .fe 1 bits.toNat e.slate e.idx
      e.brk 0x22 (slotDetail .fe bits.toNat) := by
    rw [Pkg.scStep, Pkg.scOp_scNext h]
    simp only [Pkg.onCore_flag, ho, if_true, Pkg.skipSc, h.bits_eq]
  exact exec_atCore rfl h.carries skipped

theorem exec_scEnd (h : s.scNext id k 0x33 bits e) :
    exec (.scEnd id bits) s = .next (s.coreTo k fun c => c.scDone.holdTo (.ending e.slate)) :=
  exec_scOp rfl h fun _ => rfl

/-! ### The end of a program -/

/-- A package that is part of the machine has nothing to do that waits for its being out. -/
theorem Pkg.whenOut_of_state_eq_zero {p : Pkg} (h : p.getF F.CLAP_CONT_STATE.STATE 0 = 0) (m : Memory) : p.whenOut m = p := by
  simp [Pkg.whenOut, h]

theorem Pkg.flag_open_abandon (p : Pkg) (k : Nat) : (p.abandon k).flag F.CORE_BRACKET.OPEN k = false := by
  unfold Pkg.abandon
  rw [Pkg.onCore_flag, Pkg.flag_setF_fld (f := F.CORE_BRACKET.CLOSING) (g := F.CORE_BRACKET.OPEN) _ k 0 rfl rfl (by decide),
    Pkg.flag_setF_self (f := F.CORE_BRACKET.OPEN) _ k 0 rfl]
  rfl

theorem Pkg.flag_open_skipSummary (p : Pkg) (k slate j : Nat) :
    (p.skipSummary k slate).flag F.CORE_BRACKET.OPEN j = p.flag F.CORE_BRACKET.OPEN j := by
  unfold Pkg.skipSummary
  dsimp only
  split
  · rfl
  · rw [Pkg.flag_setF_ne _ _ _ _ (by decide), Pkg.flag_event _ _ _ _ _ _ _ _ _ (by decide)]; rfl

/-- A running core that halts: its state and cause, its front end free, its bracket closed; the package stays in or out. -/
theorem Pkg.haltCore_running {p : Pkg} (h : (p.core k).st = .run) (cause : Nat) :
    ((p.haltCore k cause).core k).st = .halt ∧ ((p.haltCore k cause).core k).halt = cause ∧
    ((p.haltCore k cause).core k).fe.hold = .free ∧ (p.haltCore k cause).flag F.CORE_BRACKET.OPEN k = false ∧
    (p.haltCore k cause).getF F.CLAP_CONT_STATE.STATE 0 = p.getF F.CLAP_CONT_STATE.STATE 0 := by
  have same := (((Pkg.SameControl.refl k p).landAll).abandon).skipSummary 0
  have closed : (((p.landAll k).abandon k).skipSummary k 0).flag F.CORE_BRACKET.OPEN k = false := by
    rw [Pkg.flag_open_skipSummary, Pkg.flag_open_abandon]
  have halts : p.haltCore k cause = (((p.landAll k).abandon k).skipSummary k 0).onCore k fun c =>
      { c with st := .halt, halt := cause, waits := [], ldWait := none,
               fe := { c.fe with hold := .free, gate := none, sc := none, miss := none } } := by
    simp [Pkg.haltCore, h]
  rw [halts, Pkg.core_onCore_self, Pkg.onCore_flag, Pkg.onCore_getF]
  exact ⟨rfl, rfl, rfl, closed, same.getF 0⟩

/-- A drained core's program ends by the halt with cause 0x1, once its bracket is abandoned and its skips are summed up. -/
theorem Pkg.programEnd_drained {p : Pkg} {slate : Nat} (hh : (p.core k).fe.hold = .ending slate)
    (hr : (p.core k).st = .run) (hd : (p.core k).drained = true) :
    ∃ q, Pkg.SameControl k p q ∧ p.programEnd k = q.haltCore k 1 := by
  have abandoned : Pkg.SameControl k p (if p.flag F.CORE_BRACKET.OPEN k then
      ((p.landAll k).abandon k).event 0x0023 (k / 128) 1 false (p.logIdx k) slate (slotDetail .fe 0x33)
      else p) := .change_if (.refl k p) (.event (.abandon (.landAll (.refl k p))))
  refine ⟨_, abandoned.skipSummary slate, ?_⟩
  unfold Pkg.programEnd
  simp only [hh, hr, hd, bne_self_eq_false, Bool.not_true, Bool.or_self, Bool.false_eq_true, if_false]

theorem exec_programEnd {slate : Nat} (hr : s.running id k) (hh : (s.core k).fe.hold = .ending slate)
    (hd : (s.core k).drained = true) (ho : s.pkg.getF F.CLAP_CONT_STATE.STATE 0 = 0) :
    ∃ t, exec (.programEnd id) s = .next t ∧ (t.core k).st = .halt ∧ (t.core k).halt = 1 ∧ (t.core k).fe.hold = .free ∧
      t.pkg.flag F.CORE_BRACKET.OPEN k = false ∧ t.mem = s.mem := by
  obtain ⟨hcar, hrun⟩ := hr
  obtain ⟨q, same, heq⟩ := Pkg.programEnd_drained hh hrun hd
  obtain ⟨st, halt, hold, closed, state⟩ := Pkg.haltCore_running (same.core.st.trans hrun) 1
  have ends : s.pkg.programEnds s.mem k = q.haltCore k 1 := by
    rw [Pkg.programEnds, heq, Pkg.whenOut_of_state_eq_zero (state.trans ((same.getF 0).trans ho))]
  exact ⟨s.pkgTo fun _ => q.haltCore k 1, exec_atCore rfl hcar ends, st, halt, hold, closed, rfl⟩

/-! ### A step boundary -/

theorem Pkg.ordersAt_of_orders_nil {p : Pkg} (h : p.orders = []) (k t : Nat) : p.ordersAt k t = p := by
  have pass : p.passOrders k t = p := by simp [Pkg.passOrders, Pkg.byStep, h]
  simp [Pkg.ordersAt, pass, h]

theorem Pkg.donateAt_of_donate_nil {p : Pkg} (h : p.lead.donate = []) (m : Memory) (k t : Nat) : p.donateAt m k t = p := by
  simp only [Pkg.donateAt, h, List.foldl_nil, Pkg.onLead]
  rw [← h]

theorem Pkg.afterBoundary_free {p : Pkg} (hj : p.lead.join = none) (hs : p.swap = none) (k t : Nat) :
    p.afterBoundary k t = .free := by
  simp [Pkg.afterBoundary, Pkg.swapAt, hj, hs]

theorem Pkg.joinDone_of_join_none {p : Pkg} (h : p.lead.join = none) : p.joinDone = p := by
  simp [Pkg.joinDone, h]

/-- The core's own actions at its boundary, once STEP_NO is raised, leave what decides how it goes on. -/
theorem Pkg.stepCore_sameControl (p : Pkg) (k slate : Nat) :
    Pkg.SameControl k ((p.landAll k).setReg .CORE_STEP k (p.reg .CORE_STEP k + 1)) (p.stepCore k slate) :=
  ((Pkg.SameControl.refl k _).onCore).skipSummary slate

/-- The boundary of a drained core whose package has no order, no part in a rejoin and no pending swap is that core's own
actions, after which dispatch goes on. -/
theorem Pkg.stepBoundary_drained {p : Pkg} {slate : Nat} (hh : (p.core k).fe.hold = .step slate) (hr : (p.core k).st = .run)
    (hd : (p.core k).drained = true) (ho : p.orders = []) (hdo : p.lead.donate = []) (hj : p.lead.join = none)
    (hs : p.swap = none) (hst : p.getF F.CLAP_CONT_STATE.STATE 0 = 0) (m : Memory) :
    p.stepBoundary m k .none = (p.stepCore k slate).onCore k fun c => c.holdTo .free := by
  have landed := (Pkg.SameControl.refl k p).landAll
  have stepped := p.stepCore_sameControl k slate
  have orders := stepped.orders.trans (landed.orders.trans ho)
  have lead : (p.stepCore k slate).lead = p.lead := stepped.lead.trans landed.lead
  have swap := stepped.swap.trans (landed.swap.trans hs)
  have run : ((p.stepCore k slate).core k).st = .run := stepped.core.st.trans (landed.core.st.trans hr)
  have state : (p.stepCore k slate).getF F.CLAP_CONT_STATE.STATE 0 = 0 := by
    rw [stepped.getF (f := F.CLAP_CONT_STATE.STATE), Pkg.getF_setReg_ne _ _ _ _ (by decide),
      landed.getF (f := F.CLAP_CONT_STATE.STATE), hst]
  unfold Pkg.stepBoundary Pkg.sramRead
  simp only [hh, hr, hd, bne_self_eq_false, Bool.not_true, Bool.or_self, Bool.false_eq_true, if_false,
    Pkg.ordersAt_of_orders_nil orders, Pkg.donateAt_of_donate_nil (lead ▸ hdo), Pkg.afterBoundary_free (lead ▸ hj) swap]
  have goes : ((p.stepCore k slate).onCore k fun c => if c.st == .run then { c with fe := { c.fe with hold := .free } } else c) =
      (p.stepCore k slate).onCore k fun c => c.holdTo .free := by
    simp [Pkg.onCore, run, Core.holdTo]
  rw [goes, Pkg.whenOut_of_state_eq_zero (by rwa [Pkg.onCore_getF]),
    Pkg.joinDone_of_join_none (by rwa [Pkg.onCore_lead, lead])]

theorem exec_stepBoundary {slate : Nat} (hr : s.running id k) (hh : (s.core k).fe.hold = .step slate)
    (hd : (s.core k).drained = true) (ho : s.pkg.orders = []) (hdo : s.pkg.lead.donate = []) (hj : s.pkg.lead.join = none)
    (hs : s.pkg.swap = none) (hst : s.pkg.getF F.CLAP_CONT_STATE.STATE 0 = 0) :
    ∃ t, exec (.stepBoundary id .none) s = .next t ∧ t.mem = s.mem ∧ (t.core k).fe.hold = .free ∧
      t.pkg.reg .CORE_STEP k = s.pkg.reg .CORE_STEP k + 1 ∧ (t.core k).s = (s.core k).s := by
  obtain ⟨hcar, hrun⟩ := hr
  have landed := (Pkg.SameControl.refl k s.pkg).landAll
  have stepped := s.pkg.stepCore_sameControl k slate
  have boundary := Pkg.stepBoundary_drained hh hrun hd ho hdo hj hs hst s.mem
  refine ⟨s.pkgTo fun p => (p.stepCore k slate).onCore k fun c => c.holdTo .free, exec_atCore rfl hcar boundary, rfl,
    ?hold, ?step, ?scalars⟩
  case hold => simp [Core.holdTo]
  case step => simp [stepped.reg .CORE_STEP rfl]
  case scalars =>
    have kept : ((s.pkg.stepCore k slate).core k).s = (s.core k).s := stepped.core.s.trans landed.core.s
    simp [Core.holdTo, kept]

end

/-! ### Control flow -/

/-- Settles O10: a branch holds fetch for the bundle it chooses; the landing of results, the summary of skips and an empty list
of orders leave a drained core's control as it was. -/
theorem controlFlow : Obligations.ControlFlow := by
  unfold Obligations.ControlFlow
  exact ⟨⟨fun _ _ _ _ _ => ⟨exec_scBr, exec_scBri, fun _ hq h => exec_scBrc h hq⟩, fun _ _ _ _ => exec_branchResolve⟩,
    fun _ _ _ _ _ => exec_scStep_closed, fun _ _ _ _ _ => exec_scStep_open, fun _ _ _ _ _ => exec_scEnd,
    fun _ _ _ _ => exec_programEnd, fun _ _ _ _ => exec_stepBoundary⟩

end Sys2Proof.Machine
end
